-- ==== Sys2Proof/Word.lean ====
section
/-!
DEFINITION. The byte, the two units and a pair that holds one value for each unit.
The DE72 has no machine word: what the manual treats as bits is the byte of a stream, a frame or a
card block. Counts, slots, block numbers and times are natural numbers.
-/

namespace Sys2Proof

/-- One byte of the diskette stream, of a Loader Port frame or of a card block. -/
abbrev Byte := BitVec 8

/-- The two units of the part (00_scope.md, Conventions: Unit 0 and Unit 1). -/
inductive UnitId where
  | u0
  | u1
  deriving DecidableEq, Repr

/-- The other unit. -/
def UnitId.other : UnitId → UnitId
  | .u0 => .u1
  | .u1 => .u0

/-- One value for Unit 0 and one for Unit 1. -/
structure PerUnit (α : Type) where
  u0 : α
  u1 : α
  deriving DecidableEq, Repr

/-- The value of one unit. -/
def PerUnit.get {α : Type} (p : PerUnit α) : UnitId → α
  | .u0 => p.u0
  | .u1 => p.u1

/-- The pair with one unit's value replaced; the other unit keeps its own. -/
def PerUnit.set {α : Type} (p : PerUnit α) (u : UnitId) (a : α) : PerUnit α :=
  match u with
  | .u0 => { p with u0 := a }
  | .u1 => { p with u1 := a }

end Sys2Proof
end

