-- ==== Sys2Proof/Syntax.lean ====
section
/-!
DEFINITION. The commands of the part: one constructor for each row of spec/opcode_table.json.
The rows are the part's steps (95_what_each_step_holds.md): events at a line of the Drive Port or the
Card Port, steps the part takes by its own clock, and frames of the Loader Port. The table gives no
bit fields, so the operands are those the rules name: which line and level, which unit, the byte on
write data, the card's answer, the bytes of a frame, the parameter bytes of a command (R180).
-/

namespace Sys2Proof

/-- The two recording methods of R1. -/
inductive Encoding where
  | fm
  | mfm
  deriving DecidableEq, Repr

/-- The four pairs of encoding and data rate that R1 allows, in which a byte can stand on the write
data line (R115). -/
inductive WireMode where
  | fm125
  | fm250
  | mfm250
  | mfm500
  deriving DecidableEq, Repr

/-- The select inputs of the Drive Port (R21, R22). -/
inductive SelectLine where
  | sel0
  | sel1
  | sel2
  | sel3
  deriving DecidableEq, Repr

/-- The motor inputs of the Drive Port (R27). -/
inductive MotorLine where
  | mota
  | motb
  deriving DecidableEq, Repr

/-- What the card answers to a run (R140, R141): the transfer is complete and correct (a READ run brings
its bytes), a check value did not match, or an error response. -/
inductive CardAnswer where
  | complete (data : List Byte)
  | badCheck
  | error
  deriving DecidableEq, Repr

/-- The commands. The name of a constructor is its row's mnemonic in lower camel case. -/
inductive Instr where
  -- the part as a whole
  | powerOn
  | resetLine
  -- Drive Port lines and the rotation
  | selectLineChange (line : SelectLine) (asserted : Bool)
  | motorLineChange (line : MotorLine) (asserted : Bool)
  | atSpeed (u : UnitId)
  | revolutionStart (u : UnitId)
  | indexPulseEnd
  | stepPulse (inward : Bool)
  | sideChange (asserted : Bool)
  | writeGateAssert
  | writeDataByte (byte : Byte) (wire : WireMode) (brokenClock : Bool)
  | writeGateRelease
  | readSlot
  -- Card Port
  | cardDetectAssert
  | cardInitAnswer (capacity : BitVec 32)
  | cardInitTimeout
  | cardDetectRelease
  | runGrant
  | runEnd (answer : CardAnswer)
  | runTimeout
  -- write-back and mounting
  | flushStart (u : UnitId)
  | dirtySinceExpiry (buffer : Fin 8)
  | pendingChangeApply (u : UnitId)
  -- frames of the Loader Port that carry no command
  | resultFrame (bytesOut : Nat)
  | cursorFrame (bytesIn : List Byte)
  | dataInFrame (bytesIn : List Byte)
  | dataOutFrame (bytesOut : Nat)
  | portReset
  | unknownFrameType (frameType : Byte) (laterBytes : Nat)
  | invalidCommand (code : Byte)
  -- COMMAND frames: the parameter bytes as they stand in the frame (R180)
  | configureUnit (unit enabled select motor mode : Byte)
  | setInterruptMask (mask : Byte)
  | mount (unit : Byte) (header : BitVec 32) (protect : Byte)
  | eject (unit : Byte)
  | setProtect (unit value : Byte)
  | hold
  | release
  | discard
  | readSectors (unit cylinder head first count : Byte)
  | writeSectors (unit cylinder head first count mark : Byte)
  | verifySectors (unit cylinder head first count : Byte)
  | readBlocks (block : BitVec 32) (count : Byte)
  | writeBlocks (block : BitVec 32) (count : Byte)
  | flush (selector : Byte)
  | unitStatus (unit : Byte)
  | cardReset
  | readBank (bank : Byte)
  | clearBank (bank : Byte)
  | setBankEnable (bank cause enable : Byte)
  | resume
  | commandFrameDropped
  deriving DecidableEq, Repr

end Sys2Proof
end

