-- ==== Sys2Proof/Decode.lean ====
section
/-!
DEFINITION. Decoding. The table of commands gives no bits, so no word of it spells a command. What the part
itself reads from bytes is a frame of the Loader Port (R164, R166, R180): `encodeFrame` writes the bytes
that the panel controller clocks in for a command, and `decodeFrame` reads which command such bytes are.
-/

namespace Sys2Proof

/-- The command that a word spells by the table's bits: no row of the table has bits. -/
def decodeTableWord (_nbits _w : Nat) : Option Instr := none

/-! ### Frames (R164, R180) -/

/-- The frame type codes (R180). -/
def frameTypes : List Byte := [0xC1, 0xC2, 0xC3, 0xC4, 0xC5, 0xCF]

/-- The command codes (R180). -/
def commandCodes : List Byte :=
  [0x10, 0x11, 0x20, 0x21, 0x22, 0x23, 0x24, 0x25, 0x30, 0x31, 0x32, 0x33, 0x40, 0x41, 0x42, 0x50,
   0x60, 0x61, 0x62, 0x63]

/-- A 32-bit value as four bytes, high byte first (R180). -/
def wordBytes (w : BitVec 32) : List Byte :=
  [w.extractLsb' 24 8, w.extractLsb' 16 8, w.extractLsb' 8 8, w.extractLsb' 0 8]

/-- Four bytes, high byte first, as a 32-bit value (R180). -/
def wordOf (a b c d : Byte) : BitVec 32 := a ++ b ++ c ++ d

/-- The bytes in of the frame that a Loader Port command is; absent for the events of the other ports. The bytes
that the panel controller clocks only to take bytes out are sent as 00. -/
def encodeFrame : Instr → Option (List Byte)
  | .resultFrame n => some (0xC2 :: List.replicate n 0)
  | .cursorFrame bs => some (0xC3 :: bs)
  | .dataInFrame bs => some (0xC4 :: bs)
  | .dataOutFrame n => some (0xC5 :: List.replicate n 0)
  | .portReset => some [0xCF]
  | .unknownFrameType t n => some (t :: List.replicate n 0)
  | .invalidCommand c => some [0xC1, c]
  | .configureUnit u e s m l => some [0xC1, 0x10, u, e, s, m, l]
  | .setInterruptMask m => some [0xC1, 0x11, m]
  | .mount u h p => some ([0xC1, 0x20, u] ++ wordBytes h ++ [p])
  | .eject u => some [0xC1, 0x21, u]
  | .setProtect u v => some [0xC1, 0x22, u, v]
  | .hold => some [0xC1, 0x23]
  | .release => some [0xC1, 0x24]
  | .discard => some [0xC1, 0x25]
  | .readSectors u c h r n => some [0xC1, 0x30, u, c, h, r, n]
  | .writeSectors u c h r n m => some [0xC1, 0x31, u, c, h, r, n, m]
  | .verifySectors u c h r n => some [0xC1, 0x32, u, c, h, r, n]
  | .flush u => some [0xC1, 0x33, u]
  | .readBlocks b n => some ([0xC1, 0x40] ++ wordBytes b ++ [n])
  | .writeBlocks b n => some ([0xC1, 0x41] ++ wordBytes b ++ [n])
  | .cardReset => some [0xC1, 0x42]
  | .unitStatus u => some [0xC1, 0x50, u]
  | .readBank b => some [0xC1, 0x60, b]
  | .clearBank b => some [0xC1, 0x61, b]
  | .setBankEnable b c e => some [0xC1, 0x62, b, c, e]
  | .resume => some [0xC1, 0x63]
  | .commandFrameDropped => some [0xC1]
  | .powerOn | .resetLine | .selectLineChange _ _ | .motorLineChange _ _ | .atSpeed _
  | .revolutionStart _ | .indexPulseEnd | .stepPulse _ | .sideChange _ | .writeGateAssert
  | .writeDataByte _ _ _ | .writeGateRelease | .readSlot | .cardDetectAssert | .cardInitAnswer _
  | .cardInitTimeout | .cardDetectRelease | .runGrant | .runEnd _ | .runTimeout | .flushStart _
  | .dirtySinceExpiry _ | .pendingChangeApply _ => none

/-- A COMMAND frame from its bytes after the frame type: the code and the parameters of R180. Bytes beyond the
parameters are ignored (R166 d); a frame with fewer is dropped (R166 c). -/
def decodeCommand : List Byte → Instr
  | [] => .commandFrameDropped
  | code :: ps =>
    if code = 0x10 then
      match ps with
      | u :: e :: s :: m :: l :: _ => .configureUnit u e s m l
      | _ => .commandFrameDropped
    else if code = 0x11 then
      match ps with
      | m :: _ => .setInterruptMask m
      | _ => .commandFrameDropped
    else if code = 0x20 then
      match ps with
      | u :: a :: b :: c :: d :: p :: _ => .mount u (wordOf a b c d) p
      | _ => .commandFrameDropped
    else if code = 0x21 then
      match ps with
      | u :: _ => .eject u
      | _ => .commandFrameDropped
    else if code = 0x22 then
      match ps with
      | u :: v :: _ => .setProtect u v
      | _ => .commandFrameDropped
    else if code = 0x23 then .hold
    else if code = 0x24 then .release
    else if code = 0x25 then .discard
    else if code = 0x30 then
      match ps with
      | u :: c :: h :: r :: n :: _ => .readSectors u c h r n
      | _ => .commandFrameDropped
    else if code = 0x31 then
      match ps with
      | u :: c :: h :: r :: n :: m :: _ => .writeSectors u c h r n m
      | _ => .commandFrameDropped
    else if code = 0x32 then
      match ps with
      | u :: c :: h :: r :: n :: _ => .verifySectors u c h r n
      | _ => .commandFrameDropped
    else if code = 0x33 then
      match ps with
      | u :: _ => .flush u
      | _ => .commandFrameDropped
    else if code = 0x40 then
      match ps with
      | a :: b :: c :: d :: n :: _ => .readBlocks (wordOf a b c d) n
      | _ => .commandFrameDropped
    else if code = 0x41 then
      match ps with
      | a :: b :: c :: d :: n :: _ => .writeBlocks (wordOf a b c d) n
      | _ => .commandFrameDropped
    else if code = 0x42 then .cardReset
    else if code = 0x50 then
      match ps with
      | u :: _ => .unitStatus u
      | _ => .commandFrameDropped
    else if code = 0x60 then
      match ps with
      | b :: _ => .readBank b
      | _ => .commandFrameDropped
    else if code = 0x61 then
      match ps with
      | b :: _ => .clearBank b
      | _ => .commandFrameDropped
    else if code = 0x62 then
      match ps with
      | b :: c :: e :: _ => .setBankEnable b c e
      | _ => .commandFrameDropped
    else if code = 0x63 then .resume
    else .invalidCommand code

/-- The command that the bytes of a frame are; absent when byte 0 was not completed, which changes nothing
(R164). Later bytes of a PORT_RESET frame are ignored (R171). -/
def decodeFrame : List Byte → Option Instr
  | [] => none
  | t :: bs =>
    if t = 0xC1 then some (decodeCommand bs)
    else if t = 0xC2 then some (.resultFrame bs.length)
    else if t = 0xC3 then some (.cursorFrame bs)
    else if t = 0xC4 then some (.dataInFrame bs)
    else if t = 0xC5 then some (.dataOutFrame bs.length)
    else if t = 0xCF then some .portReset
    else some (.unknownFrameType t bs.length)

end Sys2Proof
end

