-- ==== Sys2Proof/Config.lean ====
section
/-!
DEFINITION. The numbers the manual fixes for the whole part, and the one free value of the model.
-/

namespace Sys2Proof.Config

/-- One revolution in microseconds (R11). -/
def revolution : Nat := 200000

/-- The spin-up time in microseconds (R28). -/
def spinUpTime : Nat := 300000

/-- The end of the index pulse, as a rotation phase (R32). -/
def indexPulse : Nat := 2000

/-- The time allowed to the card's initialization (R135). -/
def initLimit : Nat := 1000000

/-- The time allowed to one attempt of a run (R141). -/
def runLimit : Nat := 250000

/-- The time from dirty-since to its expiry (R89). -/
def dirtyExpiry : Nat := 2000000

/-- The highest cylinder under a head (R34). -/
def lastCylinder : Nat := 83

/-- The track positions of an image (R50). -/
def trackPositions : Nat := 168

/-- The data capacity of one track buffer (R15, R70). -/
def bufferCapacity : Nat := 12288

/-- The number of track buffers (R70). -/
def bufferCount : Nat := 8

/-- The size of the Data Window (R169). -/
def windowSize : Nat := 8192

/-- The size of a card block (R47). -/
def blockSize : Nat := 512

/-- The fetch limit of a validation walk and of a lookup (R55, R64). -/
def fetchLimit : Nat := 256

/-- The starvation bound of the arbiter (R139). -/
def grantBound : Nat := 8

/-- The most override entries a geometry holds (R3). -/
def overrideLimit : Nat := 16

/-- The occurrence count at which a bank stays (R184). -/
def countLimit : Nat := 255

/-- The bound on the cascade of effects that follow one event within its step. It is larger than the
longest cascade of ordinary work (notes/assumptions/9.md). -/
def settleFuel : Nat := 4096

/-- A FREE VALUE: where the manual leaves an order open, the choice is this constant at the state's own
counter, which every use advances (notes/assumptions/4.md). It has no body, so no proof can see it. -/
opaque freeChoice : Nat → Nat

end Sys2Proof.Config
end

