-- ==== Sys2Proof/Machine/State.lean ====
section
/-!
DEFINITION. The state of the part as plain data, block by block, and its value after reset.
`Device` is every register, buffer, queue, flag and input level of the DE72; `State` adds the queue of
commands that wait.
-/

namespace Sys2Proof.Machine

/-! ### Stored bytes -/

/-- Addressed bytes in canonical form: strictly rising addresses, no entry equal to 00, which is what an
unlisted address reads as (the Data Window: R179, all 00; a data area: R76, cleared at allocation). -/
abbrev Mem := List Host.Cell

/-! ### Track formats and layouts (chapter 1) -/

/-- A track format (R1). `rate` is the data rate in bit/s; 0 stands for an encoding and rate code that
R180 does not list, which makes the format INVALID by R2 a). -/
structure TrackFormat where
  enc        : Encoding
  rate       : Nat
  sectors    : Nat
  sizeCode   : Nat
  firstR     : Nat
  gap3       : Nat
  interleave : Nat
  skew       : Nat
  rList      : Option (List Nat)
  deriving DecidableEq, Repr

/-- One entry of a layout's sector table (R13). -/
structure LayoutSector where
  start     : Nat
  number    : Nat
  logical   : Nat
  idMark    : Nat
  idEnd     : Nat
  dataMark  : Nat
  firstData : Nat
  dataCrc   : Nat
  deriving DecidableEq, Repr

/-- The layout of a track (R13). D is 128 × 2^N, and B is rate / 40 (R11). -/
structure Layout where
  enc      : Encoding
  rate     : Nat
  sectors  : Nat
  sizeCode : Nat
  gap3     : Nat
  gap4b    : Nat
  table    : List LayoutSector
  deriving DecidableEq, Repr

/-- The basis of a stream or of a capture: an encoding and a data rate (R99, R115). -/
structure Basis where
  enc  : Encoding
  rate : Nat
  deriving DecidableEq, Repr

/-- The head selector of an override entry (R3). -/
inductive HeadSelector where
  | head0
  | head1
  | both
  deriving DecidableEq, Repr

/-- An override table entry (R3). -/
structure OverrideEntry where
  firstCyl : Nat
  lastCyl  : Nat
  heads    : HeadSelector
  format   : TrackFormat
  deriving DecidableEq, Repr

/-- The geometry of an image (R3). -/
structure Geometry where
  base      : TrackFormat
  cylinders : Nat
  heads     : Nat
  overrides : List OverrideEntry
  deriving DecidableEq, Repr

/-- A track of a unit's mounted image: the key (unit, c, h) of 00_scope.md. -/
structure TrackKey where
  unit : UnitId
  cyl  : Nat
  head : Nat
  deriving DecidableEq, Repr

/-! ### Inputs and units (chapter 2) -/

/-- The levels of the input lines (2.11 and R135): true is asserted. -/
structure Lines where
  sel0       : Bool
  sel1       : Bool
  sel2       : Bool
  sel3       : Bool
  mota       : Bool
  motb       : Bool
  dir        : Bool
  side       : Bool
  wgate      : Bool
  cardDetect : Bool
  deriving DecidableEq, Repr

/-- What runs a unit's motor (R21). -/
inductive MotorSource where
  | mota
  | motb
  | select
  deriving DecidableEq, Repr

/-- What the ready/disk-change output reports (R21). -/
inductive LineMode where
  | ready
  | change
  deriving DecidableEq, Repr

/-- The unit record (R21). The last two fields are the model's own: `revDue` counts the wraps of the phase at speed
whose REVOLUTION_START step has not yet been taken (R30), `startUsed` marks that a pending change has applied at
the revolution start that is due, ahead of its REVOLUTION_START step (R159). -/
structure UnitRecord where
  enabled     : Bool
  selectLine  : SelectLine
  motorSource : MotorSource
  lineMode    : LineMode
  cylinder    : Nat
  side        : Bool
  motor       : Bool
  atSpeed     : Bool
  phase       : Nat
  spinUp      : Option Nat
  protect     : Bool
  latch       : Bool
  applied     : Bool
  lost        : Bool
  revDue      : Nat
  startUsed   : Bool
  deriving DecidableEq, Repr

/-! ### Image Map (chapter 3) -/

/-- The state of a mounted image's header (R58, R66). -/
inductive HeaderState where
  | clean
  | dirty
  | writing
  deriving DecidableEq, Repr

/-- A chain position (R52): card block, group index, descriptor index. -/
structure ChainPos where
  block : Nat
  group : Nat
  desc  : Nat
  deriving DecidableEq, Repr

/-- A DATA descriptor (R52). -/
structure Extent where
  start : Nat
  count : Nat
  deriving DecidableEq, Repr

/-- The Mount Record of an image (R58). -/
structure MountRecord where
  headerBlock : Nat
  headerCopy  : List Byte
  geometry    : Geometry
  readOnly    : Bool
  hasFlagMap  : Bool
  chainStart  : ChainPos
  trackOffset : List Nat
  sectorBase  : List Nat
  totalData   : Nat
  sectorCount : Nat
  flagMapLen  : Nat
  blocksNeeded : Nat
  spanLow     : Nat
  spanHigh    : Nat
  headerState : HeaderState
  reDirtied   : Bool
  deriving DecidableEq, Repr

/-- A lookup of a unit's list (R60, R61): the buffer that asks, the image block, how many blocks at most, and
the lookup's own fetch count. -/
structure Lookup where
  buffer  : Nat
  block   : Nat
  count   : Nat
  fetches : Nat
  deriving DecidableEq, Repr

/-- The Extent Window, the group buffer and the list of lookups of a unit (R59, R60). `fetching` says that the
first lookup waits for its group fetch. -/
structure ExtentWindow where
  entries  : List Extent
  base     : Nat
  next     : ChainPos
  endSeen  : Bool
  groupBuf : Option (Nat × List Byte)
  lookups  : List Lookup
  fetching : Bool
  deriving DecidableEq, Repr

/-! ### Track Buffer Pool (chapter 4) -/

/-- The five states of a buffer (R70). -/
inductive BufferState where
  | free
  | filling
  | clean
  | dirty
  | flushing
  deriving DecidableEq, Repr

/-- The flags of a sector (R71). -/
structure SectorFlags where
  deleted    : Bool
  dataCrcBad : Bool
  idCrcBad   : Bool
  noData     : Bool
  unreadable : Bool
  deriving DecidableEq, Repr

/-- A sector record (R71). -/
structure Sector where
  number   : Nat
  position : Nat
  logical  : Nat
  flags    : SectorFlags
  dirty    : Bool
  inFlush  : Bool
  deriving DecidableEq, Repr

/-- The kind of a block in a fill's or a flush's list: a fill reads data blocks and then flag-map blocks (R78);
a flush writes whole and partial blocks (R91). -/
inductive BlockKind where
  | data
  | flagMap
  | whole
  | partialBlock
  deriving DecidableEq, Repr

/-- An image block still to be read by a fill or written by a flush. -/
structure WorkBlock where
  image : Nat
  kind  : BlockKind
  deriving DecidableEq, Repr

/-- What a fill or a flush has outstanding (R78, R91): nothing, a lookup, a READ run or a WRITE run of so
many blocks from a card block. -/
inductive WorkStage where
  | next
  | lookup (count : Nat)
  | reading (card count : Nat)
  | writing (card count : Nat)
  deriving DecidableEq, Repr

/-- The work of a FILLING or FLUSHING buffer: blocks to do, what is outstanding, the bytes the READ of a
partial run returned (R91), and the blocks of runs and lookups that failed (R93). -/
structure Work where
  todo    : List WorkBlock
  stage   : WorkStage
  taken   : List Byte
  failed  : List Nat
  deriving DecidableEq, Repr

/-- A track buffer (R70). The purpose of a FILLING buffer is a view of the state (`Device.purpose`, R75). -/
structure TrackBuffer where
  state      : BufferState
  key        : Option TrackKey
  layout     : Option Layout
  sectors    : List Sector
  data       : Mem
  completion : Option Nat
  dirtySince : Option Nat
  reDirtied  : Bool
  evict      : Bool
  work       : Option Work
  deriving DecidableEq, Repr

/-- The purpose of a fill (R75). -/
inductive Purpose where
  | current
  | loader
  | prefetch
  deriving DecidableEq, Repr

/-- The pool: eight buffers, the LRU order (most recently used first), the write-back queue (oldest first) and
the wait list (oldest first). The purpose of a wait list entry is a view of the state (R77). -/
structure Pool where
  buffers : List TrackBuffer
  lru     : List Nat
  queue   : List Nat
  waits   : List TrackKey
  deriving DecidableEq, Repr

/-! ### Read Stream Generator (chapter 5) -/

/-- A section of a track (R101). -/
inductive StreamSection where
  | index
  | ident (k : Nat)
  | data (k : Nat)
  deriving DecidableEq, Repr

/-- The ID decision (R103). -/
structure IdDecision where
  c : Nat
  h : Nat
  r : Nat
  n : Nat
  complemented : Bool
  deriving DecidableEq, Repr

/-- The data decision (R104). -/
inductive DataDecision where
  | present
  | absent
  deriving DecidableEq, Repr

/-- The latch (R105): the data bytes, the mark byte and the two CRC bytes to deliver. -/
structure DataLatch where
  data : List Byte
  mark : Byte
  crc  : BitVec 16
  deriving DecidableEq, Repr

/-- The delivery record of a unit (R98). Mode and basis are views of the state (`Device.streamMode`,
`Device.streamBasis`). `slotEnd` is the model's own: the time at which the slot last
delivered, or left to be finished at a change of track or basis, ends. -/
structure Delivery where
  openSection  : Option StreamSection
  idDecision   : Option IdDecision
  dataDecision : Option DataDecision
  latch        : Option DataLatch
  slotEnd      : Option Nat
  deriving DecidableEq, Repr

/-- A byte on the read data line: its value, its encoding and rate, and whether it is sent with the broken clock
of R8. -/
structure StreamByte where
  value  : Byte
  basis  : Basis
  broken : Bool
  deriving DecidableEq, Repr

/-! ### Write Decoder (chapter 6) -/

/-- The state of a Capture Record outside EMPTY (R114). -/
inductive CaptureState where
  | capturing
  | pending
  deriving DecidableEq, Repr

/-- The kind of the mark that opened a captured field (R114). -/
inductive MarkKind where
  | index
  | ident
  | data
  | deleted
  deriving DecidableEq, Repr

/-- A captured field (R114): its mark kind, its mark slot and the bytes after the mark. `slots` holds the slot of each of
these bytes, which R115 finds from the phase; it is the model's own (notes/assumptions/7.md). -/
structure CapField where
  kind     : MarkKind
  markSlot : Nat
  bytes    : List Byte
  slots    : List Nat
  deriving DecidableEq, Repr

/-- The Capture Record of a unit outside EMPTY (R114). Phases are counted on from the start without wrapping;
the start slot and the end slot are views of `startPhase` and `lastPhase` at the basis rate.
`startTime` (when the capture began), `basisFixed` and `specials` (the special bytes of a mark that
is still coming in, newest first, with their phases) are the model's own. -/
structure Capture where
  state      : CaptureState
  key        : TrackKey
  startPhase : Nat
  startTime  : Nat
  basis      : Basis
  basisFixed : Bool
  lastPhase  : Option Nat
  fields     : List CapField
  capReached : Bool
  specials   : List (Nat × Byte × WireMode)
  deriving DecidableEq, Repr

/-! ### Card Controller (chapter 7) -/

/-- The card states (R134). -/
inductive CardState where
  | absent
  | initializing
  | ready
  | failed
  deriving DecidableEq, Repr

/-- The arbiter classes, highest first (R138). -/
inductive ArbClass where
  | a
  | b
  | c
  | d
  | e
  | f
  deriving DecidableEq, Repr

/-- The requesters of runs (R137). -/
inductive Requester where
  | window (u : UnitId)
  | buffer (i : Nat)
  | header (u : UnitId)
  | engine
  deriving DecidableEq, Repr

/-- READ or WRITE (R134). -/
inductive RunKind where
  | read
  | write
  deriving DecidableEq, Repr

/-- The work named in a report (R181). -/
inductive Operation where
  | fill
  | flush
  | fetch
  | capture
  | mount
  | loader
  | init
  | drive
  deriving DecidableEq, Repr

/-- A track location: cylinder and head, with R optional within it (R181). -/
structure TrackLoc where
  cyl  : Nat
  head : Nat
  r    : Option Nat
  deriving DecidableEq, Repr

/-- A waiting request (R137) with its time of request, and what a report about its run will carry (R143).
Its class is a view of the state (`Device.requestClass`), so that it follows its requester. -/
structure Request where
  who    : Requester
  kind   : RunKind
  block  : Nat
  count  : Nat
  time   : Nat
  op     : Operation
  unit   : Option UnitId
  track  : Option TrackLoc
  deriving DecidableEq, Repr

/-- The causes of a run's failure (R141). -/
inductive RunCause where
  | crc
  | reject
  | timeout
  deriving DecidableEq, Repr

/-- The run record (R134): the request, the class it was granted in, the attempt (2 when the first attempt's
cause is present), the time of grant, the bytes a WRITE sends, and whether its requester withdrew
(R145 a). -/
structure Run where
  req        : Request
  cls        : ArbClass
  firstCause : Option RunCause
  granted    : Nat
  bytes      : List Byte
  withdrawn  : Bool
  deriving DecidableEq, Repr

/-- The Card Controller's record (R134). `retry` is the retry owed, with the cause of the first attempt (R142).
`resetWaits` says that a CARD_RESET waits for the run in flight to end (R149). -/
structure CardRecord where
  state      : CardState
  capacity   : Option Nat
  initTime   : Option Nat
  run        : Option Run
  retry      : Option (Run × RunCause)
  requests   : List Request
  grants     : Nat
  resetWaits : Bool
  deriving DecidableEq, Repr

/-! ### Mount Sequencer (chapter 8) -/

/-- The image part of a change (R151). -/
inductive ImagePart where
  | mount (record : MountRecord) (protect : Bool)
  | eject
  deriving DecidableEq, Repr

/-- A pending change or a staged record (R151); empty when both parts are absent. -/
structure Change where
  image   : Option ImagePart
  protect : Option Bool
  deriving DecidableEq, Repr

/-- The pending changes and the staged group, absent while CLOSED (R151). -/
structure Sequencer where
  pending : PerUnit (Option Change)
  group   : Option (PerUnit Change)
  deriving DecidableEq, Repr

/-! ### Loader Port (chapter 9) -/

/-- The termination classes (R167). -/
inductive TermClass where
  | done
  | failed
  | refused
  | displaced
  deriving DecidableEq, Repr

/-- The details of 9.8. -/
inductive Detail where
  | none
  | staged
  | pending
  | equal
  | differ
  | invalidCommand
  | range
  | mounted
  | unitDisabled
  | offline
  | cardState
  | notMounted
  | readOnly
  | overlap
  | chainLimit
  | chainShort
  | headerBad
  | geometry
  | protectedArea
  | noSector
  | cardError
  | cardAbsent
  | imageChanged
  | groupState
  deriving DecidableEq, Repr

/-- A result held for the RESULT frame (R167). -/
structure CmdResult where
  cls    : TermClass
  detail : Detail
  code   : Byte
  bytes  : List Byte
  deriving DecidableEq, Repr

/-- The three sector commands (R173); WRITE_SECTORS carries its mark option. -/
inductive SectorOp where
  | read
  | write (deleted : Bool)
  | verify
  deriving DecidableEq, Repr

/-- A sector command in execution (R173). -/
structure SectorCmd where
  op    : SectorOp
  key   : TrackKey
  first : Nat
  count : Nat
  deriving DecidableEq, Repr

/-- The validation walk (R53 to R56): `draft` is absent while the header is read; then it is the record under
construction, with the walk buffer, the fetch count, the chain position, the sum of counts and the
highest DATA block. -/
structure Walk where
  draft    : Option MountRecord
  buffer   : Option (Nat × List Byte)
  fetches  : Nat
  pos      : ChainPos
  sum      : Nat
  dataHigh : Nat
  deriving DecidableEq, Repr

/-- A MOUNT in validation (R152). -/
structure MountCmd where
  unit    : UnitId
  header  : Nat
  protect : Bool
  walk    : Walk
  deriving DecidableEq, Repr

/-- The unit selector of FLUSH (R177). -/
inductive FlushSel where
  | one (u : UnitId)
  | both
  deriving DecidableEq, Repr

/-- The command in execution (R166). -/
inductive Command where
  | mount (m : MountCmd)
  | sectors (c : SectorCmd)
  | readBlocks (block count : Nat)
  | writeBlocks (block count : Nat)
  | flush (sel : FlushSel)
  | cardReset
  deriving DecidableEq, Repr

/-- The Command Engine (R166). -/
inductive Engine where
  | idle
  | executing (c : Command)
  | result (r : CmdResult)
  deriving DecidableEq, Repr

/-- The sources of the interrupt line that the mask enables (R172). -/
structure IrqMask where
  result : Bool
  bank   : Bool
  unit   : Bool
  deriving DecidableEq, Repr

/-- The Loader Port. `frameOut` is the bytes the last frame clocked out, Port Status first: the data out line as
the panel controller saw it. -/
structure LoaderPort where
  engine     : Engine
  window     : Mem
  cursor     : Nat
  frameFault : Bool
  mask       : IrqMask
  frameOut   : List Byte
  deriving DecidableEq, Repr

/-! ### Fault Report Banks (chapter 10) -/

/-- The causes of the four banks (R182). -/
inductive Cause where
  | doubleSelect
  | stepLimit
  | writeNoDisk
  | stepDuringWrite
  | writeProtected
  | writeNoTrack
  | writeCrc
  | overlongWrite
  | idMismatch
  | trackNotReady
  | partialWrite
  | flagLost
  | strayWrite
  | formatMixed
  | formatSize
  | formatFit
  | formatTableFull
  | chainLimit
  | chainShort
  | fetchFail
  | headerWrite
  | cardCrc
  | cardReject
  | cardTimeout
  | cardRemoved
  | initFail
  deriving DecidableEq, Repr

/-- The report classes, from lowest to highest (R181). -/
inductive ReportClass where
  | note
  | corrected
  | uncorrected
  deriving DecidableEq, Repr

/-- The banks, numbered 0 to 3 (R181). -/
inductive BankId where
  | drive
  | track
  | map
  | card
  deriving DecidableEq, Repr

/-- A fault report (R181). -/
structure Report where
  cls   : ReportClass
  cause : Cause
  op    : Operation
  unit  : Option UnitId
  track : Option TrackLoc
  block : Option Nat
  deriving DecidableEq, Repr

/-- A bank (R181): the record, VALID when present; OVERFLOW; the occurrence count; and the enable set, one
enable for each cause in the order of the cause codes of R180. ENABLED is a view (R183). -/
structure Bank where
  record   : Option Report
  overflow : Bool
  count    : Nat
  enables  : List Bool
  deriving DecidableEq, Repr

/-- The four banks, FIP and OFFLINE (R181). `entryOwed` is the model's own: OFFLINE was entered in this step
and the effects of R187 are still to be handed; it is clear between steps. -/
structure FaultBanks where
  drive     : Bank
  track     : Bank
  map       : Bank
  card      : Bank
  fip       : Bool
  offline   : Bool
  entryOwed : Bool
  deriving DecidableEq, Repr

/-! ### The part -/

/-- What a requester is told about its run: success with the bytes of a READ, or failure (R137, R142). -/
structure RunNews where
  who  : Requester
  ok   : Bool
  data : List Byte
  deriving DecidableEq, Repr

/-- The whole part. `now` (the time in µs), `freeCount` (the free choices made) and `news` (outcomes of runs not
yet handed to their requesters; empty between steps) are the model's own. -/
structure Device where
  now       : Nat
  freeCount : Nat
  lines     : Lines
  units     : PerUnit UnitRecord
  images    : PerUnit (Option MountRecord)
  windows   : PerUnit ExtentWindow
  pool      : Pool
  delivery  : PerUnit Delivery
  readData  : Option StreamByte
  captures  : PerUnit (Option Capture)
  card      : CardRecord
  news      : List RunNews
  seq       : Sequencer
  port      : LoaderPort
  banks     : FaultBanks
  deriving DecidableEq, Repr

/-- The machine: the part, and the queue of the commands that wait, first in, first out. -/
structure State where
  dev     : Device
  pending : List Instr
  deriving DecidableEq, Repr

/-- The faults of the machine: none. Every command has its effect, or no effect, in every state; a fault of the
manual is a report in a bank, which is state. No meaning raises a fault (safe: there is none to raise). -/
inductive Fault where
  deriving DecidableEq, Repr

/-- The refusals of the machine. -/
inductive Refusal where
  /-- Raised by `exec` alone, for a command that has no meaning yet; no arm raises it now. Safe: it stops. -/
  | notModelled (mnemonic : String)
  deriving DecidableEq, Repr

/-! ### Reset values -/

/-- Every input released and no card: what the part's environment is taken to be at `State.reset`
(notes/assumptions/2.md). -/
def Lines.released : Lines :=
  { sel0 := false, sel1 := false, sel2 := false, sel3 := false, mota := false, motb := false,
    dir := false, side := false, wgate := false, cardDetect := false }

/-- The unit record at power-on and after the reset line, before the lines are sampled (R22, R45). -/
def UnitRecord.reset : UnitId → UnitRecord
  | .u0 =>
    { enabled := true, selectLine := .sel0, motorSource := .mota, lineMode := .change,
      cylinder := 0, side := false, motor := false, atSpeed := false, phase := 0, spinUp := none,
      protect := false, latch := true, applied := false, lost := false,
      revDue := 0, startUsed := false }
  | .u1 =>
    { enabled := false, selectLine := .sel1, motorSource := .motb, lineMode := .change,
      cylinder := 0, side := false, motor := false, atSpeed := false, phase := 0, spinUp := none,
      protect := false, latch := true, applied := false, lost := false,
      revDue := 0, startUsed := false }

/-- A window of a unit without an image (R69). -/
def ExtentWindow.empty (start : ChainPos) : ExtentWindow :=
  { entries := [], base := 0, next := start, endSeen := false, groupBuf := none, lookups := [],
    fetching := false }

/-- The continuation point of a window whose unit has no Mount Record. DESIGN CHOICE: R59 gives the point by the Mount
Record in force and R69 says only that the window is empty; the model gives it block, group and descriptor 0
(notes/assumptions/43.md). -/
def ChainPos.zero : ChainPos := { block := 0, group := 0, desc := 0 }

/-- A FREE buffer (R70, R97). -/
def TrackBuffer.free : TrackBuffer :=
  { state := .free, key := none, layout := none, sectors := [], data := [], completion := none,
    dirtySince := none, reDirtied := false, evict := false, work := none }

/-- The pool at power-on and after the reset line (R97). -/
def Pool.reset : Pool :=
  { buffers := List.replicate 8 TrackBuffer.free, lru := [0, 1, 2, 3, 4, 5, 6, 7], queue := [],
    waits := [] }

/-- An empty delivery record (R98). -/
def Delivery.empty : Delivery :=
  { openSection := none, idDecision := none, dataDecision := none, latch := none, slotEnd := none }

/-- The Card Controller with no card (R150). -/
def CardRecord.reset : CardRecord :=
  { state := .absent, capacity := none, initTime := none, run := none, retry := none,
    requests := [], grants := 0, resetWaits := false }

/-- An empty change (R151). -/
def Change.empty : Change := { image := none, protect := none }

/-- The Mount Sequencer at power-on and after the reset line (R163). -/
def Sequencer.reset : Sequencer := { pending := ⟨none, none⟩, group := none }

/-- The Loader Port at power-on and after the reset line (R179). -/
def LoaderPort.reset : LoaderPort :=
  { engine := .idle, window := [], cursor := 0, frameFault := false,
    mask := { result := false, bank := false, unit := false }, frameOut := [] }

/-- An empty bank with the given enable set (R191). -/
def Bank.empty (enables : List Bool) : Bank :=
  { record := none, overflow := false, count := 0, enables := enables }

/-- The banks at power-on (R182, R191): every cause is enabled but DOUBLE_SELECT, STEP_LIMIT and
TRACK_NOT_READY. -/
def FaultBanks.powerOn : FaultBanks :=
  { drive := Bank.empty [false, false, true, true, true, true]
    track := Bank.empty [true, true, true, false, true, true, true, true, true, true, true]
    map := Bank.empty [true, true, true, true]
    card := Bank.empty [true, true, true, true, true]
    fip := false, offline := false, entryOwed := false }

/-- The part at power-on with every line released (R45, R69, R97, R113, R132, R150, R163, R179, R191). -/
def Device.reset : Device :=
  { now := 0, freeCount := 0, lines := Lines.released,
    units := ⟨UnitRecord.reset .u0, UnitRecord.reset .u1⟩,
    images := ⟨none, none⟩,
    windows := ⟨ExtentWindow.empty ChainPos.zero, ExtentWindow.empty ChainPos.zero⟩,
    pool := Pool.reset,
    delivery := ⟨Delivery.empty, Delivery.empty⟩, readData := none,
    captures := ⟨none, none⟩,
    card := CardRecord.reset, news := [],
    seq := Sequencer.reset, port := LoaderPort.reset, banks := FaultBanks.powerOn }

/-- The machine right after power-on: the part's power-on values and an empty queue. -/
def State.reset : State := { dev := Device.reset, pending := [] }

end Sys2Proof.Machine
end

