-- ==== Sys2Proof/Machine/Layout.lean ====
section
/-!
DEFINITION. The Layout Calculator (chapter 1): field constants, CRC, slots, room and capacity tests,
sector order, layouts and the format of a track. It holds no state.
-/

namespace Sys2Proof.Machine

/-! ### Field constants (R7, R8) -/

/-- Preamble P. -/
def preamble : Encoding → Nat
  | .mfm => 128
  | .fm => 64

/-- Per-sector overhead O. -/
def overhead : Encoding → Nat
  | .mfm => 62
  | .fm => 33

/-- End of the ID field, as an offset within the sector. -/
def idEndOffset : Encoding → Nat
  | .mfm => 22
  | .fm => 13

/-- First data byte, as an offset within the sector. -/
def firstDataOffset : Encoding → Nat
  | .mfm => 60
  | .fm => 31

/-- Sync length. -/
def syncLen : Encoding → Nat
  | .mfm => 12
  | .fm => 6

/-- Mark length. -/
def markLen : Encoding → Nat
  | .mfm => 4
  | .fm => 1

/-- Minimum gap 4b M. -/
def minGap4b : Encoding → Nat
  | .mfm => 16
  | .fm => 8

/-- Minimum gap 3. -/
def minGap3 : Encoding → Nat
  | .mfm => 8
  | .fm => 4

/-- Length of gap 2, from the end of the ID field to the data sync run. -/
def gap2Len : Encoding → Nat
  | .mfm => 22
  | .fm => 11

/-- Length of gap 4a, from the index to the sync run of the index mark. -/
def gap4aLen : Encoding → Nat
  | .mfm => 64
  | .fm => 32

/-- Filler byte. -/
def filler : Encoding → Byte
  | .mfm => 0x4E
  | .fm => 0xFF

/-- Offset of the ID mark within the sector (R16). -/
def idMarkOffset (e : Encoding) : Nat := syncLen e

/-- Offset of the data sync run within the sector (R16). -/
def dataSyncOffset (e : Encoding) : Nat := idEndOffset e + gap2Len e

/-- Offset of the data mark within the sector (R16). -/
def dataMarkOffset (e : Encoding) : Nat := dataSyncOffset e + syncLen e

/-- Index mark byte. -/
def indexMark : Byte := 0xFC

/-- ID mark byte. -/
def idMark : Byte := 0xFE

/-- Data mark byte. -/
def dataMark : Byte := 0xFB

/-- Deleted-data mark byte. -/
def deletedMark : Byte := 0xF8

/-- The special sync-mark byte before an ID, data or deleted-data mark in MFM. -/
def specialA1 : Byte := 0xA1

/-- The special sync-mark byte before an index mark in MFM. -/
def specialC2 : Byte := 0xC2

/-- The bytes of a mark as they are sent (R8). -/
def markBytes (e : Encoding) (special mark : Byte) : List Byte :=
  match e with
  | .mfm => [special, special, special, mark]
  | .fm => [mark]

/-! ### CRC (R9, R10) -/

/-- One bit into the check value: polynomial x¹⁶ + x¹² + x⁵ + 1. -/
def crcBit (c : BitVec 16) (b : Bool) : BitVec 16 :=
  if c.msb != b then (c <<< 1) ^^^ 0x1021 else c <<< 1

/-- One byte into the check value, most significant bit first. -/
def crcByte (c : BitVec 16) (b : Byte) : BitVec 16 :=
  [7, 6, 5, 4, 3, 2, 1, 0].foldl (fun acc i => crcBit acc (b.getLsbD i)) c

/-- The CRC of a byte string, starting from all ones (R9). -/
def crc (bs : List Byte) : BitVec 16 := bs.foldl crcByte 0xFFFF

/-- The two bytes of a CRC, high byte first. -/
def crcBytes (c : BitVec 16) : List Byte := [c.extractLsb' 8 8, c.extractLsb' 0 8]

/-- The CRC of an ID field (R9 a, b). -/
def idCrc (e : Encoding) (c h r n : Byte) : BitVec 16 :=
  crc (markBytes e specialA1 idMark ++ [c, h, r, n])

/-- The CRC of a data field (R9 c, d), over the mark byte actually delivered or captured. -/
def dataCrc (e : Encoding) (mark : Byte) (data : List Byte) : BitVec 16 :=
  crc (markBytes e specialA1 mark ++ data)

/-! ### Slots and phase (R11, R12) -/

/-- The length of a slot in microseconds (R11). -/
def slotLen (rate : Nat) : Nat := 8000000 / rate

/-- Slots per revolution B (R11). -/
def slotsPerRev (rate : Nat) : Nat := rate / 40

/-- The slot under the head at a phase (R12). -/
def slotAt (rate phase : Nat) : Nat := phase / slotLen rate

/-- The phase at which a slot begins (R12). -/
def slotPhase (rate slot : Nat) : Nat := slot * slotLen rate

/-- The basis that a wire mode shows. -/
def wireBasis : WireMode → Basis
  | .fm125 => { enc := .fm, rate := 125000 }
  | .fm250 => { enc := .fm, rate := 250000 }
  | .mfm250 => { enc := .mfm, rate := 250000 }
  | .mfm500 => { enc := .mfm, rate := 500000 }

/-! ### Formats (R1, R2) -/

/-- The length D of a sector of size code N (R1). -/
def sizeLen (n : Nat) : Nat := 128 * 2 ^ n

/-- D of a format. -/
def TrackFormat.dataLen (f : TrackFormat) : Nat := sizeLen f.sizeCode

/-- S × D of a format (R5). -/
def TrackFormat.dataSize (f : TrackFormat) : Nat := f.sectors * f.dataLen

/-- The rates allowed for an encoding (R1). -/
def rateAllowed : Encoding → Nat → Bool
  | .fm, r => r == 125000 || r == 250000
  | .mfm, r => r == 250000 || r == 500000

/-- No value appears twice. -/
def allDistinct : List Nat → Bool
  | [] => true
  | x :: xs => !xs.contains x && allDistinct xs

/-- R2: the format is not INVALID. -/
def TrackFormat.valid (f : TrackFormat) : Bool :=
  rateAllowed f.enc f.rate
    && decide (1 ≤ f.sectors) && decide (f.sectors ≤ 64) && decide (f.sizeCode ≤ 6)
    && decide (1 ≤ f.gap3) && decide (f.gap3 ≤ 255)
    && (match f.rList with
        | none =>
          decide (f.firstR + f.sectors ≤ 256)
            && decide (1 ≤ f.interleave) && decide (f.interleave ≤ f.sectors)
            && decide (f.skew + 1 ≤ f.sectors)
        | some l => l.length == f.sectors && allDistinct l)

/-- The shrunk gap G′ of R14 b, in signed arithmetic with the floor toward minus infinity. -/
def TrackFormat.shrunkGap (f : TrackFormat) : Int :=
  ((slotsPerRev f.rate : Int) - minGap4b f.enc - preamble f.enc
    - f.sectors * (overhead f.enc + f.dataLen)) / (f.sectors : Int)

/-- R14: gap 3 in effect, absent when the room test fails. -/
def TrackFormat.gapInEffect (f : TrackFormat) : Option Nat :=
  let t := preamble f.enc + f.sectors * (overhead f.enc + f.dataLen + f.gap3)
  if t + minGap4b f.enc ≤ slotsPerRev f.rate then some f.gap3
  else if (minGap3 f.enc : Int) ≤ f.shrunkGap then some f.shrunkGap.toNat
  else none

/-- R15: the capacity test. -/
def TrackFormat.withinCapacity (f : TrackFormat) : Bool :=
  decide (f.dataSize ≤ Config.bufferCapacity)

/-! ### Sector order (R5, R18 to R20) -/

/-- The first position at or after a candidate that no earlier sector occupies, going round (R18). The last
argument bounds the search by the number of positions. -/
def firstFree (taken : List Nat) (s candidate : Nat) : Nat → Nat
  | 0 => candidate
  | fuel + 1 =>
    if taken.contains candidate then firstFree taken s ((candidate + 1) % s) fuel else candidate

/-- The positions of the logical sectors 0..S − 1 before the skew (R18). -/
def placement (s i : Nat) : List Nat :=
  (List.range s).foldl (fun taken j => taken ++ [firstFree taken s ((j * i) % s) s]) []

/-- The rotation of a track (R19): t × K mod S, with t = c × H + h. -/
def skewRotation (f : TrackFormat) (c h heads : Nat) : Nat :=
  ((c * heads + h) * f.skew) % f.sectors

/-- The sector numbers of a track in physical order (R19, R20). -/
def TrackFormat.order (f : TrackFormat) (c h heads : Nat) : List Nat :=
  match f.rList with
  | some l => l
  | none =>
    let pos := (placement f.sectors f.interleave).map
      (fun p => (p + skewRotation f c h heads) % f.sectors)
    (List.range f.sectors).map (fun k => f.firstR + pos.idxOf k)

/-- The logical index of a sector number: its rank among the numbers of the track (R5). -/
def rank (numbers : List Nat) (r : Nat) : Nat := (numbers.filter (fun x => x < r)).length

/-- R6: two formats are equal on a track. -/
def TrackFormat.equalOn (a b : TrackFormat) (c h heads : Nat) : Bool :=
  a.enc == b.enc && a.rate == b.rate && a.sectors == b.sectors && a.sizeCode == b.sizeCode
    && a.gap3 == b.gap3 && a.order c h heads == b.order c h heads

/-! ### The layout (R13, R16) -/

/-- The start slot of the sector at position k (R16). -/
def sectorStart (e : Encoding) (d g k : Nat) : Nat := preamble e + k * (overhead e + d + g)

/-- The entry of the sector table for position k (R13, R16). -/
def layoutSector (e : Encoding) (d g : Nat) (numbers : List Nat) (k : Nat) : LayoutSector :=
  let s := sectorStart e d g k
  { start := s
    number := numbers.getD k 0
    logical := rank numbers (numbers.getD k 0)
    idMark := s + idMarkOffset e
    idEnd := s + idEndOffset e
    dataMark := s + dataMarkOffset e
    firstData := s + firstDataOffset e
    dataCrc := s + firstDataOffset e + d }

/-- The result of the Layout Calculator (R13). -/
inductive LayoutResult where
  | invalid
  | noFit
  | fit (l : Layout)
  deriving DecidableEq, Repr

/-- The Layout Calculator (R13). -/
def layoutOf (f : TrackFormat) (c h heads : Nat) : LayoutResult :=
  if !f.valid then .invalid
  else match f.gapInEffect with
    | none => .noFit
    | some g =>
      if !f.withinCapacity then .noFit
      else
        .fit
          { enc := f.enc, rate := f.rate, sectors := f.sectors, sizeCode := f.sizeCode
            gap3 := g
            gap4b := slotsPerRev f.rate - preamble f.enc
              - f.sectors * (overhead f.enc + f.dataLen + g)
            table := (List.range f.sectors).map
              (layoutSector f.enc f.dataLen g (f.order c h heads)) }

/-- The layout, when the format fits. -/
def fitLayout (f : TrackFormat) (c h heads : Nat) : Option Layout :=
  match layoutOf f c h heads with
  | .fit l => some l
  | _ => none

/-- D of a layout. -/
def Layout.dataLen (l : Layout) : Nat := sizeLen l.sizeCode

/-- The basis of a layout. -/
def Layout.basis (l : Layout) : Basis := { enc := l.enc, rate := l.rate }

/-- The start slot of position k, which for k = S is the slot after the last sector. -/
def Layout.start (l : Layout) (k : Nat) : Nat := sectorStart l.enc l.dataLen l.gap3 k

/-- The field of a slot (R17): a slot of the preamble, an offset within a sector, or a byte of gap 4b. -/
inductive SlotPlace where
  | preamble (slot : Nat)
  | sector (k offset : Nat)
  | gap4b (byte : Nat)
  deriving DecidableEq, Repr

/-- R17: the place of a slot in a fitting layout. -/
def Layout.place (l : Layout) (slot : Nat) : SlotPlace :=
  let p := preamble l.enc
  let w := overhead l.enc + l.dataLen + l.gap3
  if slot < p then .preamble slot
  else if slot < p + l.sectors * w then .sector ((slot - p) / w) ((slot - p) % w)
  else .gap4b (slot - p - l.sectors * w)

/-- The first and last slot of the ID section of position k (R101), which is also its ID span (R121). -/
def Layout.idSpan (l : Layout) (k : Nat) : Nat × Nat :=
  (l.start k, l.start k + idEndOffset l.enc - 1)

/-- The first and last slot of the DATA section of position k (R101), which is also its data span (R121). -/
def Layout.dataSpan (l : Layout) (k : Nat) : Nat × Nat :=
  (l.start k + dataSyncOffset l.enc, l.start k + firstDataOffset l.enc + l.dataLen + 1)

/-- The first and last slot of the INDEX section (R101). -/
def Layout.indexSpan (l : Layout) : Nat × Nat :=
  (gap4aLen l.enc, gap4aLen l.enc + syncLen l.enc + markLen l.enc - 1)

/-! ### The format of a track (R3, R4) -/

/-- The head selector takes in a head. -/
def HeadSelector.covers : HeadSelector → Nat → Bool
  | .head0, h => h == 0
  | .head1, h => h == 1
  | .both, _ => true

/-- An entry is well formed (R3). -/
def OverrideEntry.wellFormed (e : OverrideEntry) : Bool :=
  decide (e.firstCyl ≤ e.lastCyl) && decide (e.lastCyl ≤ Config.lastCylinder)

/-- An entry matches a track (R4 b). -/
def OverrideEntry.matchesTrack (e : OverrideEntry) (c h : Nat) : Bool :=
  decide (e.firstCyl ≤ c) && decide (c ≤ e.lastCyl) && e.heads.covers h

/-- The selector of a single head. -/
def HeadSelector.single (h : Nat) : HeadSelector := if h == 0 then .head0 else .head1

/-- The single-track entries of a track (R66 a). -/
def OverrideEntry.isSingle (e : OverrideEntry) (c h : Nat) : Bool :=
  e.firstCyl == c && e.lastCyl == c && e.heads == HeadSelector.single h

/-- The last matching entry's format, or the base format (R4 b, c). -/
def overrideFormat (base : TrackFormat) (entries : List OverrideEntry) (c h : Nat) : TrackFormat :=
  match (entries.filter (fun e => e.matchesTrack c h)).getLast? with
  | some e => e.format
  | none => base

/-- R4: the format of a track, absent for an unformatted track. -/
def Geometry.formatOf (g : Geometry) (c h : Nat) : Option TrackFormat :=
  if c < g.cylinders ∧ h < g.heads then some (overrideFormat g.base g.overrides c h) else none

end Sys2Proof.Machine
end

