-- ==== Sys2Proof/Machine/Ops.lean ====
section
/-!
DEFINITION. The named operations over the state: addressed bytes, per-unit updates, the passing of time, free
choices, buffers, selection, the current track and the views derived from them.
-/

namespace Sys2Proof.Machine

/-! ### Bytes in lists and in addressed storage -/

/-- Byte `i` of a list; 00 past its end. -/
def byteAt (bs : List Byte) (i : Nat) : Byte := bs.getD i 0

/-- `n` bytes from offset `i`; 00 past the end. -/
def bytesAt (bs : List Byte) (i n : Nat) : List Byte := (List.range n).map (fun k => byteAt bs (i + k))

/-- A number from bytes, high byte first (R180). -/
def fromBytes (bs : List Byte) : Nat := bs.foldl (fun acc b => acc * 256 + b.toNat) 0

/-- A number as `n` bytes, high byte first (R180). -/
def toBytes : Nat → Nat → List Byte
  | 0, _ => []
  | n + 1, v => toBytes n (v / 256) ++ [BitVec.ofNat 8 v]

/-- Bytes put in place of those at offset `i`; the length stays. -/
def putBytes (bs : List Byte) (i : Nat) (new : List Byte) : List Byte :=
  bs.take i ++ new.take (bs.length - i) ++ bs.drop (i + new.length)

/-- The strictly rising address order and the absence of 00 entries. -/
def Mem.wfFrom : Nat → Mem → Bool
  | _, [] => true
  | low, (a, b) :: rest => decide (low ≤ a) && b != 0 && Mem.wfFrom (a + 1) rest

/-- The canonical form of addressed bytes. -/
def Mem.wf (m : Mem) : Bool := Mem.wfFrom 0 m

/-- The byte at an address; an unlisted address reads as 00. -/
def Mem.read : Mem → Nat → Byte
  | [], _ => 0
  | (a, b) :: rest, x => if a = x then b else Mem.read rest x

/-- The entries that bytes laid down from an address make: 00 bytes make none. -/
def Mem.cells (a : Nat) : List Byte → Mem
  | [] => []
  | b :: bs => if b = 0 then Mem.cells (a + 1) bs else (a, b) :: Mem.cells (a + 1) bs

/-- Bytes written from an address on, in canonical form. -/
def Mem.write (m : Mem) (a : Nat) (bs : List Byte) : Mem :=
  m.filter (fun x => x.1 < a) ++ Mem.cells a bs ++ m.filter (fun x => a + bs.length ≤ x.1)

/-- `n` bytes read from an address on. -/
def Mem.readRange (m : Mem) (a n : Nat) : List Byte := (List.range n).map (fun i => m.read (a + i))

/-! ### Updates of one unit's part of the state -/

/-- One unit's record changed. -/
def Device.modUnit (d : Device) (u : UnitId) (f : UnitRecord → UnitRecord) : Device :=
  { d with units := d.units.set u (f (d.units.get u)) }

/-- One unit's Mount Record set. -/
def Device.setImage (d : Device) (u : UnitId) (m : Option MountRecord) : Device :=
  { d with images := d.images.set u m }

/-- One unit's Extent Window changed. -/
def Device.modWindow (d : Device) (u : UnitId) (f : ExtentWindow → ExtentWindow) : Device :=
  { d with windows := d.windows.set u (f (d.windows.get u)) }

/-- One unit's delivery record changed. -/
def Device.modDelivery (d : Device) (u : UnitId) (f : Delivery → Delivery) : Device :=
  { d with delivery := d.delivery.set u (f (d.delivery.get u)) }

/-- One unit's Capture Record set; absent is EMPTY. -/
def Device.setCapture (d : Device) (u : UnitId) (c : Option Capture) : Device :=
  { d with captures := d.captures.set u c }

/-- One unit's pending change set. -/
def Device.setPending (d : Device) (u : UnitId) (c : Option Change) : Device :=
  { d with seq := { d.seq with pending := d.seq.pending.set u c } }

/-! ### Free choices -/

/-- A free choice among `n`: with one or none there is nothing to choose. -/
def Device.choose (d : Device) (n : Nat) : Nat × Device :=
  if n ≤ 1 then (0, d)
  else (Config.freeChoice d.freeCount % n, { d with freeCount := d.freeCount + 1 })

/-- The elements of a list in a free order. The first argument bounds the number of draws. -/
def Device.shuffle (d : Device) : Nat → List Nat → List Nat × Device
  | 0, l => (l, d)
  | fuel + 1, l =>
    match l with
    | [] => ([], d)
    | x :: xs =>
      let (i, d1) := d.choose (x :: xs).length
      let y := (x :: xs).getD i x
      let (rest, d2) := d1.shuffle fuel ((x :: xs).eraseIdx i)
      (y :: rest, d2)

/-! ### Time (R12, R28, R30) -/

/-- R28: how much of a stretch of time passes before the unit is at speed. -/
def UnitRecord.beforeSpeed (r : UnitRecord) (dt : Nat) : Nat :=
  if r.atSpeed then 0
  else
    match r.spinUp with
    | some t => min dt (Config.spinUpTime - t)
    | none => dt

/-- Time passes for a unit: with the motor running the phase advances and wraps; each wrap after the end of the
spin-up time is a revolution start that is due; the spin-up time advances to its end (R28, R30). -/
def UnitRecord.advance (r : UnitRecord) (dt : Nat) : UnitRecord :=
  if r.motor then
    { r with
      phase := (r.phase + dt) % Config.revolution
      revDue := r.revDue
        + ((r.phase + dt) / Config.revolution - (r.phase + r.beforeSpeed dt) / Config.revolution)
      spinUp := r.spinUp.map (fun t => min Config.spinUpTime (t + dt)) }
  else r

/-- Time passes: the clock, both units and the initialization time advance (R30, R135). -/
def Device.advance (d : Device) (dt : Nat) : Device :=
  { d with
    now := d.now + dt
    units := ⟨d.units.u0.advance dt, d.units.u1.advance dt⟩
    card := { d.card with initTime := d.card.initTime.map (fun t => min Config.initLimit (t + dt)) } }

/-! ### Lines, selection and the motor source (R24, R25, R27) -/

/-- The level of a select input. -/
def Lines.sel (l : Lines) : SelectLine → Bool
  | .sel0 => l.sel0
  | .sel1 => l.sel1
  | .sel2 => l.sel2
  | .sel3 => l.sel3

/-- A select input at a level. -/
def Lines.setSel (l : Lines) (s : SelectLine) (v : Bool) : Lines :=
  match s with
  | .sel0 => { l with sel0 := v }
  | .sel1 => { l with sel1 := v }
  | .sel2 => { l with sel2 := v }
  | .sel3 => { l with sel3 := v }

/-- The unit is enabled and its select line is asserted (R24). -/
def Device.selectable (d : Device) (u : UnitId) : Bool :=
  (d.units.get u).enabled && d.lines.sel (d.units.get u).selectLine

/-- Both units are selected (R25). -/
def Device.doubleSelect (d : Device) : Bool := d.selectable .u0 && d.selectable .u1

/-- The unit that is served: Unit 0 in a double selection (R24, R25). -/
def Device.selected (d : Device) : Option UnitId :=
  if d.selectable .u0 then some .u0 else if d.selectable .u1 then some .u1 else none

/-- The unit is the one served. -/
def Device.isSelected (d : Device) (u : UnitId) : Bool := d.selected == some u

/-- The motor source of a unit is asserted (R27). -/
def Device.motorAsserted (d : Device) (u : UnitId) : Bool :=
  (d.units.get u).enabled
    && (match (d.units.get u).motorSource with
        | .mota => d.lines.mota
        | .motb => d.lines.motb
        | .select => d.isSelected u)

/-! ### The current track (R4, R37) -/

/-- Head 1 when the side is asserted. -/
def headOf (side : Bool) : Nat := if side then 1 else 0

/-- An image is mounted on the unit. -/
def Device.mounted (d : Device) (u : UnitId) : Bool := (d.images.get u).isSome

/-- The track under a unit's head as a key, whether or not an image is mounted. -/
def Device.headKey (d : Device) (u : UnitId) : TrackKey :=
  { unit := u, cyl := (d.units.get u).cylinder, head := headOf (d.units.get u).side }

/-- R37: the current track of a unit; none without an image. -/
def Device.currentTrack (d : Device) (u : UnitId) : Option TrackKey :=
  if d.mounted u then some (d.headKey u) else none

/-- R4 on the Mount Record of the key's unit: the format of a track, absent when unformatted or not mounted. -/
def Device.formatOf (d : Device) (k : TrackKey) : Option TrackFormat :=
  (d.images.get k.unit).bind (fun m => m.geometry.formatOf k.cyl k.head)

/-- The head count of a unit's image. -/
def Device.headCount (d : Device) (u : UnitId) : Nat :=
  match d.images.get u with
  | some m => m.geometry.heads
  | none => 1

/-- The layout of a key's track by its format (R13). -/
def Device.layoutFor (d : Device) (k : TrackKey) : Option Layout :=
  (d.formatOf k).bind (fun f => fitLayout f k.cyl k.head (d.headCount k.unit))

/-- The track location of a key, with R absent. -/
def TrackKey.loc (k : TrackKey) : TrackLoc := { cyl := k.cyl, head := k.head, r := none }

/-- The track location of a key with a sector number. -/
def TrackKey.locR (k : TrackKey) (r : Nat) : TrackLoc := { cyl := k.cyl, head := k.head, r := some r }

/-! ### Buffers (R70 to R73) -/

/-- Buffer `i`. -/
def Device.buf (d : Device) (i : Nat) : TrackBuffer := d.pool.buffers.getD i TrackBuffer.free

/-- Buffer `i` set. -/
def Device.setBuf (d : Device) (i : Nat) (b : TrackBuffer) : Device :=
  { d with pool := { d.pool with buffers := d.pool.buffers.set i b } }

/-- The numbers of the buffers. -/
def bufferIds : List Nat := List.range Config.bufferCount

/-- A track is readable from a buffer in CLEAN, DIRTY or FLUSHING (R70). -/
def BufferState.readable : BufferState → Bool
  | .clean | .dirty | .flushing => true
  | .free | .filling => false

/-- A buffer is DIRTY or FLUSHING. -/
def BufferState.unsaved : BufferState → Bool
  | .dirty | .flushing => true
  | .free | .filling | .clean => false

/-- The buffer that is held for a key (R72). -/
def Device.holder (d : Device) (k : TrackKey) : Option Nat :=
  bufferIds.find? (fun i => (d.buf i).state != .free && (d.buf i).key == some k)

/-- The buffer from which a key's track is readable. -/
def Device.readableHolder (d : Device) (k : TrackKey) : Option Nat :=
  (d.holder k).filter (fun i => (d.buf i).state.readable)

/-- The buffer's key belongs to the unit. -/
def Device.ownedBy (d : Device) (i : Nat) (u : UnitId) : Bool :=
  match (d.buf i).key with
  | some k => k.unit == u
  | none => false

/-- The number of a unit's buffers that are DIRTY or FLUSHING (R46). -/
def Device.unsavedCount (d : Device) (u : UnitId) : Nat :=
  (bufferIds.filter (fun i => d.ownedBy i u && (d.buf i).state.unsaved)).length

/-- The number of buffers of both units that are DIRTY or FLUSHING (R94). -/
def Device.unsavedTotal (d : Device) : Nat :=
  (bufferIds.filter (fun i => (d.buf i).state.unsaved)).length

/-- R72: a key is current: it is the current track of its unit with the motor running, or the key of a PENDING
capture of its unit. -/
def Device.isCurrent (d : Device) (k : TrackKey) : Bool :=
  (d.currentTrack k.unit == some k && (d.units.get k.unit).motor)
    || (match d.captures.get k.unit with
        | some c => c.state == .pending && c.key == k
        | none => false)

/-- R72: a buffer is current. -/
def Device.bufCurrent (d : Device) (i : Nat) : Bool :=
  match (d.buf i).key with
  | some k => (d.buf i).state != .free && d.isCurrent k
  | none => false

/-- The key that a sector command in execution waits on (R75 b, R86). -/
def Device.commandKey (d : Device) : Option TrackKey :=
  match d.port.engine with
  | .executing (.sectors c) => some c.key
  | _ => none

/-- R75 and R77: the purpose of a fill for a key. -/
def Device.purpose (d : Device) (k : TrackKey) : Purpose :=
  if d.isCurrent k then .current else if d.commandKey == some k then .loader else .prefetch

/-- R73: a buffer moves to the head of the LRU order. -/
def Device.touch (d : Device) (i : Nat) : Device :=
  { d with pool := { d.pool with lru := i :: d.pool.lru.filter (fun j => j != i) } }

/-- R73: a buffer becomes FREE and moves to the tail of the order; the queue does not hold it. -/
def Device.freeBuf (d : Device) (i : Nat) : Device :=
  let d1 := d.setBuf i TrackBuffer.free
  { d1 with pool :=
      { d1.pool with
        lru := d1.pool.lru.filter (fun j => j != i) ++ [i]
        queue := d1.pool.queue.filter (fun j => j != i) } }

/-- R88: a DIRTY buffer that is not queued joins the write-back queue at its tail. -/
def Device.joinQueue (d : Device) (i : Nat) : Device :=
  if (d.buf i).state == .dirty && !d.pool.queue.contains i then
    { d with pool := { d.pool with queue := d.pool.queue ++ [i] } }
  else d

/-- Several buffers join the queue at one event, in a free order (notes/assumptions/4.md). -/
def Device.joinAll (d : Device) (is : List Nat) : Device :=
  let ready := is.filter (fun i => (d.buf i).state == .dirty && !d.pool.queue.contains i)
  let (order, d1) := d.shuffle ready.length ready
  order.foldl Device.joinQueue d1

/-- R88 a: the buffers that were current in `before` and are not in `d` join the queue. -/
def Device.joinLost (before d : Device) : Device :=
  d.joinAll (bufferIds.filter (fun i => before.bufCurrent i && !d.bufCurrent i))

/-- The DIRTY buffers of a unit join the queue (R88 b, d, e). -/
def Device.joinUnit (d : Device) (u : UnitId) : Device :=
  d.joinAll (bufferIds.filter (fun i => d.ownedBy i u))

/-- FLUSH names the unit. -/
def FlushSel.names : FlushSel → UnitId → Bool
  | .one v, u => v == u
  | .both, _ => true

/-- A FLUSH in execution names the unit (R88). -/
def Device.flushNames (d : Device) (u : UnitId) : Bool :=
  match d.port.engine with
  | .executing (.flush sel) => sel.names u
  | _ => false

/-- R88: a buffer of the unit joins the queue at the event that makes it DIRTY. -/
def Device.joinsWhenDirty (d : Device) (i : Nat) : Bool :=
  !d.bufCurrent i
    || (match (d.buf i).key with
        | some k => (d.seq.pending.get k.unit).isSome || d.flushNames k.unit
        | none => false)

/-! ### Read stream views (R99, R100) -/

/-- The buffer of the unit's current track, when readable. -/
def Device.streamBuffer (d : Device) (u : UnitId) : Option Nat :=
  (d.currentTrack u).bind d.readableHolder

/-- R99: the basis of a unit's stream. -/
def Device.streamBasis (d : Device) (u : UnitId) : Basis :=
  match d.images.get u with
  | none => { enc := .mfm, rate := 250000 }
  | some m =>
    match (d.streamBuffer u).bind (fun i => (d.buf i).layout) with
    | some l => l.basis
    | none =>
      match m.geometry.formatOf (d.headKey u).cyl (d.headKey u).head with
      | some f => { enc := f.enc, rate := f.rate }
      | none => { enc := m.geometry.base.enc, rate := m.geometry.base.rate }

/-- The mode of a unit's stream (R98). -/
inductive StreamMode where
  | silent
  | filler
  | track
  deriving DecidableEq, Repr

/-- R100: the mode of a unit's stream. -/
def Device.streamMode (d : Device) (u : UnitId) : StreamMode :=
  if !d.isSelected u then .silent
  else if (d.units.get u).motor && (d.units.get u).atSpeed && d.mounted u && !d.banks.offline
      && (d.streamBuffer u).isSome && !d.lines.wgate then .track
  else .filler

/-- R101: the open section is closed, with its decisions and latch. -/
def Delivery.close (x : Delivery) : Delivery :=
  { x with openSection := none, idDecision := none, dataDecision := none, latch := none }

/-- R101: the open section of a unit is closed. -/
def Device.closeSection (d : Device) (u : UnitId) : Device := d.modDelivery u Delivery.close

/-- A slot that was begun is not at its end. -/
def Device.inSlot (d : Device) (u : UnitId) : Bool :=
  match (d.delivery.get u).slotEnd with
  | some t => decide (d.now < t)
  | none => false

/-- The slot under the head, `into` µs after it began, was entered: it did not begin at this very moment, and it was
not skipped, since it began at or after the end of the slot before it (R99). -/
def Delivery.entered (x : Delivery) (now into : Nat) : Bool :=
  into != 0 &&
    match x.slotEnd with
    | some t => decide (t + into ≤ now)
    | none => true

/-- R99 and R109: a change of the current track or of the basis leaves the slot that the phase had entered to be
finished at the rate it had: delivery goes on at or after that slot's end. DESIGN CHOICE (notes/assumptions/10.md): a
change at the moment where one slot ends and the next begins comes ahead of that next slot, and a slot that was skipped
was not entered, so delivery goes on with the first slot that begins at or after the change. A slot that is already
being finished, or that was delivered, keeps its end: no slot of a basis in between was entered. `before` is the part
before the change. -/
def Device.finishSlot (before d : Device) (u : UnitId) : Device :=
  let phase := (before.units.get u).phase
  let len := slotLen (before.streamBasis u).rate
  let into := phase % len
  if before.isSelected u && d.isSelected u && !d.inSlot u
      && (before.currentTrack u != d.currentTrack u || before.streamBasis u != d.streamBasis u) then
    d.modDelivery u (fun x =>
      { x with slotEnd := some (if x.entered d.now into then d.now - into + len else d.now) })
  else d

/-! ### Pending changes (R159) -/

/-- R58: the unit's header is dirty. -/
def Device.headerDirty (d : Device) (u : UnitId) : Bool :=
  match d.images.get u with
  | some m => m.headerState != .clean
  | none => false

/-- R159 a: the unit is clear. -/
def Device.unitClear (d : Device) (u : UnitId) : Bool :=
  !(d.lines.wgate && d.isSelected u) && (d.captures.get u).isNone && d.unsavedCount u == 0
    && !d.headerDirty u

/-- A requester is told how its run ended (R137, R142); the telling is handed on within the same step. -/
def Device.tell (d : Device) (who : Requester) (ok : Bool) (data : List Byte) : Device :=
  { d with news := d.news ++ [{ who := who, ok := ok, data := data }] }

end Sys2Proof.Machine
end

