-- ==== Sys2Proof/Machine/Flags.lean ====
section
/-!
DEFINITION. Every flag and status computation: sector flag bytes, the causes of the banks with their codes and
enables, Drive Port outputs, the interrupt line, the Port Status byte, and the result bytes of
UNIT_STATUS and READ_BANK (R32, R39, R41, R46, R49, R165, R172, R180, R182).
-/

namespace Sys2Proof.Machine

/-! ### Sector flags (R49, R180) -/

/-- No flag set. -/
def SectorFlags.clear : SectorFlags :=
  { deleted := false, dataCrcBad := false, idCrcBad := false, noData := false, unreadable := false }

/-- A bit of a byte. -/
def bitByte (i : Nat) (b : Bool) : Byte := if b then BitVec.ofNat 8 (2 ^ i) else 0

/-- The flag byte of the flag map: the four stored flags, the other bits 0 (R49). -/
def SectorFlags.stored (f : SectorFlags) : Byte :=
  bitByte 0 f.deleted ||| bitByte 1 f.dataCrcBad ||| bitByte 2 f.idCrcBad ||| bitByte 3 f.noData

/-- The flag byte of a result, which carries UNREADABLE too (R174). -/
def SectorFlags.reported (f : SectorFlags) : Byte := f.stored ||| bitByte 4 f.unreadable

/-- The four stored flags from a flag byte; the other bits are ignored (R49). -/
def SectorFlags.withStored (f : SectorFlags) (b : Byte) : SectorFlags :=
  { f with deleted := b.getLsbD 0, dataCrcBad := b.getLsbD 1, idCrcBad := b.getLsbD 2
           noData := b.getLsbD 3 }

/-- A stored flag differs. -/
def SectorFlags.storedDiffer (a b : SectorFlags) : Bool := a.stored != b.stored

/-! ### Causes, classes, operations (R180 to R182) -/

/-- The bank of a cause. -/
def Cause.bank : Cause → BankId
  | .doubleSelect | .stepLimit | .writeNoDisk | .stepDuringWrite | .writeProtected
  | .writeNoTrack => .drive
  | .writeCrc | .overlongWrite | .idMismatch | .trackNotReady | .partialWrite | .flagLost
  | .strayWrite | .formatMixed | .formatSize | .formatFit | .formatTableFull => .track
  | .chainLimit | .chainShort | .fetchFail | .headerWrite => .map
  | .cardCrc | .cardReject | .cardTimeout | .cardRemoved | .initFail => .card

/-- The cause codes of R180. -/
def Cause.code : Cause → Nat
  | .doubleSelect => 1
  | .stepLimit => 2
  | .writeNoDisk => 3
  | .stepDuringWrite => 4
  | .writeProtected => 5
  | .writeNoTrack => 6
  | .writeCrc => 1
  | .overlongWrite => 2
  | .idMismatch => 3
  | .trackNotReady => 4
  | .partialWrite => 5
  | .flagLost => 6
  | .strayWrite => 7
  | .formatMixed => 8
  | .formatSize => 9
  | .formatFit => 10
  | .formatTableFull => 11
  | .chainLimit => 1
  | .chainShort => 2
  | .fetchFail => 3
  | .headerWrite => 4
  | .cardCrc => 1
  | .cardReject => 2
  | .cardTimeout => 3
  | .cardRemoved => 4
  | .initFail => 5

/-- The class codes of R180, which rise with the class (R181). -/
def ReportClass.code : ReportClass → Nat
  | .note => 0
  | .corrected => 1
  | .uncorrected => 2

/-- The operation codes of R180. -/
def Operation.code : Operation → Nat
  | .fill => 1
  | .flush => 2
  | .fetch => 3
  | .capture => 4
  | .mount => 5
  | .loader => 6
  | .init => 7
  | .drive => 8

/-- A bank by its name. -/
def FaultBanks.get (b : FaultBanks) : BankId → Bank
  | .drive => b.drive
  | .track => b.track
  | .map => b.map
  | .card => b.card

/-- A bank replaced. -/
def FaultBanks.set (b : FaultBanks) (i : BankId) (x : Bank) : FaultBanks :=
  match i with
  | .drive => { b with drive := x }
  | .track => { b with track := x }
  | .map => { b with map := x }
  | .card => { b with card := x }

/-- The enable of a cause in its bank's enable set. -/
def Bank.enabled (b : Bank) (c : Cause) : Bool := b.enables.getD (c.code - 1) false

/-- R183: the ENABLED field of the record, which follows the enable of its cause. -/
def Bank.recordEnabled (b : Bank) : Bool :=
  match b.record with
  | some r => b.enabled r.cause
  | none => false

/-! ### Drive Port outputs (R26, R32, R39, R41) -/

/-- R32: the index output. -/
def Device.indexLine (d : Device) : Bool :=
  match d.selected with
  | some u =>
    (d.units.get u).motor && (d.units.get u).atSpeed && d.mounted u && !d.banks.offline
      && decide ((d.units.get u).phase < Config.indexPulse)
  | none => false

/-- R39: the track 0 output. -/
def Device.track0Line (d : Device) : Bool :=
  match d.selected with
  | some u => (d.units.get u).cylinder == 0
  | none => false

/-- R39: the write-protect output. -/
def Device.writeProtectLine (d : Device) : Bool :=
  match d.selected with
  | some u => (d.units.get u).protect || !d.mounted u
  | none => false

/-- R41: the ready/disk-change output. -/
def Device.readyChangeLine (d : Device) : Bool :=
  match d.selected with
  | some u =>
    match (d.units.get u).lineMode with
    | .ready => d.mounted u && (d.units.get u).atSpeed && !d.banks.offline
    | .change => (d.units.get u).latch
  | none => false

/-! ### The interrupt line and the Port Status (R165, R172) -/

/-- The engine holds a result. -/
def Engine.holdsResult : Engine → Bool
  | .result _ => true
  | .idle | .executing _ => false

/-- The engine is EXECUTING. -/
def Engine.busy : Engine → Bool
  | .executing _ => true
  | .idle | .result _ => false

/-- R172 b: a bank record is VALID and ENABLED. -/
def FaultBanks.anyEnabled (b : FaultBanks) : Bool :=
  b.drive.recordEnabled || b.track.recordEnabled || b.map.recordEnabled || b.card.recordEnabled

/-- R172 c: an APPLIED or LOST event is set. -/
def Device.unitEvent (d : Device) : Bool :=
  d.units.u0.applied || d.units.u0.lost || d.units.u1.applied || d.units.u1.lost

/-- R172: the interrupt line. -/
def Device.interruptLine (d : Device) : Bool :=
  (d.port.mask.result && d.port.engine.holdsResult) || (d.port.mask.bank && d.banks.anyEnabled)
    || (d.port.mask.unit && d.unitEvent)

/-- The engine state codes of R180. -/
def Engine.code : Engine → Nat
  | .idle => 0
  | .executing _ => 1
  | .result _ => 2

/-- The card state codes of R180. -/
def CardState.code : CardState → Nat
  | .absent => 0
  | .initializing => 1
  | .ready => 2
  | .failed => 3

/-- R165 and R180: the Port Status byte. -/
def Device.portStatus (d : Device) : Byte :=
  BitVec.ofNat 8 d.port.engine.code ||| bitByte 2 d.interruptLine
    ||| (BitVec.ofNat 8 d.card.state.code <<< 3) ||| bitByte 5 d.banks.fip
    ||| bitByte 6 d.banks.offline ||| bitByte 7 d.port.frameFault

/-! ### Result bytes (R46, R180, R189) -/

/-- Select line codes (R180). -/
def selectLineCode : SelectLine → Nat
  | .sel0 => 0
  | .sel1 => 1
  | .sel2 => 2
  | .sel3 => 3

/-- Motor source codes (R180). -/
def MotorSource.code : MotorSource → Nat
  | .mota => 0
  | .motb => 1
  | .select => 2

/-- Line mode codes (R180). -/
def LineMode.code : LineMode → Nat
  | .ready => 0
  | .change => 1

/-- Unit codes (R180). -/
def unitCode : UnitId → Nat
  | .u0 => 0
  | .u1 => 1

/-- The eight result bytes of UNIT_STATUS (R46, R180). -/
def Device.unitStatusBytes (d : Device) (u : UnitId) : List Byte :=
  let r := d.units.get u
  [ bitByte 0 r.enabled ||| (BitVec.ofNat 8 (selectLineCode r.selectLine) <<< 1)
      ||| (BitVec.ofNat 8 r.motorSource.code <<< 3) ||| (BitVec.ofNat 8 r.lineMode.code <<< 5),
    BitVec.ofNat 8 r.cylinder,
    bitByte 0 r.side ||| bitByte 1 r.motor ||| bitByte 2 r.atSpeed ||| bitByte 3 r.protect
      ||| bitByte 4 r.latch ||| bitByte 5 (d.seq.pending.get u).isSome ||| bitByte 6 r.applied
      ||| bitByte 7 r.lost ]
    ++ toBytes 4 (match d.images.get u with
        | some m => m.headerBlock
        | none => 0xFFFFFFFF)
    ++ [BitVec.ofNat 8 (d.unsavedCount u)]

/-- R within a report's location. -/
def Report.sectorR (r : Report) : Option Nat := r.track.bind TrackLoc.r

/-- The fourteen result bytes of READ_BANK (R180, R189). -/
def Bank.resultBytes (b : Bank) : List Byte :=
  match b.record with
  | none => List.replicate 13 0 ++ [BitVec.ofNat 8 b.count]
  | some r =>
    [ bitByte 0 true ||| bitByte 1 b.overflow ||| bitByte 2 (b.enabled r.cause),
      BitVec.ofNat 8 r.cls.code, BitVec.ofNat 8 r.cause.code, BitVec.ofNat 8 r.op.code,
      bitByte 0 r.unit.isSome ||| bitByte 1 r.track.isSome ||| bitByte 2 r.sectorR.isSome
        ||| bitByte 3 r.block.isSome,
      BitVec.ofNat 8 ((r.unit.map unitCode).getD 0),
      BitVec.ofNat 8 ((r.track.map TrackLoc.cyl).getD 0),
      BitVec.ofNat 8 ((r.track.map TrackLoc.head).getD 0),
      BitVec.ofNat 8 (r.sectorR.getD 0) ]
      ++ toBytes 4 (r.block.getD 0) ++ [BitVec.ofNat 8 b.count]

/-- The detail codes of R180. -/
def Detail.code : Detail → Nat
  | .none => 0x00
  | .staged => 0x01
  | .pending => 0x02
  | .equal => 0x03
  | .differ => 0x04
  | .invalidCommand => 0x05
  | .range => 0x06
  | .mounted => 0x07
  | .unitDisabled => 0x08
  | .offline => 0x09
  | .cardState => 0x0A
  | .notMounted => 0x0B
  | .readOnly => 0x0C
  | .overlap => 0x0E
  | .chainLimit => 0x0F
  | .chainShort => 0x10
  | .headerBad => 0x11
  | .geometry => 0x12
  | .protectedArea => 0x13
  | .noSector => 0x14
  | .cardError => 0x15
  | .cardAbsent => 0x16
  | .imageChanged => 0x17
  | .groupState => 0x18

/-- The termination class codes of R180. -/
def TermClass.code : TermClass → Nat
  | .done => 0
  | .failed => 1
  | .refused => 2
  | .displaced => 3

/-- A result as the bytes a RESULT frame delivers (R168, R180). -/
def CmdResult.frame (r : CmdResult) : List Byte :=
  [BitVec.ofNat 8 r.cls.code, BitVec.ofNat 8 r.detail.code, r.code, BitVec.ofNat 8 r.bytes.length]
    ++ r.bytes

end Sys2Proof.Machine
end

