-- ==== Sys2Proof/Machine/Operands.lean ====
section
/-!
DEFINITION. Every operand form of the commands: the parameter bytes of R180 and the values they stand for. A
byte outside its field reads as absent, which R166 d refuses with RANGE.
-/

namespace Sys2Proof.Machine

/-- A unit, 0..1. -/
def unitParam (b : Byte) : Option UnitId :=
  if b = 0 then some .u0 else if b = 1 then some .u1 else none

/-- A yes/no parameter, 0..1. -/
def flagParam (b : Byte) : Option Bool :=
  if b = 0 then some false else if b = 1 then some true else none

/-- A select line, 0..3. -/
def selectParam (b : Byte) : Option SelectLine :=
  if b = 0 then some .sel0 else if b = 1 then some .sel1 else if b = 2 then some .sel2
  else if b = 3 then some .sel3 else none

/-- A motor source, 0..2. -/
def motorParam (b : Byte) : Option MotorSource :=
  if b = 0 then some .mota else if b = 1 then some .motb else if b = 2 then some .select else none

/-- A line mode, 0..1. -/
def modeParam (b : Byte) : Option LineMode :=
  if b = 0 then some .ready else if b = 1 then some .change else none

/-- An interrupt mask: bits 0 to 2. -/
def maskParam (b : Byte) : Option IrqMask :=
  if b.toNat < 8 then
    some { result := b.getLsbD 0, bank := b.getLsbD 1, unit := b.getLsbD 2 }
  else none

/-- A cylinder, 0..83. -/
def cylinderParam (b : Byte) : Option Nat :=
  if b.toNat ≤ Config.lastCylinder then some b.toNat else none

/-- A head, 0..1. -/
def headParam (b : Byte) : Option Nat := if b.toNat ≤ 1 then some b.toNat else none

/-- A sector count, 1..64. -/
def sectorCountParam (b : Byte) : Option Nat :=
  if 1 ≤ b.toNat ∧ b.toNat ≤ 64 then some b.toNat else none

/-- A block count, 1..16. -/
def blockCountParam (b : Byte) : Option Nat :=
  if 1 ≤ b.toNat ∧ b.toNat ≤ 16 then some b.toNat else none

/-- A unit selector of FLUSH: 0, 1 or FF. -/
def flushParam (b : Byte) : Option FlushSel :=
  if b = 0 then some (.one .u0) else if b = 1 then some (.one .u1)
  else if b = 0xFF then some .both else none

/-- A bank, 0..3. -/
def bankParam (b : Byte) : Option BankId :=
  if b = 0 then some .drive else if b = 1 then some .track else if b = 2 then some .map
  else if b = 3 then some .card else none

/-- A bank selector of CLEAR_BANK: 0..3, or FF for all four. -/
def bankSelectParam (b : Byte) : Option (List BankId) :=
  if b = 0xFF then some [.drive, .track, .map, .card] else (bankParam b).map (fun i => [i])

/-- Every cause, in the order of R182. -/
def allCauses : List Cause :=
  [.doubleSelect, .stepLimit, .writeNoDisk, .stepDuringWrite, .writeProtected, .writeNoTrack,
   .writeCrc, .overlongWrite, .idMismatch, .trackNotReady, .partialWrite, .flagLost, .strayWrite,
   .formatMixed, .formatSize, .formatFit, .formatTableFull, .chainLimit, .chainShort, .fetchFail,
   .headerWrite, .cardCrc, .cardReject, .cardTimeout, .cardRemoved, .initFail]

/-- A cause code of a bank (R178 c). -/
def causeParam (bank : BankId) (b : Byte) : Option Cause :=
  allCauses.find? (fun c => c.bank == bank && c.code == b.toNat)

/-- The sector parameters of R173: unit, cylinder, head, first R and count, each in its field. -/
def sectorParams (op : SectorOp) (unit cylinder head first count : Byte) : Option SectorCmd := do
  let u ← unitParam unit
  let c ← cylinderParam cylinder
  let h ← headParam head
  let n ← sectorCountParam count
  pure { op := op, key := { unit := u, cyl := c, head := h }, first := first.toNat, count := n }

end Sys2Proof.Machine
end

