-- ==== Sys2Proof/Machine/Banks.lean ====
section
/-!
DEFINITION. The Fault Report Banks (chapter 10): how a report reaches its bank, FIP and the entry to OFFLINE,
and what the bank commands do to the banks.
-/

namespace Sys2Proof.Machine

/-- R185: an enabled report is stored over the record. -/
def Bank.replaces (b : Bank) (r : Report) : Bool :=
  match b.record with
  | none => true
  | some old => !b.enabled old.cause || decide (old.cls.code < r.cls.code)

/-- R184 and R185: a report reaches its bank. -/
def Bank.receive (b : Bank) (r : Report) : Bank :=
  let b1 := { b with count := min Config.countLimit (b.count + 1) }
  if !b.enabled r.cause then b1
  else if b.replaces r then
    { b1 with record := some r, overflow := b.overflow || b.record.isSome }
  else { b1 with overflow := true }

/-- R186: an enabled UNCORRECTED report is judged against FIP as it stands. -/
def FaultBanks.judge (f : FaultBanks) (r : Report) : FaultBanks :=
  if (f.get r.cause.bank).enabled r.cause && r.cls == .uncorrected then
    if !f.fip then { f with fip := true }
    else if !f.offline then { f with offline := true, entryOwed := true }
    else f
  else f

/-- A report made by a block of the part (R184 to R186). The effects of an entry to OFFLINE (R187) are handed
within the same step, right after the effect that made the report. -/
def Device.report (d : Device) (r : Report) : Device :=
  { d with banks :=
      (d.banks.judge r).set r.cause.bank ((d.banks.get r.cause.bank).receive r) }

/-- A report of the DRIVE or TRACK bank with no card block. -/
def mkReport (cls : ReportClass) (cause : Cause) (op : Operation) (unit : Option UnitId)
    (track : Option TrackLoc) : Report :=
  { cls := cls, cause := cause, op := op, unit := unit, track := track, block := none }

/-- R189: a bank is cleared; its enable set is kept. -/
def Bank.clear (b : Bank) : Bank := { b with record := none, overflow := false, count := 0 }

/-- R183: the enable of one cause of a bank is set. -/
def Bank.setEnable (b : Bank) (c : Cause) (v : Bool) : Bank :=
  { b with enables := b.enables.set (c.code - 1) v }

end Sys2Proof.Machine
end

