-- ==== Sys2Proof/Machine/Image.lean ====
section
/-!
DEFINITION. The Image Map (chapter 3): the header and its byte layout, offsets, extent descriptors, the Extent
Window, override changes and the bytes of a header write.
-/

namespace Sys2Proof.Machine

/-! ### The header (R48, R180) -/

/-- The size of a header (R47). -/
def headerSize : Nat := 2048

/-- Offset and size of the override entry slots, and the size of a format (R180). -/
def slotBase : Nat := 88

/-- The size of an override entry (R180). -/
def slotSize : Nat := 76

/-- An encoding and rate code (R180). DEDUCED: R180 lists no code above 3; such a code reads as a rate of 0, which makes
the format INVALID (R2, notes/assumptions/32.md). -/
def formatCode : Nat → Encoding × Nat
  | 0 => (.fm, 125000)
  | 1 => (.fm, 250000)
  | 2 => (.mfm, 250000)
  | 3 => (.mfm, 500000)
  | _ => (.mfm, 0)

/-- The code of an encoding and rate (R180). -/
def codeOfFormat (e : Encoding) (rate : Nat) : Nat :=
  match e with
  | .fm => if rate = 125000 then 0 else 1
  | .mfm => if rate = 500000 then 3 else 2

/-- A format read from a card structure (R180). DEDUCED: an R list longer than 64 is read as long as it says, so that R2
judges it INVALID (notes/assumptions/32.md). -/
def parseFormat (bs : List Byte) (o : Nat) : TrackFormat :=
  let len := (byteAt bs (o + 7)).toNat
  { enc := (formatCode (byteAt bs o).toNat).1
    rate := (formatCode (byteAt bs o).toNat).2
    sectors := (byteAt bs (o + 1)).toNat
    sizeCode := (byteAt bs (o + 2)).toNat
    firstR := (byteAt bs (o + 3)).toNat
    gap3 := (byteAt bs (o + 4)).toNat
    interleave := (byteAt bs (o + 5)).toNat
    skew := (byteAt bs (o + 6)).toNat
    rList :=
      if len = 0 then none
      else some ((List.range len).map (fun i => if i < 64 then (byteAt bs (o + 8 + i)).toNat else 0)) }

/-- A format as the 72 bytes of R180. DESIGN CHOICE: the manual gives no value to the bytes of the R list that are not
in use (entries S to 63) in an entry that a format write appends; they are 00 (notes/assumptions/38.md). -/
def encodeFormat (f : TrackFormat) : List Byte :=
  let l := f.rList.getD []
  [ BitVec.ofNat 8 (codeOfFormat f.enc f.rate), BitVec.ofNat 8 f.sectors, BitVec.ofNat 8 f.sizeCode,
    BitVec.ofNat 8 f.firstR, BitVec.ofNat 8 f.gap3, BitVec.ofNat 8 f.interleave,
    BitVec.ofNat 8 f.skew, BitVec.ofNat 8 l.length ]
    ++ (List.range 64).map (fun i => BitVec.ofNat 8 (l.getD i 0))

/-- A head selector code (R180). -/
def selectorCode (b : Byte) : Option HeadSelector :=
  if b = 0 then some .head0 else if b = 1 then some .head1 else if b = 2 then some .both else none

/-- The code of a head selector (R180). -/
def codeOfSelector : HeadSelector → Byte
  | .head0 => 0
  | .head1 => 1
  | .both => 2

/-- The override entry of a slot; absent when its head selector is none of 0, 1 and BOTH (R54 b, R180). -/
def parseEntry (bs : List Byte) (i : Nat) : Option OverrideEntry :=
  let o := slotBase + i * slotSize
  (selectorCode (byteAt bs (o + 2))).map (fun sel =>
    { firstCyl := (byteAt bs o).toNat, lastCyl := (byteAt bs (o + 1)).toNat, heads := sel
      format := parseFormat bs (o + 4) })

/-- An override entry as the 76 bytes of R180. DESIGN CHOICE: the byte at offset 3 carries no field, and the manual
does not say what an entry that a format write appends has there; it is 00 (notes/assumptions/38.md). -/
def encodeEntry (e : OverrideEntry) : List Byte :=
  [BitVec.ofNat 8 e.firstCyl, BitVec.ofNat 8 e.lastCyl, codeOfSelector e.heads, 0]
    ++ encodeFormat e.format

/-- All the entries, when each slot reads as one. -/
def parseEntries (bs : List Byte) : Nat → Option (List OverrideEntry)
  | 0 => some []
  | n + 1 => do
    let es ← parseEntries bs n
    let e ← parseEntry bs n
    pure (es ++ [e])

/-- The header CRC (R48): over the 2,046 bytes before the CRC field, with no mark. -/
def headerCrc (bs : List Byte) : BitVec 16 := crc (bytesAt bs 0 2046)

/-- R53 c: signature, version and header CRC. -/
def headerGood (bs : List Byte) : Bool :=
  bytesAt bs 0 4 == [0x44, 0x45, 0x49, 0x31] && byteAt bs 4 == 1
    && bytesAt bs 2046 2 == crcBytes (headerCrc bs)

/-- A format fits (R54 c): given once, with c = 0, h = 0 and the head count of the image. -/
def TrackFormat.fits (f : TrackFormat) (heads : Nat) : Bool := (fitLayout f 0 0 heads).isSome

/-- R54: the geometry of a header, absent when validation stops with GEOMETRY. -/
def headerGeometry (bs : List Byte) : Option Geometry :=
  let cyls := (byteAt bs 6).toNat
  let heads := (byteAt bs 7).toNat
  let count := (byteAt bs 13).toNat
  if 1 ≤ cyls ∧ cyls ≤ 84 ∧ 1 ≤ heads ∧ heads ≤ 2 ∧ count ≤ Config.overrideLimit then
    (parseEntries bs count).bind (fun es =>
      let base := parseFormat bs 16
      if es.all OverrideEntry.wellFormed && base.fits heads && es.all (fun e => e.format.fits heads) then
        some { base := base, cylinders := cyls, heads := heads, overrides := es }
      else none)
  else none

/-! ### Offsets (R50, R51) -/

/-- The track position t = c × 2 + h. -/
def trackPos (c h : Nat) : Nat := c * 2 + h

/-- The data sizes of the 168 track positions (R50). -/
def Geometry.dataSizes (g : Geometry) : List Nat :=
  (List.range Config.trackPositions).map (fun t =>
    match g.formatOf (t / 2) (t % 2) with
    | some f => f.dataSize
    | none => 0)

/-- The sector counts of the 168 track positions (R50). -/
def Geometry.sectorCounts (g : Geometry) : List Nat :=
  (List.range Config.trackPositions).map (fun t =>
    match g.formatOf (t / 2) (t % 2) with
    | some f => f.sectors
    | none => 0)

/-- The sums of the elements before each place. -/
def sumsBefore (start : Nat) : List Nat → List Nat
  | [] => []
  | x :: xs => start :: sumsBefore (start + x) xs

/-- The sum of a list. -/
def total (l : List Nat) : Nat := l.foldl (· + ·) 0

/-- The Mount Record that the third step of validation builds (R50, R58). The span holds the header blocks; the
walk widens it (R56). -/
def buildRecord (header : Nat) (bs : List Byte) (g : Geometry) : MountRecord :=
  let data := total g.dataSizes
  let sectors := total g.sectorCounts
  let hasMap := (byteAt bs 5).getLsbD 1
  let mapLen := if hasMap then sectors else 0
  { headerBlock := header, headerCopy := bs, geometry := g
    readOnly := (byteAt bs 5).getLsbD 0, hasFlagMap := hasMap
    chainStart := { block := fromBytes (bytesAt bs 8 4), group := (byteAt bs 12).toNat, desc := 0 }
    trackOffset := sumsBefore 0 g.dataSizes, sectorBase := sumsBefore 0 g.sectorCounts
    totalData := data, sectorCount := sectors, flagMapLen := mapLen
    blocksNeeded := (data + mapLen + 511) / 512
    spanLow := header, spanHigh := header + 3
    headerState := .clean, reDirtied := false }

/-- The track offset of a track (R50). -/
def MountRecord.offsetOf (m : MountRecord) (c h : Nat) : Nat := m.trackOffset.getD (trackPos c h) 0

/-- The sector base of a track (R50). -/
def MountRecord.baseOf (m : MountRecord) (c h : Nat) : Nat := m.sectorBase.getD (trackPos c h) 0

/-- The data size of a track position by the format in force (R50). -/
def MountRecord.sizeOf (m : MountRecord) (c h : Nat) : Nat :=
  match m.geometry.formatOf c h with
  | some f => f.dataSize
  | none => 0

/-- The image offset of a sector's data (R51 a). -/
def MountRecord.dataOffset (m : MountRecord) (c h j d : Nat) : Nat := m.offsetOf c h + j * d

/-- The image offset of a sector's flag byte (R51 c). -/
def MountRecord.flagOffset (m : MountRecord) (c h j : Nat) : Nat := m.totalData + m.baseOf c h + j

/-- The image blocks that hold `len` bytes from an image offset (R51). -/
def blocksOf (offset len : Nat) : List Nat :=
  if len = 0 then [] else
    (List.range ((offset + len - 1) / 512 + 1 - offset / 512)).map (fun i => offset / 512 + i)

/-- Two spans overlap (R56). -/
def MountRecord.overlaps (a b : MountRecord) : Bool :=
  decide (a.spanLow ≤ b.spanHigh) && decide (b.spanLow ≤ a.spanHigh)

/-- The record's span taken in further blocks (R56). -/
def MountRecord.widen (m : MountRecord) (low high : Nat) : MountRecord :=
  { m with spanLow := min m.spanLow low, spanHigh := max m.spanHigh high }

/-! ### The extent chain (R52) -/

/-- A descriptor of the chain. -/
inductive Descriptor where
  | data (e : Extent)
  | jump (block group : Nat)
  | fin
  deriving DecidableEq, Repr

/-- The descriptor at a chain position, from the bytes of its block. A kind other than DATA and JUMP, a DATA
with a count of 0 and a JUMP to a group index above 7 are read as END (R52, R180); so is a
descriptor of a group index above 7 (notes/assumptions/14.md). -/
def readDescriptor (bs : List Byte) (p : ChainPos) : Descriptor :=
  let o := p.group * 64 + p.desc * 8
  let count := fromBytes (bytesAt bs (o + 2) 2)
  let block := fromBytes (bytesAt bs (o + 4) 4)
  if 7 < p.group then .fin
  else if byteAt bs o = 1 then
    if count = 0 then .fin else .data { start := block, count := count }
  else if byteAt bs o = 2 then
    if (byteAt bs (o + 1)).toNat ≤ 7 then .jump block (byteAt bs (o + 1)).toNat else .fin
  else .fin

/-- The chain position after a descriptor that does not jump (R52). -/
def ChainPos.after (p : ChainPos) : ChainPos :=
  if p.desc < 7 then { p with desc := p.desc + 1 }
  else if p.group < 7 then { block := p.block, group := p.group + 1, desc := 0 }
  else { block := p.block + 1, group := 0, desc := 0 }

/-! ### The Extent Window (R59 to R63) -/

/-- The number of image blocks the window covers. -/
def ExtentWindow.length (w : ExtentWindow) : Nat := total (w.entries.map Extent.count)

/-- The window covers an image block. -/
def ExtentWindow.covers (w : ExtentWindow) (b : Nat) : Bool :=
  decide (w.base ≤ b) && decide (b < w.base + w.length)

/-- R62 b: a DATA descriptor is appended; a full window drops its first entry. -/
def ExtentWindow.append (w : ExtentWindow) (e : Extent) : ExtentWindow :=
  let w1 :=
    match w.entries with
    | x :: rest =>
      if rest.length < 3 then w else { w with entries := rest, base := w.base + x.count }
    | [] => w
  { w1 with entries := w1.entries ++ [e], next := w.next.after }

/-- R63: a rewind; the group buffer keeps its block. -/
def ExtentWindow.rewind (w : ExtentWindow) (start : ChainPos) : ExtentWindow :=
  { w with entries := [], base := 0, next := start, endSeen := false }

/-- How a slide comes to rest: the block is covered, a group fetch is needed, END was met (or seen before), or
the chain goes round without a DATA and without a fetch (notes/assumptions/13.md). -/
inductive SlideEnd where
  | covered
  | fetch
  | short
  | endless
  deriving DecidableEq, Repr

/-- R61 and R62: the window slides toward an image block as far as the group buffer allows. -/
def slide : Nat → ExtentWindow → Nat → ExtentWindow × SlideEnd
  | 0, w, _ => (w, .endless)
  | fuel + 1, w, b =>
    if w.covers b then (w, .covered)
    else if w.endSeen then (w, .short)
    else
      match w.groupBuf with
      | none => (w, .fetch)
      | some (blk, bytes) =>
        if blk = w.next.block then
          match readDescriptor bytes w.next with
          | .data e => slide fuel (w.append e) b
          | .jump block group => slide fuel { w with next := { block := block, group := group, desc := 0 } } b
          | .fin => ({ w with endSeen := true }, .short)
        else (w, .fetch)

/-- A bound on the descriptors a slide reads without a fetch: 64 in a block, and each round of a block that
holds a DATA takes the window at least one image block further. -/
def slideFuel (b : Nat) : Nat := (b + 2) * 65

/-- R60: the card block of a covered image block, and how many blocks from it lie in the same extent. -/
def locate : List Extent → Nat → Nat → Option (Nat × Nat)
  | [], _, _ => none
  | e :: rest, base, b =>
    if b < base + e.count then some (e.start + (b - base), base + e.count - b)
    else locate rest (base + e.count) b

/-! ### Override changes and the header write (R66, R67) -/

/-- The outcome of an override change (R66). -/
inductive OverrideOutcome where
  | changed (m : MountRecord)
  | full
  | size
  deriving DecidableEq, Repr

/-- The bytes of an entry slot in a header. -/
def slotBytes (bs : List Byte) (i : Nat) : List Byte := bytesAt bs (slotBase + i * slotSize) slotSize

/-- The new single-track entry of a track (R66 b). -/
def singleEntry (c h : Nat) (f : TrackFormat) : OverrideEntry :=
  { firstCyl := c, lastCyl := c, heads := HeadSelector.single h, format := f }

/-- The table after an override change (R66 a, b). -/
def changedTable (table : List OverrideEntry) (c h : Nat) (new : Option TrackFormat) :
    List OverrideEntry :=
  table.filter (fun e => !e.isSingle c h) ++ (new.map (singleEntry c h)).toList

/-- The header copy after an override change: the kept entries' bytes move up, the new entry's follow. -/
def changedCopy (bs : List Byte) (table : List OverrideEntry) (c h : Nat) (new : Option TrackFormat) :
    List Byte :=
  let kept := (table.zipIdx.filter (fun x => !x.1.isSingle c h)).map (fun x => slotBytes bs x.2)
  let slots := kept ++ (new.map (fun f => encodeEntry (singleEntry c h f))).toList
  putBytes (putBytes bs 13 [BitVec.ofNat 8 slots.length]) slotBase slots.flatten

/-- The header state after an override change (R66). -/
def MountRecord.markHeader (m : MountRecord) : MountRecord :=
  match m.headerState with
  | .writing => { m with reDirtied := true }
  | .clean | .dirty => { m with headerState := .dirty }

/-- R66: the override change of a track, with the new format to append or none. -/
def MountRecord.changeOverride (m : MountRecord) (c h : Nat) (new : Option TrackFormat) :
    OverrideOutcome :=
  let g := m.geometry
  let kept := g.overrides.filter (fun e => !e.isSingle c h)
  let g1 := { g with overrides := changedTable g.overrides c h new }
  if new.isSome && decide (Config.overrideLimit ≤ kept.length) then .full
  else
    match g.formatOf c h, g1.formatOf c h with
    | some a, some b =>
      if b.dataSize = a.dataSize ∧ (m.hasFlagMap → b.sectors = a.sectors) then
        .changed
          ({ m with geometry := g1
                    headerCopy := changedCopy m.headerCopy g.overrides c h new }).markHeader
      else .size
    | _, _ => .size

/-- R67: the bytes of a header write: the header copy with the override count, 00 in the slots after the
count, and the CRC computed anew. -/
def MountRecord.headerBytes (m : MountRecord) : List Byte :=
  let n := m.geometry.overrides.length
  let withCount := putBytes m.headerCopy 13 [BitVec.ofNat 8 n]
  let cleared := putBytes withCount (slotBase + n * slotSize)
    (List.replicate ((Config.overrideLimit - n) * slotSize) 0)
  putBytes cleared 2046 (crcBytes (headerCrc cleared))

end Sys2Proof.Machine
end

