-- ==== Sys2Proof/Machine/Card.lean ====
section
/-!
DEFINITION. The Card Controller's shared operations (chapter 7): classes, requests, withdrawal, the reports of
runs, the choice of a grant, initialization and the failing of requests.
-/

namespace Sys2Proof.Machine

/-! ### Classes (R75, R94, R137) -/

/-- R94: the class of a write-back request; `evict` says that it serves a buffer with the eviction mark. -/
def Device.writeBackClass (d : Device) (evict : Bool) : ArbClass :=
  if 6 ≤ d.unsavedTotal ∨ evict then .c else .f

/-- R75: the class of a fill's runs by its purpose. -/
def Purpose.arbClass : Purpose → ArbClass
  | .current => .b
  | .loader => .d
  | .prefetch => .e

/-- R137: the class of a request. It follows its requester while the request waits. -/
def Device.requestClass (d : Device) (r : Request) : ArbClass :=
  match r.who with
  | .window _ => .a
  | .engine => .d
  | .header _ => d.writeBackClass false
  | .buffer i =>
    match (d.buf i).state, (d.buf i).key with
    | .filling, some k => (d.purpose k).arbClass
    | _, _ => d.writeBackClass (d.buf i).evict

/-- The order of the classes, 0 the highest (R138 c). -/
def ArbClass.rank : ArbClass → Nat
  | .a => 0
  | .b => 1
  | .c => 2
  | .d => 3
  | .e => 4
  | .f => 5

/-- A request of class D waits. -/
def Device.waitsD (d : Device) : Bool := d.card.requests.any (fun r => d.requestClass r == .d)

/-! ### Requests (R137, R139) -/

/-- R137: a request is handed. With the card READY it joins the set, with its time; otherwise it fails at that
event. R139 a: a class D request that joins a set without one sets the count to 0. -/
def Device.request (d : Device) (r : Request) : Device :=
  if d.card.state == .ready then
    let r1 := { r with time := d.now }
    { d with card :=
        { d.card with
          requests := d.card.requests ++ [r1]
          grants := if d.requestClass r1 == .d && !d.waitsD then 0 else d.card.grants } }
  else d.tell r.who false []

/-- A requester has a request waiting, or its failure is still to be told. -/
def Device.asked (d : Device) (who : Requester) : Bool :=
  d.card.requests.any (fun r => r.who == who) || d.news.any (fun n => n.who == who)

/-- The bank cause of a run's failure (R141). -/
def RunCause.cause : RunCause → Cause
  | .crc => .cardCrc
  | .reject => .cardReject
  | .timeout => .cardTimeout

/-- R143: the report of a run. -/
def Run.report (r : Run) (cls : ReportClass) (c : RunCause) : Report :=
  { cls := cls, cause := c.cause, op := r.req.op, unit := r.req.unit, track := r.req.track
    block := some r.req.block }

/-- Every request in the set fails at once, with no report (R144 b, R146 d). DESIGN CHOICE: the requesters hear of it in
the order of their requests (notes/assumptions/42.md). -/
def Device.failRequests (d : Device) : Device :=
  let told := d.card.requests.foldl (fun d1 r => d1.tell r.who false []) d
  { told with card := { told.card with requests := [] } }

/-- R135 and R149: initialization begins. Requests still in the set fail (notes/assumptions/12.md). -/
def Device.beginInit (d : Device) : Device :=
  let d1 := d.failRequests
  { d1 with card :=
      { d1.card with state := .initializing, capacity := none, initTime := some 0
                     resetWaits := false } }

/-- R149: a CARD_RESET that waited for the run in flight begins initialization when that run has ended. A run whose
retry is owed has not ended (R142). -/
def Device.afterRun (d : Device) : Device :=
  if d.card.resetWaits then d.beginInit else d

/-- R137: the retry owed to a requester that withdraws is dropped, with a report of its first failure; its run has
ended with it, and a CARD_RESET that waited for it goes on (R149). -/
def Device.dropRetry (d : Device) (who : Requester) : Device :=
  match d.card.retry with
  | some (run, c) =>
    if run.req.who == who then
      ({ d with card := { d.card with retry := none } }.report (run.report .uncorrected c)).afterRun
    else d
  | none => d

/-- R137 and R145 a: a requester withdraws: its waiting request leaves the set, a run in flight goes on without
it, and a retry owed to it is dropped. -/
def Device.withdraw (d : Device) (who : Requester) : Device :=
  let d1 := { d with card :=
    { d.card with
      requests := d.card.requests.filter (fun r => r.who != who)
      run := d.card.run.map (fun (r : Run) => if r.req.who == who then { r with withdrawn := true } else r) } }
  d1.dropRetry who

/-- R141 b: the blocks of a run all lie below the card's capacity. -/
def Device.runWithin (d : Device) (r : Run) : Bool :=
  decide (r.req.block + r.req.count ≤ d.card.capacity.getD 0)

/-! ### The choice of a grant (R138, R139) -/

/-- The requests of a class. -/
def Device.ofClass (d : Device) (cls : ArbClass) : List Request :=
  d.card.requests.filter (fun r => d.requestClass r == cls)

/-- The earliest time of request in a list. -/
def earliest : List Request → Nat
  | [] => 0
  | [r] => r.time
  | r :: rest => min r.time (earliest rest)

/-- The oldest request of a class; requests of the same time are chosen among freely (R138). -/
def Device.oldest (d : Device) (cls : ArbClass) : Option Request × Device :=
  let rs := d.ofClass cls
  let tied := rs.filter (fun r => r.time == earliest rs)
  let (i, d1) := d.choose tied.length
  (tied[i]?, d1)

/-- The highest class that holds a waiting request. -/
def Device.highestClass (d : Device) : Option ArbClass :=
  [ArbClass.a, .b, .c, .d, .e, .f].find? (fun cls => !(d.ofClass cls).isEmpty)

/-- R139 c: the starvation bound calls for class D. -/
def Device.starving (d : Device) : Bool := decide (Config.grantBound ≤ d.card.grants) && d.waitsD

/-- R138 b, c: the class to be granted. -/
def Device.grantClass (d : Device) : Option ArbClass :=
  if d.starving then some .d else d.highestClass

/-- R138: the conditions of a grant. A retry that is owed is a grant to be made as well. -/
def Device.canGrant (d : Device) : Bool :=
  d.card.state == .ready && d.card.run.isNone
    && (d.card.retry.isSome || !d.card.requests.isEmpty)

/-- R139 b, d: the count after a grant of a class. -/
def Device.grantsAfter (d : Device) (cls : ArbClass) : Nat :=
  match cls with
  | .d => 0
  | .a | .b | .c => if d.waitsD then d.card.grants + 1 else d.card.grants
  | .e | .f => d.card.grants

end Sys2Proof.Machine
end

