-- ==== Sys2Proof/Machine/Port.lean ====
section
/-!
DEFINITION. The Loader Port's shared operations (chapter 9): the opening of a frame, the judging of a COMMAND
frame, results, and the spans that guard the card (R56, R176).
-/

namespace Sys2Proof.Machine

/-- The command codes of R180. -/
def Command.code : Command → Byte
  | .mount _ => 0x20
  | .sectors c =>
    match c.op with
    | .read => 0x30
    | .write _ => 0x31
    | .verify => 0x32
  | .flush _ => 0x33
  | .readBlocks _ _ => 0x40
  | .writeBlocks _ _ => 0x41
  | .cardReset => 0x42

/-- R167: a command ends; the engine builds the result and enters RESULT. -/
def Device.finish (d : Device) (code : Byte) (cls : TermClass) (detail : Detail) (bytes : List Byte) :
    Device :=
  { d with port :=
      { d.port with engine := .result { cls := cls, detail := detail, code := code, bytes := bytes } } }

/-- A command ends with no detail and no result bytes. -/
def Device.done (d : Device) (code : Byte) : Device := d.finish code .done .none []

/-- A command ends REFUSED with a detail. -/
def Device.refuse (d : Device) (code : Byte) (detail : Detail) : Device :=
  d.finish code .refused detail []

/-- The command in execution ends, whichever it is. -/
def Device.finishCommand (d : Device) (cls : TermClass) (detail : Detail) : Device :=
  match d.port.engine with
  | .executing c => d.finish c.code cls detail []
  | .idle | .result _ => d

/-- The engine executes a command that waits. -/
def Device.execute (d : Device) (c : Command) : Device :=
  { d with port := { d.port with engine := .executing c } }

/-- R165: a frame begins: the Port Status as it stands at the assertion of select goes out, and its completion
clears the frame-fault flag. -/
def Device.openFrame (d : Device) : Device :=
  { d with port := { d.port with frameOut := [d.portStatus], frameFault := false } }

/-- R165: a frame fault. -/
def Device.fault (d : Device) : Device := { d with port := { d.port with frameFault := true } }

/-- Bytes that a frame clocks out after those before them. -/
def Device.sendOut (d : Device) (bs : List Byte) : Device :=
  { d with port := { d.port with frameOut := d.port.frameOut ++ bs } }

/-- R166: a COMMAND frame that holds all its parameters: dropped with a frame fault unless the engine is IDLE,
and judged by `f` otherwise. -/
def Device.onCommand (d : Device) (f : Device → Device) : Device :=
  let d1 := d.openFrame
  match d1.port.engine with
  | .idle => f d1
  | .executing _ | .result _ => d1.fault

/-! ### The Mount Records held for the units (R56, R151, R176) -/

/-- The Mount Record of an image part. -/
def ImagePart.record? : ImagePart → Option MountRecord
  | .mount m _ => some m
  | .eject => none

/-- The Mount Record that a change holds. -/
def Change.record? (c : Change) : Option MountRecord := c.image.bind ImagePart.record?

/-- The staged record of a unit, empty while the group is CLOSED. -/
def Device.staged (d : Device) (u : UnitId) : Change :=
  match d.seq.group with
  | some g => g.get u
  | none => Change.empty

/-- A change with both parts absent is empty (R151). -/
def Change.isEmpty (c : Change) : Bool := c.image.isNone && c.protect.isNone

/-- The Mount Records mounted, pending and staged on a unit. -/
def Device.recordsOf (d : Device) (u : UnitId) : List MountRecord :=
  (d.images.get u).toList ++ ((d.seq.pending.get u).bind Change.record?).toList
    ++ (d.staged u).record?.toList

/-- A block lies in the span of a record. -/
def MountRecord.spans (m : MountRecord) (b : Nat) : Bool :=
  decide (m.spanLow ≤ b) && decide (b ≤ m.spanHigh)

/-- R176 c: a block of the run lies in a span mounted, pending or staged on either unit. -/
def Device.protectedArea (d : Device) (block count : Nat) : Bool :=
  (d.recordsOf .u0 ++ d.recordsOf .u1).any
    (fun m => (List.range count).any (fun i => m.spans (block + i)))

end Sys2Proof.Machine
end

