-- ==== Sys2Proof/Machine/Pool.lean ====
section
/-!
DEFINITION. The Track Buffer Pool's shared operations (chapter 4): allocation, the wait list, current-track
notices, the blocks of fills and flushes, writes into a buffer, and the header write that a flush asks
for (R67).
-/

namespace Sys2Proof.Machine

/-! ### Sectors and their places on the card (R51, R71) -/

/-- The sector table of a layout, flags clear (R71). -/
def Layout.sectorTable (l : Layout) : List Sector :=
  l.table.zipIdx.map (fun x =>
    { number := x.1.number, position := x.2, logical := x.1.logical, flags := SectorFlags.clear
      dirty := false, inFlush := false })

/-- D of a buffer's layout. -/
def TrackBuffer.dataLen (b : TrackBuffer) : Nat :=
  match b.layout with
  | some l => l.dataLen
  | none => 0

/-- The sector with a number. -/
def TrackBuffer.sector? (b : TrackBuffer) (r : Nat) : Option Sector :=
  b.sectors.find? (fun s => s.number == r)

/-- The D data bytes of a sector (R70: logical sector j at j × D). -/
def TrackBuffer.sectorData (b : TrackBuffer) (s : Sector) : List Byte :=
  b.data.readRange (s.logical * b.dataLen) b.dataLen

/-- A sector record changed by its physical position. -/
def TrackBuffer.modSector (b : TrackBuffer) (k : Nat) (f : Sector → Sector) : TrackBuffer :=
  { b with sectors := b.sectors.map (fun s => if s.position = k then f s else s) }

/-- An image block holds a data byte of a sector, by R51 a. DESIGN CHOICE: at a track offset that is no multiple of the
sector size, a sector of 256 bytes may lie in two blocks, which R51 also says that it never does
(notes/assumptions/35.md). -/
def MountRecord.dataTouches (m : MountRecord) (k : TrackKey) (d : Nat) (s : Sector) (b : Nat) : Bool :=
  (blocksOf (m.dataOffset k.cyl k.head s.logical d) d).contains b

/-- An image block holds the flag byte of a sector. -/
def MountRecord.flagTouches (m : MountRecord) (k : TrackKey) (s : Sector) (b : Nat) : Bool :=
  m.hasFlagMap && m.flagOffset k.cyl k.head s.logical / Config.blockSize == b

/-- The data blocks of a track (R78 a). -/
def MountRecord.dataBlocks (m : MountRecord) (k : TrackKey) (size : Nat) : List Nat :=
  blocksOf (m.offsetOf k.cyl k.head) size

/-- The blocks that hold a track's flag bytes (R78 b). -/
def MountRecord.flagBlocks (m : MountRecord) (k : TrackKey) (sectors : Nat) : List Nat :=
  if m.hasFlagMap then blocksOf (m.flagOffset k.cyl k.head 0) sectors else []

/-! ### Allocation and the wait list (R76, R77) -/

/-- R76, steps 1 and 2: the buffer a fill can be given. -/
def Device.allocatable (d : Device) : Option Nat :=
  match d.pool.lru.reverse.find? (fun i => (d.buf i).state == .free) with
  | some i => some i
  | none => d.pool.lru.reverse.find? (fun i => (d.buf i).state == .clean && !d.bufCurrent i)

/-- The blocks of a fill, in the order of R78. -/
def fillBlocks (m : MountRecord) (k : TrackKey) (l : Layout) : List WorkBlock :=
  (m.dataBlocks k (l.sectors * l.dataLen)).map (fun b => { image := b, kind := .data })
    ++ (m.flagBlocks k l.sectors).map (fun b => { image := b, kind := .flagMap })

/-- R76: a buffer is given to a fill and becomes FILLING. -/
def Device.startFill (d : Device) (i : Nat) (k : TrackKey) : Device :=
  match d.images.get k.unit, d.layoutFor k with
  | some m, some l =>
    d.setBuf i
      { TrackBuffer.free with
        state := .filling, key := some k, layout := some l, sectors := l.sectorTable
        work := some { todo := fillBlocks m k l, stage := .next, taken := [], failed := [] } }
  | _, _ => d

/-- A fill is requested for a key (R72, R74 d, R77): nothing when the track is unformatted or held, or its fill
waits already. A CURRENT or LOADER fill enters the wait list, which the cascade of the event serves at
once; a PREFETCH is given a buffer by steps 1 and 2 of R76 or dropped. -/
def Device.requestFill (d : Device) (k : TrackKey) : Device :=
  if (d.layoutFor k).isNone || (d.holder k).isSome || d.pool.waits.contains k then d
  else
    match d.purpose k with
    | .prefetch =>
      match d.allocatable with
      | some i => d.startFill i k
      | none => d
    | .current | .loader => { d with pool := { d.pool with waits := d.pool.waits ++ [k] } }

/-- R77: the first entry of the wait list: the oldest CURRENT entry, else the LOADER entry. -/
def Device.firstWait (d : Device) : Option TrackKey :=
  match d.pool.waits.find? (fun k => d.purpose k == .current) with
  | some k => some k
  | none => d.pool.waits.head?

/-- R76 step 3: a DIRTY buffer that is not current is marked for eviction and queued, unless a mark is out. -/
def Device.markEviction (d : Device) : Option Device :=
  if bufferIds.any (fun i => (d.buf i).evict) then none
  else
    (d.pool.lru.reverse.find? (fun i => (d.buf i).state == .dirty && !d.bufCurrent i)).map
      (fun i => (d.setBuf i { d.buf i with evict := true }).joinQueue i)

/-- R77: the steps of R76 for the first entry of the wait list; absent when they change nothing. -/
def Device.serveWait (d : Device) : Option Device :=
  match d.firstWait with
  | none => none
  | some k =>
    match d.allocatable with
    | some i =>
      some ({ d with pool := { d.pool with waits := d.pool.waits.filter (fun x => x != k) } }.startFill i k)
    | none => d.markEviction

/-- R74 e and R77: entries that are neither current nor waited on by a command are dropped. -/
def Device.dropStaleWaits (d : Device) : Option Device :=
  if d.pool.waits.any (fun k => d.purpose k == .prefetch) then
    some { d with pool := { d.pool with waits := d.pool.waits.filter (fun k => d.purpose k != .prefetch) } }
  else none

/-! ### Current-track notices (R37, R74) -/

/-- R37 and R74: an event changes a unit's current track. The buffer that stops being current is queued when
DIRTY (trigger a), the open section closes (R109), the slot that the phase had entered is finished (R99), and a
fill is requested when the motor runs or the event is an application. DESIGN CHOICE: at an application R160 steps 1 and
7 and R77 b give no order between this fill and the wait list's first entry for the buffers that step 1 freed; with the
motor off, the fill is a PREFETCH, and is given its buffer first (notes/assumptions/40.md). -/
def Device.withNotice (before : Device) (u : UnitId) (application : Bool) (after : Device) : Device :=
  let d := Device.finishSlot before ((Device.joinLost before after).closeSection u) u
  match d.currentTrack u with
  | none => d
  | some k => if (d.units.get u).motor || application then d.requestFill k else d

/-! ### The header write (R67) -/

/-- R67: while the header is DIRTY, its write is requested, once. -/
def Device.requestHeader (d : Device) (u : UnitId) : Device :=
  match d.images.get u with
  | some m =>
    if m.headerState == .dirty && !d.asked (.header u) then
      d.request
        { who := .header u, kind := .write, block := m.headerBlock, count := 4, time := 0
          op := .flush, unit := some u, track := none }
    else d
  | none => d

/-! ### Fills: bytes taken and sectors degraded (R78, R79) -/

/-- The part of an image block that is data of a track: its place in the data area and the bytes. -/
def dataPart (offset size b : Nat) (bytes : List Byte) : Nat × List Byte :=
  let low := max offset (b * 512)
  let high := min (offset + size) (b * 512 + 512)
  (low - offset, bytesAt bytes (low - b * 512) (high - low))

/-- R78: of one image block read, the data bytes and the flag bytes that belong to the track are taken, whichever of the
two the block was read for. A block that holds both is read twice; what the two reads leave when one of them fails is
notes/assumptions/48.md. -/
def TrackBuffer.takeBlock (x : TrackBuffer) (m : MountRecord) (k : TrackKey) (b : Nat) (bytes : List Byte) :
    TrackBuffer :=
  let p := dataPart (m.offsetOf k.cyl k.head) (x.sectors.length * x.dataLen) b bytes
  { x with
    data := x.data.write p.1 p.2
    sectors := x.sectors.map (fun s =>
      if m.flagTouches k s b then
        { s with flags := s.flags.withStored (byteAt bytes (m.flagOffset k.cyl k.head s.logical % 512)) }
      else s) }

/-- The bytes of the blocks of a READ run are taken in order. -/
def TrackBuffer.takeBlocks (x : TrackBuffer) (m : MountRecord) (k : TrackKey) :
    List WorkBlock → List Byte → TrackBuffer
  | [], _ => x
  | w :: ws, data => (x.takeBlock m k w.image (bytesAt data 0 512)).takeBlocks m k ws (data.drop 512)

/-- R79 a: the sectors with a data byte or their flag byte in the blocks become UNREADABLE, and the data bytes
in those blocks are 00. DESIGN CHOICE: of a block that an earlier run of the fill read, R71 says that bytes that were
read hold what the card returned, and R79 a makes them 00; the model follows R79 (notes/assumptions/48.md). -/
def TrackBuffer.degrade (x : TrackBuffer) (m : MountRecord) (k : TrackKey) (bs : List Nat) :
    TrackBuffer :=
  let marked := x.sectors.map (fun s =>
    if bs.any (fun b => m.dataTouches k x.dataLen s b || m.flagTouches k s b) then
      { s with flags := { s.flags with unreadable := true } }
    else s)
  let size := x.sectors.length * x.dataLen
  let zeroed := bs.foldl (fun mem b =>
    let p := dataPart (m.offsetOf k.cyl k.head) size b []
    Mem.write mem p.1 (List.replicate p.2.length 0)) x.data
  { x with sectors := marked, data := zeroed }

/-! ### Writes into a buffer (R85) -/

/-- R85: a write has been applied to buffer `i`, which now reads `x`. With dirty set on a sector the state
follows: CLEAN becomes DIRTY and may join the queue (R88), FLUSHING is re-dirtied. -/
def Device.storeWrite (d : Device) (i : Nat) (x : TrackBuffer) (setsDirty : Bool) : Device :=
  let d1 := (d.setBuf i x).touch i
  if !setsDirty then d1
  else
    match x.state with
    | .clean =>
      let d2 := d1.setBuf i { x with state := .dirty, dirtySince := some d.now }
      if d2.joinsWhenDirty i then d2.joinQueue i else d2
    | .flushing =>
      d1.setBuf i { x with reDirtied := true, dirtySince := some (x.dirtySince.getD d.now) }
    | .dirty | .free | .filling => d1

/-- R85: whether a change of flags sets the sector's dirty. -/
def flagDirty (hasMap : Bool) (old new : SectorFlags) : Bool := hasMap && old.storedDiffer new

/-- The image of a unit has a flag map. -/
def Device.hasFlagMap (d : Device) (u : UnitId) : Bool :=
  match d.images.get u with
  | some m => m.hasFlagMap
  | none => false

/-! ### Flushes (R90 to R93) -/

/-- A sector that a flush stores: in-flush and not UNREADABLE (R91). -/
def Sector.stores (s : Sector) : Bool := s.inFlush && !s.flags.unreadable

/-- A byte of the image is data of a sector. -/
def MountRecord.holds (m : MountRecord) (k : TrackKey) (d : Nat) (s : Sector) (o : Nat) : Bool :=
  decide (m.dataOffset k.cyl k.head s.logical d ≤ o) && decide (o < m.dataOffset k.cyl k.head s.logical d + d)

/-- R91: a flush block is whole when each of its 512 bytes is data of an in-flush sector of 512 bytes or more. Where
the track offset is no multiple of 512, which R50 allows and R51 does not speak of, a block may hold data of two
sectors or of two tracks; the test is made byte by byte, and an UNREADABLE sector, whose data no flush writes (R71),
makes its block partial (notes/assumptions/35.md). -/
def wholeBlock (m : MountRecord) (k : TrackKey) (x : TrackBuffer) (b : Nat) : Bool :=
  decide (Config.blockSize ≤ x.dataLen)
    && (List.range Config.blockSize).all (fun i =>
      x.sectors.any (fun s => s.stores && m.holds k x.dataLen s (b * Config.blockSize + i)))

/-- R91: the flush blocks. -/
def flushBlocks (m : MountRecord) (k : TrackKey) (x : TrackBuffer) : List WorkBlock :=
  let live := x.sectors.filter Sector.stores
  let dataBs := (m.dataBlocks k (x.sectors.length * x.dataLen)).filter
    (fun b => live.any (fun s => m.dataTouches k x.dataLen s b))
  let flagBs := (m.flagBlocks k x.sectors.length).filter
    (fun b => live.any (fun s => m.flagTouches k s b))
  dataBs.map (fun b => { image := b, kind := if wholeBlock m k x b then .whole else .partialBlock })
    ++ flagBs.map (fun b => { image := b, kind := .partialBlock })

/-- R90: a flush of a buffer of the unit is in progress. -/
def Device.flushing (d : Device) (u : UnitId) : Bool :=
  bufferIds.any (fun i => d.ownedBy i u && (d.buf i).state == .flushing)

/-- R90: the queue entry that a flush of the unit takes. -/
def Device.flushEntry (d : Device) (u : UnitId) : Option Nat :=
  let mine := d.pool.queue.filter (fun i => d.ownedBy i u)
  match mine.find? (fun i => (d.buf i).evict) with
  | some i => some i
  | none => mine.head?

/-- R90: the entry with which a flush of the unit starts now. -/
def Device.flushReady (d : Device) (u : UnitId) : Option Nat :=
  if d.card.state == .ready && !d.flushing u then d.flushEntry u else none

/-- R91 a to c: the buffer becomes FLUSHING with its snapshot and its list of flush blocks. -/
def TrackBuffer.snapshot (x : TrackBuffer) (m : MountRecord) (k : TrackKey) : TrackBuffer :=
  let taken := { x with
    state := .flushing, reDirtied := false, dirtySince := none
    sectors := x.sectors.map (fun (s : Sector) => if s.dirty then { s with dirty := false, inFlush := true } else s) }
  { taken with
    work := some { todo := flushBlocks m k taken, stage := .next, taken := [], failed := [] } }

/-- R91: the flush of buffer `i` starts. -/
def Device.startFlush (d : Device) (i : Nat) : Device :=
  match (d.buf i).key with
  | some k =>
    match d.images.get k.unit with
    | some m =>
      let d1 := d.setBuf i ((d.buf i).snapshot m k)
      let d2 := { d1 with pool := { d1.pool with queue := d1.pool.queue.filter (fun j => j != i) } }
      d2.requestHeader k.unit
    | none => d
  | none => d

/-- R92: one byte of a partial block, at an image offset: from the buffer when it belongs to a stored sector, and
as the card returned it otherwise. -/
def flushByte (m : MountRecord) (k : TrackKey) (x : TrackBuffer) (o : Nat) (read : Byte) : Byte :=
  let live := x.sectors.filter Sector.stores
  match live.find? (fun s => m.holds k x.dataLen s o) with
  | some _ => x.data.read (o - m.offsetOf k.cyl k.head)
  | none =>
    match live.find? (fun s => m.hasFlagMap && m.flagOffset k.cyl k.head s.logical == o) with
    | some s => s.flags.stored
    | none => read

/-- R92: the 512 bytes of a flush block as it is written. -/
def flushBlockBytes (m : MountRecord) (k : TrackKey) (x : TrackBuffer) (w : WorkBlock)
    (read : List Byte) : List Byte :=
  match w.kind with
  | .whole => x.data.readRange (w.image * 512 - m.offsetOf k.cyl k.head) 512
  | .data | .flagMap | .partialBlock =>
    (List.range 512).map (fun i => flushByte m k x (w.image * 512 + i) (byteAt read i))

/-- R92: the bytes of a flush's WRITE run, built when the run is granted. -/
def Device.flushRunBytes (d : Device) (i : Nat) : List Byte :=
  let x := d.buf i
  match x.key, x.work with
  | some k, some w =>
    match d.images.get k.unit, w.stage with
    | some m, .writing _ n =>
      ((w.todo.take n).zipIdx.map (fun b =>
        flushBlockBytes m k x b.1 (bytesAt w.taken (b.2 * 512) 512))).flatten
    | _, _ => []
  | _, _ => []

/-- R93 a: the sectors carried by failed blocks take dirty again; in-flush is cleared on every sector. -/
def TrackBuffer.returnDirty (x : TrackBuffer) (m : MountRecord) (k : TrackKey) (failed : List Nat) :
    TrackBuffer :=
  { x with sectors := x.sectors.map (fun s =>
      { s with
        dirty := s.dirty || (s.inFlush
          && failed.any (fun b => m.dataTouches k x.dataLen s b || m.flagTouches k s b))
        inFlush := false }) }

/-- R93 c to f: the buffer as its flush leaves it. -/
def TrackBuffer.afterFlush (x : TrackBuffer) (now : Nat) (runFailed : Bool) : TrackBuffer :=
  let y := { x with reDirtied := false, evict := false, work := none }
  if runFailed then { y with state := .dirty, dirtySince := some now }
  else if x.reDirtied then { y with state := .dirty }
  else { y with state := .clean, dirtySince := none }

/-- R89: the dirty-since expiry of a buffer has passed. -/
def TrackBuffer.expired (x : TrackBuffer) (now : Nat) : Bool :=
  match x.dirtySince with
  | some t => decide (t + Config.dirtyExpiry ≤ now)
  | none => false

/-- R93: the flush of buffer `i` ends. A FLUSH that names the unit fails when a run failed (R177 e). -/
def Device.endFlush (d : Device) (i : Nat) : Device :=
  let x := d.buf i
  match x.key, x.work with
  | some k, some w =>
    match d.images.get k.unit with
    | some m =>
      let runFailed := !w.failed.isEmpty
      let d1 := d.setBuf i ((x.returnDirty m k w.failed).afterFlush d.now runFailed)
      let d2 :=
        if !runFailed && x.reDirtied && (d1.joinsWhenDirty i || (d1.buf i).expired d.now) then
          d1.joinQueue i
        else d1
      if runFailed && d2.flushNames k.unit then d2.finishCommand .failed .cardError else d2
    | none => d
  | _, _ => d

/-! ### The next request of a fill or a flush (R78, R91) -/

/-- The number of blocks of the first stretch: consecutive image blocks of one kind. -/
def stretch : List WorkBlock → Nat
  | [] => 0
  | [_] => 1
  | a :: b :: rest =>
    if b.image = a.image + 1 ∧ b.kind = a.kind then 1 + stretch (b :: rest) else 1

/-- The work of a buffer changed. -/
def Device.setWork (d : Device) (i : Nat) (w : Work) : Device :=
  d.setBuf i { d.buf i with work := some w }

/-- The operation of a buffer's work in reports (R143). -/
def Device.workOp (d : Device) (i : Nat) : Operation :=
  if (d.buf i).state == .filling then .fill else .flush

/-- A run requested for a buffer's work. -/
def Device.requestRun (d : Device) (i : Nat) (k : TrackKey) (kind : RunKind) (card n : Nat) : Device :=
  d.request
    { who := .buffer i, kind := kind, block := card, count := n, time := 0
      op := d.workOp i, unit := some k.unit, track := some k.loc }

/-- A lookup is requested for the next block not yet read or written (R60, R78, R91). -/
def Device.askLookup (d : Device) (i : Nat) (k : TrackKey) (w : Work) (b : WorkBlock) : Device :=
  let n := min 16 (stretch w.todo)
  let d1 := d.setWork i { w with stage := .lookup n }
  d1.modWindow k.unit (fun x =>
    { x with lookups := x.lookups ++ [{ buffer := i, block := b.image, count := n, fetches := 0 }] })

/-- A lookup for buffer `i` has been answered (R60): the run is requested. A partial run of a flush begins with
its READ (R91). -/
def Device.lookupAnswered (d : Device) (i : Nat) (card n : Nat) : Device :=
  match (d.buf i).key, (d.buf i).work with
  | some k, some w =>
    match w.todo with
    | b :: _ =>
      if b.kind = .whole then
        (d.setWork i { w with stage := .writing card n }).requestRun i k .write card n
      else (d.setWork i { w with stage := .reading card n }).requestRun i k .read card n
    | [] => d
  | _, _ => d

/-- `n` blocks of a buffer's work are lost: a fill degrades their sectors (R79), a flush counts them as failed
(R93). -/
def Device.loseBlocks (d : Device) (i n : Nat) : Device :=
  let x := d.buf i
  match x.key, x.work with
  | some k, some w =>
    match d.images.get k.unit with
    | some m =>
      let lost := (w.todo.take n).map WorkBlock.image
      let w1 := { w with todo := w.todo.drop n, stage := .next, taken := [] }
      if x.state == .filling then
        d.setBuf i { x.degrade m k lost with work := some w1 }
      else d.setBuf i { x with work := some { w1 with failed := w.failed ++ lost } }
    | none => d
  | _, _ => d

/-- The run of a buffer's work has ended well: the bytes of a fill are taken, the READ of a partial run is
followed by its WRITE, and a WRITE is done with (R78, R91). -/
def Device.runSucceeded (d : Device) (i : Nat) (data : List Byte) : Device :=
  let x := d.buf i
  match x.key, x.work with
  | some k, some w =>
    match d.images.get k.unit, w.stage with
    | some m, .reading card n =>
      if x.state == .filling then
        d.setBuf i
          { x.takeBlocks m k (w.todo.take n) data with
            work := some { w with todo := w.todo.drop n, stage := .next } }
      else
        (d.setWork i { w with stage := .writing card n, taken := data }).requestRun i k .write card n
    | some _, .writing _ n =>
      d.setWork i { w with todo := w.todo.drop n, stage := .next, taken := [] }
    | _, _ => d
  | _, _ => d

/-- The run of a buffer's work has failed. -/
def Device.runFailed (d : Device) (i : Nat) : Device :=
  match (d.buf i).work with
  | some w =>
    match w.stage with
    | .reading _ n | .writing _ n => d.loseBlocks i n
    | .next | .lookup _ => d
  | none => d

end Sys2Proof.Machine
end

