-- ==== Sys2Proof/Machine/Decoder.lean ====
section
/-!
DEFINITION. The Write Decoder's shared operations (chapter 6): write starts, the bytes of a capture, capture
ends, and the decoding of sector writes, format writes and stray writes.
-/

namespace Sys2Proof.Machine

/-! ### The bytes of a capture (R114, R115, R117) -/

/-- The start slot at the basis rate (R114). -/
def Capture.startSlot (c : Capture) : Nat := slotAt c.basis.rate c.startPhase

/-- The end slot at the basis rate, counted on from the start; absent until a byte has been taken (R114). -/
def Capture.endSlot? (c : Capture) : Option Nat := c.lastPhase.map (slotAt c.basis.rate)

/-- The kind of a mark byte after special bytes of a value (R8): C2 before FC, A1 before the others. -/
def mfmMarkKind (special mark : Byte) : Option MarkKind :=
  if special = specialC2 then (if mark = indexMark then some .index else none)
  else if special = specialA1 then
    if mark = idMark then some .ident
    else if mark = dataMark then some .data
    else if mark = deletedMark then some .deleted
    else none
  else none

/-- The kind of an FM mark byte (R8). -/
def fmMarkKind (mark : Byte) : Option MarkKind :=
  if mark = indexMark then some .index else mfmMarkKind specialA1 mark

/-- The encoding of a wire mode. -/
def wireEnc (w : WireMode) : Encoding := (wireBasis w).enc

/-- The mark that a byte completes: its kind, the phase of its first byte, and how many special bytes before it
belong to it. Three equal special bytes with broken clock and a mark byte with its normal clock make a
mark in MFM; a mark byte with broken clock makes one in FM (R8). A pattern of another basis than the
fixed one is no mark (R115). -/
def Capture.markAt (c : Capture) (phase : Nat) (b : Byte) (wire : WireMode) (broken : Bool) :
    Option (MarkKind × Nat × Nat) :=
  if c.basisFixed && wireBasis wire != c.basis then none
  else
    match wireEnc wire with
    | .fm => if broken then (fmMarkKind b).map (fun k => (k, phase, 0)) else none
    | .mfm =>
      match c.specials with
      | (_, x, w1) :: (_, y, w2) :: (p, z, w3) :: _ =>
        if !broken && x == y && y == z && w1 == wire && w2 == wire && w3 == wire then
          (mfmMarkKind x b).map (fun k => (k, p, 3))
        else none
      | _ => none

/-- The last field changed. -/
def modLast (f : CapField → CapField) : List CapField → List CapField
  | [] => []
  | [x] => [f x]
  | x :: rest => x :: modLast f rest

/-- A byte appended to a field, at its slot. -/
def CapField.push (f : CapField) (b : Byte) (slot : Nat) : CapField :=
  { f with bytes := f.bytes ++ [b], slots := f.slots ++ [slot] }

/-- The last `n` bytes leave a field. -/
def CapField.pull (f : CapField) (n : Nat) : CapField :=
  { f with bytes := f.bytes.take (f.bytes.length - n), slots := f.slots.take (f.slots.length - n) }

/-- A byte taken that completes no mark: it is appended to the newest field, if there is one. -/
def Capture.takePlain (c : Capture) (phase : Nat) (b : Byte) (wire : WireMode) (broken : Bool) :
    Capture :=
  let isSpecial := broken && wireEnc wire == .mfm && (b == specialA1 || b == specialC2)
  { c with
    lastPhase := some phase
    fields := modLast (fun f => f.push b (slotAt c.basis.rate phase)) c.fields
    specials := if isSpecial then ((phase, b, wire) :: c.specials).take 3 else [] }

/-- A byte taken that completes a mark: the first mark fixes the basis (R115 a), the special bytes leave the
field before, and a new field is opened at the slot of the mark's first byte. -/
def Capture.takeMark (c : Capture) (phase : Nat) (wire : WireMode) (kind : MarkKind)
    (markPhase specials : Nat) : Capture :=
  let basis := if c.basisFixed then c.basis else wireBasis wire
  { c with
    basis := basis, basisFixed := true, lastPhase := some phase, specials := []
    fields := modLast (fun f => f.pull specials) c.fields
      ++ [{ kind := kind, markSlot := slotAt basis.rate markPhase, bytes := [], slots := [] }] }

/-- R117: a byte of write data is taken at its slot, or dropped under the cap of one revolution. DESIGN CHOICE: R115
fixes the basis at the first mark alone; until then, and for the byte that completes that mark, the cap is
judged at the basis of the stream at the write start (R115 b, notes/assumptions/37.md). -/
def Capture.takeByte (c : Capture) (phase : Nat) (b : Byte) (wire : WireMode) (broken : Bool) :
    Capture :=
  if c.startSlot + slotsPerRev c.basis.rate ≤ slotAt c.basis.rate phase then
    { c with capReached := true }
  else
    match c.markAt phase b wire broken with
    | some (kind, markPhase, n) => c.takeMark phase wire kind markPhase n
    | none => c.takePlain phase b wire broken

/-! ### The write start (R116) -/

/-- The track location of a unit's current track, absent without an image. -/
def Device.currentLoc (d : Device) (u : UnitId) : Option TrackLoc :=
  (d.currentTrack u).map TrackKey.loc

/-- R116: a write start, judged in the order a, b, d, c. -/
def Device.writeStart (d : Device) (u : UnitId) : Device :=
  let r := d.units.get u
  if !(d.mounted u && r.motor && r.atSpeed) then
    d.report (mkReport .note .writeNoDisk .drive (some u) (d.currentLoc u))
  else if r.protect then
    d.report (mkReport .corrected .writeProtected .drive (some u) (d.currentLoc u))
  else if (d.captures.get u).isSome then
    d.report (mkReport .uncorrected .writeNoTrack .drive (some u) (d.currentLoc u))
  else if d.banks.offline then d
  else
    d.setCapture u
      (some { state := .capturing, key := d.headKey u, startPhase := r.phase, startTime := d.now
              basis := d.streamBasis u, basisFixed := false, lastPhase := none, fields := []
              capReached := false, specials := [] })

/-! ### Spans in phase (R121) -/

/-- A stretch of the revolution: its first phase and its length. -/
structure PhaseSpan where
  start : Nat
  len   : Nat
  deriving DecidableEq, Repr

/-- The phases from slot `a` to slot `b` at a rate, modulo one revolution. -/
def slotSpan (rate a b : Nat) : PhaseSpan :=
  { start := slotPhase rate a % Config.revolution, len := (b + 1 - a) * slotLen rate }

/-- How far phase `p` lies after phase `q`, going round. -/
def phaseFrom (q p : Nat) : Nat := (p + Config.revolution - q % Config.revolution) % Config.revolution

/-- Two stretches share a phase (R121). -/
def PhaseSpan.overlaps (a b : PhaseSpan) : Bool :=
  decide (phaseFrom a.start b.start < a.len) || decide (phaseFrom b.start a.start < b.len)

/-- How far after the start of `region` its overlap with `s` begins. -/
def PhaseSpan.reach (region s : PhaseSpan) : Nat :=
  if phaseFrom s.start region.start < s.len then 0 else phaseFrom region.start s.start

/-- A span of the layout as phases. -/
def Layout.phases (l : Layout) (s : Nat × Nat) : PhaseSpan := slotSpan l.rate s.1 s.2

/-- The captured region overlaps the ID span of position k. -/
def Layout.hitsId (l : Layout) (region : PhaseSpan) (k : Nat) : Bool :=
  region.overlaps (l.phases (l.idSpan k))

/-- The captured region overlaps the data span of position k. -/
def Layout.hitsData (l : Layout) (region : PhaseSpan) (k : Nat) : Bool :=
  region.overlaps (l.phases (l.dataSpan k))

/-- How far after the start of the region its overlap with position k begins. -/
def Layout.hitAt (l : Layout) (region : PhaseSpan) (k : Nat) : Nat :=
  if l.hitsId region k then
    if l.hitsData region k then
      min (region.reach (l.phases (l.idSpan k))) (region.reach (l.phases (l.dataSpan k)))
    else region.reach (l.phases (l.idSpan k))
  else region.reach (l.phases (l.dataSpan k))

/-- The element with the least measure; the first of equals. -/
def leastBy (f : Sector → Nat) : List Sector → Option Sector
  | [] => none
  | x :: xs =>
    match leastBy f xs with
    | none => some x
    | some y => if f y < f x then some y else some x

/-! ### Damage (R123, R124) -/

/-- A sector as a region leaves it: ID_CRC_BAD and DATA_CRC_BAD where its spans are overlapped, and dirty where a
stored flag changed on an image with a flag map (R85). -/
def Sector.damaged (s : Sector) (l : Layout) (region : PhaseSpan) (hasMap : Bool) : Sector :=
  let flags := { s.flags with
    idCrcBad := s.flags.idCrcBad || l.hitsId region s.position
    dataCrcBad := s.flags.dataCrcBad || l.hitsData region s.position }
  { s with flags := flags, dirty := s.dirty || flagDirty hasMap s.flags flags }

/-- The sectors that a region marks. -/
def markedBy (l : Layout) (region : PhaseSpan) (ss : List Sector) : List Sector :=
  ss.filter (fun s => l.hitsId region s.position || l.hitsData region s.position)

/-- The first marked sector in capture order (R123, R124). -/
def firstMarked (l : Layout) (region : PhaseSpan) (ss : List Sector) : Option Sector :=
  leastBy (fun s => l.hitAt region s.position) (markedBy l region ss)

/-- A report of a decode (R121). -/
def Device.reportTrack (d : Device) (cls : ReportClass) (cause : Cause) (k : TrackKey)
    (r : Option Nat) : Device :=
  d.report (mkReport cls cause .capture (some k.unit) (some { cyl := k.cyl, head := k.head, r := r }))

/-- The STRAY_WRITE report of a region, when it marks a sector. -/
def Device.reportStray (d : Device) (k : TrackKey) (first : Option Sector) : Device :=
  match first with
  | some s => d.reportTrack .uncorrected .strayWrite k (some s.number)
  | none => d

/-- The stored flags of the sector with a number in an old table, clear when it held none. -/
def oldFlags (old : List Sector) (s : Sector) : SectorFlags :=
  match old.find? (fun x => x.number == s.number) with
  | some x => x.flags
  | none => SectorFlags.clear

/-- R131: the FLAG_LOST report of a decode on an image without a flag map. -/
def Device.reportFlagLost (d : Device) (k : TrackKey) (old new : List Sector) : Device :=
  if d.hasFlagMap k.unit then d
  else
    match new.find? (fun s => (oldFlags old s).storedDiffer s.flags) with
    | some s => d.reportTrack .corrected .flagLost k (some s.number)
    | none => d

/-! ### Sector writes (R122, R123) -/

/-- A data or deleted-data field. -/
def MarkKind.isData : MarkKind → Bool
  | .data | .deleted => true
  | .index | .ident => false

/-- The mark byte of a data field. -/
def MarkKind.dataByte : MarkKind → Byte
  | .deleted => deletedMark
  | .data | .index | .ident => dataMark

/-- R122: the position that a capture writes as a sector write. -/
def sectorWriteAt (l : Layout) (c : Capture) : Option Nat :=
  match c.fields with
  | [] => none
  | f :: _ =>
    if c.basis == l.basis && f.kind.isData && decide (f.markSlot ≤ c.startSlot + 40) then
      (List.range l.sectors).find? (fun k =>
        decide (l.start k + idEndOffset l.enc ≤ c.startSlot)
          && decide (c.startSlot ≤ l.start k + idEndOffset l.enc + gap2Len l.enc))
    else none

/-- The field holds its data and its CRC (R123 a, b). -/
def CapField.whole (f : CapField) (d : Nat) : Bool := decide (d + 2 ≤ f.bytes.length)

/-- The data CRC of a field passes its check (R10), over the mark as captured. -/
def CapField.dataCrcGood (f : CapField) (e : Encoding) (d : Nat) : Bool :=
  bytesAt f.bytes d 2 == crcBytes (dataCrc e f.kind.dataByte (bytesAt f.bytes 0 d))

/-- The sector as a sector write leaves its record (R123). -/
def Sector.written (s : Sector) (f : CapField) (e : Encoding) (d : Nat) : Sector :=
  let whole := f.whole d
  { s with
    flags := { s.flags with
      deleted := f.kind == .deleted
      dataCrcBad := !(whole && f.dataCrcGood e d)
      noData := false
      unreadable := s.flags.unreadable && !whole }
    dirty := true }

/-- The buffer as a sector write on position k leaves it, before a spill (R123 a to c). -/
def TrackBuffer.writeSector (x : TrackBuffer) (l : Layout) (k : Nat) (f : CapField) : TrackBuffer :=
  let d := l.dataLen
  match x.sectors.find? (fun s => s.position == k) with
  | some s =>
    { x with
      data := x.data.write (s.logical * d) (f.bytes.take d)
      sectors := x.sectors.map (fun t => if t.position = k then t.written f l.enc d else t) }
  | none => x

/-- The spill region of a sector write on position k (R123), absent when the capture ends before s_(k+1). -/
def spillRegion (l : Layout) (c : Capture) (k : Nat) : Option PhaseSpan :=
  match c.endSlot? with
  | some e => if l.start (k + 1) ≤ e then some (slotSpan l.rate (l.start (k + 1)) e) else none
  | none => none

/-- The report of a sector write's classification (R123). -/
def Device.reportSectorWrite (d : Device) (k : TrackKey) (r : Option Nat) (f : CapField) (e : Encoding)
    (len : Nat) : Device :=
  if !f.whole len then d.reportTrack .corrected .partialWrite k r
  else if !f.dataCrcGood e len then d.reportTrack .note .writeCrc k r
  else d

/-- R123: a sector write on position `p` is applied to buffer `i` and reported. -/
def Device.applySectorWrite (d : Device) (i : Nat) (key : TrackKey) (l : Layout) (c : Capture)
    (p : Nat) (f : CapField) : Device :=
  let x := d.buf i
  let hasMap := d.hasFlagMap key.unit
  let number := (x.sectors.find? (fun s => s.position == p)).map Sector.number
  let x1 := x.writeSector l p f
  match spillRegion l c p with
  | none =>
    ((d.storeWrite i x1 true).reportSectorWrite key number f l.enc l.dataLen).reportFlagLost key
      x.sectors x1.sectors
  | some region =>
    let x2 := { x1 with sectors := x1.sectors.map (fun s => s.damaged l region hasMap) }
    (((d.storeWrite i x2 true).reportSectorWrite key number f l.enc l.dataLen).reportStray key
      (firstMarked l region x.sectors)).reportFlagLost key x.sectors x2.sectors

/-! ### Stray writes (R124) -/

/-- R124: a stray write is applied to buffer `i` and reported. DESIGN CHOICE: one that marks no sector is an application
too, and moves the buffer to the head of the LRU order (R73 c, R85; notes/assumptions/44.md). -/
def Device.applyStray (d : Device) (i : Nat) (key : TrackKey) (l : Layout) (c : Capture) : Device :=
  match c.endSlot? with
  | none => d
  | some e =>
    let x := d.buf i
    let region := slotSpan c.basis.rate c.startSlot e
    let hasMap := d.hasFlagMap key.unit
    let x1 := { x with sectors := x.sectors.map (fun s => s.damaged l region hasMap) }
    let dirtied := x.sectors.any (fun s => flagDirty hasMap s.flags (s.damaged l region hasMap).flags)
    ((d.storeWrite i x1 dirtied).reportStray key (firstMarked l region x.sectors)).reportFlagLost key
      x.sectors x1.sectors

/-! ### Format writes (R125 to R129) -/

/-- A written sector of a format write (R125), with the mark slot of its ID field and the end of its data CRC, which is the
slot after the CRC's low byte (R126 d). -/
structure WrittenSector where
  c : Nat
  h : Nat
  r : Nat
  n : Nat
  data    : List Byte
  idGood  : Bool
  dataGood : Bool
  deleted : Bool
  idSlot  : Nat
  crcEnd  : Nat
  deriving DecidableEq, Repr

/-- The written sector of an ID field and the data field after it. -/
def writtenSector (e : Encoding) (f g : CapField) : WrittenSector :=
  let n := (byteAt f.bytes 3).toNat
  let d := sizeLen n
  { c := (byteAt f.bytes 0).toNat, h := (byteAt f.bytes 1).toNat, r := (byteAt f.bytes 2).toNat, n := n
    data := bytesAt g.bytes 0 d
    idGood := bytesAt f.bytes 4 2
      == crcBytes (idCrc e (byteAt f.bytes 0) (byteAt f.bytes 1) (byteAt f.bytes 2) (byteAt f.bytes 3))
    dataGood := g.dataCrcGood e d
    deleted := g.kind == .deleted
    idSlot := f.markSlot
    crcEnd := g.slots.getD (d + 1) 0 + 1 }

/-- R125: the parse of a format write, or the cause that refuses it. -/
def parseFormatWrite (e : Encoding) : List CapField → Except Cause (List WrittenSector)
  | [] => .ok []
  | f :: rest =>
    if f.kind != .ident then parseFormatWrite e rest
    else if f.bytes.length < 6 then .error .formatSize
    else if 6 < (byteAt f.bytes 3).toNat then .error .formatFit
    else
      match rest with
      | [] => .error .formatSize
      | g :: more =>
        if g.kind.isData && decide (sizeLen (byteAt f.bytes 3).toNat + 2 ≤ g.bytes.length) then
          match parseFormatWrite e more with
          | .ok ws => .ok (writtenSector e f g :: ws)
          | .error x => .error x
        else .error .formatSize

/-- R125: the capture begins before the first sector and holds an ID field. -/
def isFormatWrite (l : Option Layout) (c : Capture) : Bool :=
  c.fields.any (fun f => f.kind == .ident)
    && decide (c.startPhase < (match l with
        | some l => slotPhase l.rate (preamble l.enc)
        | none => slotPhase c.basis.rate (preamble c.basis.enc)))

/-- R126 d: the requested gap measured from the first two written sectors, clamped to 1..255. -/
def measuredGap (e : Encoding) (single : Nat) : List WrittenSector → Nat
  | a :: b :: _ =>
    let gap : Int := (b.idSlot : Int) - syncLen e - a.crcEnd
    (max 1 (min 255 gap)).toNat
  | _ => single

/-- The least of a list. -/
def least : List Nat → Nat
  | [] => 0
  | [x] => x
  | x :: xs => min x (least xs)

/-- R126 c, d: the format that the written sectors make. -/
def writtenFormat (b : Basis) (single : Nat) (ws : List WrittenSector) (n : Nat) : TrackFormat :=
  { enc := b.enc, rate := b.rate, sectors := ws.length, sizeCode := n
    firstR := least (ws.map WrittenSector.r), gap3 := measuredGap b.enc single ws
    interleave := 1, skew := 0, rList := some (ws.map WrittenSector.r) }

/-- R126 b: a written sector carries another cylinder or head than the key. -/
def idMismatch (k : TrackKey) (ws : List WrittenSector) : Bool :=
  ws.any (fun w => w.c != k.cyl || w.h != k.head)

/-- The flags that a format write sets on a sector (R127). -/
def WrittenSector.flags (w : WrittenSector) : SectorFlags :=
  { deleted := w.deleted, dataCrcBad := !w.dataGood, idCrcBad := !w.idGood, noData := false
    unreadable := false }

/-- R127 and R128: the written sectors stored in a sector table, each at the logical index of its number; every
sector is dirty and none is in-flush (R85). -/
def storeWritten (ws : List WrittenSector) (d : Nat) (x : TrackBuffer) (table : List Sector) :
    TrackBuffer :=
  { x with
    data := table.foldl (fun (mem : Mem) (s : Sector) =>
      match ws.find? (fun w => w.r == s.number) with
      | some w => Mem.write mem (s.logical * d) w.data
      | none => mem) x.data
    sectors := table.map (fun (s : Sector) =>
      match ws.find? (fun w => w.r == s.number) with
      | some w => { s with flags := w.flags, dirty := true, inFlush := false }
      | none => { s with dirty := true, inFlush := false }) }

/-- R127: the written sectors match the track's current layout. -/
def matchesLayout (l : Layout) (x : TrackBuffer) (b : Basis) (n : Nat) (ws : List WrittenSector) :
    Bool :=
  l.basis == b && l.sectors == ws.length && l.sizeCode == n
    && x.sectors.map Sector.number == ws.map WrittenSector.r

/-- R127: a format write that keeps the layout is applied to buffer `i`. -/
def Device.applyFormatData (d : Device) (i : Nat) (k : TrackKey) (l : Layout)
    (ws : List WrittenSector) : Device :=
  let x := d.buf i
  let x1 := storeWritten ws l.dataLen x x.sectors
  (d.storeWrite i x1 true).reportFlagLost k x.sectors x1.sectors

/-- R128: the format to append, or none when the track takes an equal format without its single-track
entries. -/
def overrideToAppend (m : MountRecord) (k : TrackKey) (f : TrackFormat) : Option TrackFormat :=
  let plain := { m.geometry with overrides := changedTable m.geometry.overrides k.cyl k.head none }
  match plain.formatOf k.cyl k.head with
  | some p => if f.equalOn p k.cyl k.head m.geometry.heads then none else some f
  | none => some f

/-- R128 steps 1 to 4: the changed Mount Record is in force, the buffer takes the new layout and the written
sectors, and the open section of the unit closes when the track is under its head (R108); the slot that the phase
had entered is finished at the old basis (R99). -/
def Device.applyFormatChange (d : Device) (i : Nat) (k : TrackKey) (m : MountRecord)
    (ws : List WrittenSector) : Device :=
  let x := d.buf i
  let d1 := d.setImage k.unit (some m)
  match d1.layoutFor k with
  | some l =>
    let x1 := storeWritten ws l.dataLen { x with layout := some l, data := [] } l.sectorTable
    let d2 := d1.storeWrite i x1 true
    let d3 :=
      if d2.currentTrack k.unit == some k then Device.finishSlot d (d2.closeSection k.unit) k.unit else d2
    d3.reportFlagLost k x.sectors x1.sectors
  | none => d1

/-- R129: a refused format write leaves the track as it was and makes one report. -/
def Device.refuseFormat (d : Device) (k : TrackKey) (cause : Cause) : Device :=
  d.reportTrack .uncorrected cause k none

/-- R128: a format write that fits and does not match the layout. -/
def Device.changeFormat (d : Device) (i : Nat) (k : TrackKey) (m : MountRecord) (f : TrackFormat)
    (ws : List WrittenSector) : Device :=
  match m.geometry.formatOf k.cyl k.head with
  | some old =>
    if f.dataSize = old.dataSize ∧ (m.hasFlagMap → f.sectors = old.sectors) then
      match m.changeOverride k.cyl k.head (overrideToAppend m k f) with
      | .changed m1 => d.applyFormatChange i k m1 ws
      | .full => d.refuseFormat k .formatTableFull
      | .size => d.refuseFormat k .formatSize
    else d.refuseFormat k .formatSize
  | none => d.refuseFormat k .formatSize

/-- R126 b: the ID_MISMATCH report. -/
def Device.noteMismatch (d : Device) (k : TrackKey) (ws : List WrittenSector) : Device :=
  if idMismatch k ws then d.reportTrack .note .idMismatch k none else d

/-- R126 to R129: a parsed format write. `i` is the buffer of a formatted key. -/
def Device.judgeFormat (d : Device) (i : Option Nat) (k : TrackKey) (m : MountRecord) (c : Capture)
    (ws : List WrittenSector) : Device :=
  match ws with
  | [] => d.refuseFormat k .formatSize
  | w :: _ =>
    if ws.any (fun x => x.n != w.n) then d.refuseFormat k .formatMixed
    else
      let d1 := d.noteMismatch k ws
      let single :=
        match m.geometry.formatOf k.cyl k.head with
        | some old => old.gap3
        | none => 1
      let f := writtenFormat c.basis single ws w.n
      match fitLayout f k.cyl k.head m.geometry.heads with
      | none => d1.refuseFormat k .formatFit
      | some _ =>
        match i with
        | none => d1.refuseFormat k .formatSize
        | some i =>
          match (d1.buf i).layout with
          | some l =>
            if matchesLayout l (d1.buf i) c.basis w.n ws then d1.applyFormatData i k l ws
            else d1.changeFormat i k m f ws
          | none => d1

/-- R125: a format write. -/
def Device.applyFormat (d : Device) (i : Option Nat) (k : TrackKey) (c : Capture) : Device :=
  match d.images.get k.unit with
  | none => d
  | some m =>
    match parseFormatWrite c.basis.enc c.fields with
    | .error cause => d.refuseFormat k cause
    | .ok ws => d.judgeFormat i k m c ws

/-! ### The decode and the capture end (R118, R119, R121) -/

/-- R121: a capture is decoded against buffer `i`, or with no buffer for an unformatted key. -/
def Device.decode (d : Device) (i : Option Nat) (c : Capture) : Device :=
  match i, i.bind (fun n => (d.buf n).layout) with
  | some n, some l =>
    match sectorWriteAt l c, c.fields with
    | some p, f :: _ => d.applySectorWrite n c.key l c p f
    | _, _ =>
      if isFormatWrite (some l) c then d.applyFormat (some n) c.key c
      else d.applyStray n c.key l c
  | _, _ => if isFormatWrite none c then d.applyFormat none c.key c else d

/-- R117: the OVERLONG_WRITE report of a capture that ends with cap reached. DESIGN CHOICE: R121 does not name it in
the order of a decode's reports; it is made before them (notes/assumptions/36.md). -/
def Device.reportOverlong (d : Device) (c : Capture) : Device :=
  if c.capReached then d.reportTrack .note .overlongWrite c.key none else d

/-- R118: a capture end, whatever its cause. It acts on a CAPTURING record alone. -/
def Device.captureEnd (d : Device) (u : UnitId) : Device :=
  match d.captures.get u with
  | none => d
  | some c =>
    if c.state != .capturing then d
    else if c.lastPhase.isNone then d.setCapture u none
    else
      let d1 := d.reportOverlong c
      if (d1.formatOf c.key).isNone then (d1.decode none c).setCapture u none
      else
        match d1.readableHolder c.key with
        | some i => (d1.decode (some i) c).setCapture u none
        | none => (d1.setCapture u (some { c with state := .pending })).requestFill c.key

/-- R119 b: a PENDING capture whose key is held by buffer `i` is decoded; the buffer then stops being current
unless it holds its unit's current track with the motor running. -/
def Device.decodePending (d : Device) (i : Nat) (u : UnitId) : Device :=
  match d.captures.get u with
  | some c =>
    if c.state == .pending && (d.buf i).key == some c.key then
      Device.joinLost d ((d.decode (some i) c).setCapture u none)
    else d
  | none => d

end Sys2Proof.Machine
end

