-- ==== Sys2Proof/Machine/Engine.lean ====
section
/-!
DEFINITION. What the Command Engine does for the commands that reach other blocks: sector commands on a buffer
(R86, R173 to R175), the validation of a MOUNT (R53 to R57), the placing of pending changes (R158), the
ends of block runs (R176), the condition of FLUSH (R177) and the displacing of commands (R167).
-/

namespace Sys2Proof.Machine

/-! ### Sector commands (R86, R173 to R175) -/

/-- The named sector numbers (R173). -/
def SectorCmd.numbers (c : SectorCmd) : List Nat := (List.range c.count).map (fun i => c.first + i)

/-- The named sector records, in ascending number; absent when one is not in the table. -/
def namedSectors (x : TrackBuffer) : List Nat → Option (List Sector)
  | [] => some []
  | r :: rs => do
    let s ← x.sector? r
    let ss ← namedSectors x rs
    pure (s :: ss)

/-- Bytes placed in the Data Window from offset 0. -/
def Device.storeWindow (d : Device) (bs : List Byte) : Device :=
  { d with port := { d.port with window := d.port.window.write 0 bs } }

/-- R174: READ_SECTORS copies the data into the window and returns numbers and flags. -/
def Device.readSectorsInto (d : Device) (i : Nat) (c : SectorCmd) (ss : List Sector) : Device :=
  let x := d.buf i
  let data := (ss.map x.sectorData).flatten
  ((d.storeWindow data).touch i).finish (Command.code (.sectors c)) .done .none
    ((ss.map (fun s => [BitVec.ofNat 8 s.number, s.flags.reported])).flatten)

/-- The first difference between window bytes and sectors: the sector number and the offset (R174). -/
def firstDiffer (x : TrackBuffer) (w : Mem) (n : Nat) : Nat → List Sector → Option (Nat × Nat)
  | _, [] => none
  | at', s :: ss =>
    match (List.range n).find? (fun j =>
        w.read (at' + j) != x.data.read (s.logical * n + j)) with
    | some j => some (s.number, j)
    | none => firstDiffer x w n (at' + n) ss

/-- R174: VERIFY_SECTORS compares the window with the data. -/
def Device.verifySectorsWith (d : Device) (i : Nat) (c : SectorCmd) (ss : List Sector) : Device :=
  let x := d.buf i
  let d1 := d.touch i
  match firstDiffer x d.port.window x.dataLen 0 ss with
  | none => d1.finish (Command.code (.sectors c)) .done .equal []
  | some (r, j) =>
    d1.finish (Command.code (.sectors c)) .done .differ (BitVec.ofNat 8 r :: toBytes 2 j)

/-- The flags that WRITE_SECTORS leaves on a sector (R86). -/
def SectorFlags.loaderWrite (f : SectorFlags) (deleted : Bool) : SectorFlags :=
  { f with deleted := deleted, dataCrcBad := false, noData := false, unreadable := false }

/-- R86: the buffer as WRITE_SECTORS leaves it. -/
def TrackBuffer.loaderWrite (x : TrackBuffer) (w : Mem) (deleted : Bool) (numbers : List Nat) :
    TrackBuffer :=
  let n := x.dataLen
  { x with
    data := x.sectors.foldl (fun (mem : Mem) (s : Sector) =>
      if numbers.contains s.number then
        Mem.write mem (s.logical * n) (w.readRange (numbers.idxOf s.number * n) n)
      else mem) x.data
    sectors := x.sectors.map (fun (s : Sector) =>
      if numbers.contains s.number then
        { s with flags := s.flags.loaderWrite deleted, dirty := true }
      else s) }

/-- R86: WRITE_SECTORS is applied in one event, with FLAG_LOST on an image without a flag map when a stored flag
changes. -/
def Device.writeSectorsFrom (d : Device) (i : Nat) (c : SectorCmd) (deleted : Bool) : Device :=
  let x := d.buf i
  let x1 := x.loaderWrite d.port.window deleted c.numbers
  let d1 := d.storeWrite i x1 true
  let lost := !d.hasFlagMap c.key.unit
    && x1.sectors.any (fun s => (oldFlags x.sectors s).storedDiffer s.flags)
  let d2 :=
    if lost then
      d1.report (mkReport .corrected .flagLost .loader (some c.key.unit) (some c.key.loc))
    else d1
  d2.done (Command.code (.sectors c))

/-- R173 f, g and R86: a sector command is judged against buffer `i` and applied in one event. -/
def Device.applySectors (d : Device) (i : Nat) (c : SectorCmd) : Device :=
  let x := d.buf i
  match namedSectors x c.numbers with
  | none => d.finish (Command.code (.sectors c)) .failed .noSector []
  | some ss =>
    if Config.windowSize < c.count * x.dataLen then
      d.finish (Command.code (.sectors c)) .failed .range []
    else
      match c.op with
      | .read => d.readSectorsInto i c ss
      | .verify => d.verifySectorsWith i c ss
      | .write deleted => d.writeSectorsFrom i c deleted

/-- R86: a sector command that has been taken is served by the track's buffer, at once or after a fill. -/
def Device.serveSectors (d : Device) (c : SectorCmd) : Device :=
  let d1 := d.execute (.sectors c)
  match d1.readableHolder c.key with
  | some i => d1.applySectors i c
  | none => d1.requestFill c.key

/-- R167 e to g: a sector command in execution, which waits on a fill, is displaced. -/
def Device.displaceSectors (d : Device) (detail : Detail) (acts : TrackKey → Bool) : Device :=
  match d.commandKey with
  | some k => if acts k then d.finishCommand .displaced detail else d
  | none => d

/-! ### Pending changes are placed (R158) -/

/-- R158: a pending change is placed on a unit. -/
def Device.placeChange (d : Device) (u : UnitId) (c : Change) : Device :=
  ((d.setPending u (some c)).joinUnit u).requestHeader u

/-- The staged record of a unit set; nothing while the group is CLOSED. -/
def Device.setStaged (d : Device) (u : UnitId) (c : Change) : Device :=
  match d.seq.group with
  | some g => { d with seq := { d.seq with group := some (g.set u c) } }
  | none => d

/-! ### Validation (R53 to R57) -/

/-- The capacity of the card; 0 while it is absent. -/
def Device.capacity (d : Device) : Nat := d.card.capacity.getD 0

/-- A read for a MOUNT in validation (R53, R143). -/
def Device.requestMountRead (d : Device) (u : UnitId) (block count : Nat) : Device :=
  d.request
    { who := .engine, kind := .read, block := block, count := count, time := 0
      op := .mount, unit := some u, track := none }

/-- A validation before its header is read. -/
def Walk.start : Walk :=
  { draft := none, buffer := none, fetches := 0, pos := ChainPos.zero, sum := 0, dataHigh := 0 }

/-- How a walk comes to rest: it needs a block, or it met END. -/
inductive WalkEnd where
  | fetch
  | fin
  deriving DecidableEq, Repr

/-- A DATA descriptor taken by the walk (R55 c, R56). -/
def Walk.takeData (w : Walk) (e : Extent) : Walk :=
  { w with
    draft := w.draft.map (fun m => m.widen e.start (e.start + e.count - 1))
    sum := w.sum + e.count, dataHigh := max w.dataHigh (e.start + e.count - 1), pos := w.pos.after }

/-- R55: the walk goes on as far as its buffer allows. A block holds 64 descriptors and a JUMP empties the
buffer, so 65 readings always reach an end. -/
def Walk.goOn : Nat → Walk → Walk × WalkEnd
  | 0, w => (w, .fetch)
  | fuel + 1, w =>
    match w.buffer with
    | none => (w, .fetch)
    | some (blk, bytes) =>
      if blk = w.pos.block then
        match readDescriptor bytes w.pos with
        | .data e => (w.takeData e).goOn fuel
        | .jump block group =>
          ({ w with buffer := none, pos := { block := block, group := group, desc := 0 } }, .fetch)
        | .fin => (w, .fin)
      else (w, .fetch)

/-- R56, sixth step: the record's span overlaps one mounted, pending or staged on the other unit. -/
def Device.spanTaken (d : Device) (u : UnitId) (m : MountRecord) : Bool :=
  (d.recordsOf u.other).any (fun x => x.overlaps m)

/-- R152 f, g: the validated record becomes the image part of the staged record, or of a pending change. -/
def Device.mountValidated (d : Device) (c : MountCmd) (m : MountRecord) : Device :=
  let part := ImagePart.mount m (c.protect || m.readOnly)
  match d.seq.group with
  | some g =>
    (d.setStaged c.unit { g.get c.unit with image := some part }).finish 0x20 .done .staged []
  | none =>
    (d.placeChange c.unit { image := some part, protect := none }).finish 0x20 .done .pending []

/-- R55 d and R56: the walk is done. -/
def Device.walkDone (d : Device) (c : MountCmd) (w : Walk) (m : MountRecord) : Device :=
  if w.sum < m.blocksNeeded then d.refuse 0x20 .chainShort
  else if d.capacity ≤ w.dataHigh then d.refuse 0x20 .range
  else if d.spanTaken c.unit m then d.refuse 0x20 .overlap
  else d.mountValidated c m

/-- R55 a, b: the walk needs the block of its position. -/
def Device.walkFetch (d : Device) (c : MountCmd) (w : Walk) : Device :=
  if d.capacity ≤ w.pos.block then d.refuse 0x20 .range
  else if Config.fetchLimit < w.fetches + 1 then d.refuse 0x20 .chainLimit
  else
    let w1 := { w with
      fetches := w.fetches + 1
      draft := w.draft.map (fun m => m.widen w.pos.block w.pos.block) }
    (d.execute (.mount { c with walk := w1 })).requestMountRead c.unit w.pos.block 1

/-- R55: the walk of a MOUNT goes on. -/
def Device.walkOn (d : Device) (c : MountCmd) (w : Walk) : Device :=
  match w.goOn 65 with
  | (w1, .fetch) => d.walkFetch c w1
  | (w1, .fin) =>
    match w1.draft with
    | some m => d.walkDone c w1 m
    | none => d.refuse 0x20 .headerBad

/-- R53 c and R54: the header has been read. -/
def Device.headerRead (d : Device) (c : MountCmd) (bs : List Byte) : Device :=
  if !headerGood bs then d.refuse 0x20 .headerBad
  else
    match headerGeometry bs with
    | none => d.refuse 0x20 .geometry
    | some g =>
      let m := buildRecord c.header bs g
      d.walkOn c { Walk.start with draft := some m, pos := m.chainStart }

/-- R53 a, b: a MOUNT that has been taken begins its validation. -/
def Device.startMount (d : Device) (u : UnitId) (header : Nat) (protect : Bool) : Device :=
  if d.capacity ≤ header + 3 then d.refuse 0x20 .range
  else
    (d.execute (.mount { unit := u, header := header, protect := protect, walk := Walk.start })).requestMountRead
      u header 4

/-- A run of a MOUNT in validation has ended (R53, R57 a). -/
def Device.mountNews (d : Device) (c : MountCmd) (ok : Bool) (data : List Byte) : Device :=
  if !ok then d.finish 0x20 .failed .cardError []
  else
    match c.walk.draft with
    | none => d.headerRead c data
    | some _ => d.walkOn c { c.walk with buffer := some (c.walk.pos.block, data) }

/-! ### Block commands (R176) -/

/-- The run of a block command (R143, R176). -/
def Device.requestBlocks (d : Device) (kind : RunKind) (block count : Nat) : Device :=
  d.request
    { who := .engine, kind := kind, block := block, count := count, time := 0
      op := .loader, unit := none, track := none }

/-- The run of the command in execution has ended (R57, R176 d, e). -/
def Device.engineNews (d : Device) (ok : Bool) (data : List Byte) : Device :=
  match d.port.engine with
  | .executing (.mount c) => d.mountNews c ok data
  | .executing (.readBlocks b n) =>
    if ok then
      (d.storeWindow data).done (Command.code (.readBlocks b n))
    else d.finish (Command.code (.readBlocks b n)) .failed .cardError []
  | .executing (.writeBlocks b n) =>
    if ok then d.done (Command.code (.writeBlocks b n))
    else d.finish (Command.code (.writeBlocks b n)) .failed .cardError []
  | .executing (.sectors _) | .executing (.flush _) | .executing .cardReset => d
  | .idle | .result _ => d

/-! ### FLUSH (R177) -/

/-- The condition of FLUSH for one unit. -/
def Device.unitSaved (d : Device) (u : UnitId) : Bool := d.unsavedCount u == 0 && !d.headerDirty u

/-- R177: the condition of FLUSH. -/
def Device.flushHolds (d : Device) (sel : FlushSel) : Bool :=
  (!sel.names .u0 || d.unitSaved .u0) && (!sel.names .u1 || d.unitSaved .u1)

/-- R177 c: the DIRTY buffers and the header of a unit are asked for, when FLUSH names it. -/
def Device.flushUnit (d : Device) (sel : FlushSel) (u : UnitId) : Device :=
  if sel.names u then (d.joinUnit u).requestHeader u else d

/-! ### A header write ends (R68) -/

/-- The header state after a header write. -/
def MountRecord.headerEnded (m : MountRecord) : MountRecord :=
  { m with headerState := if m.reDirtied then .dirty else .clean, reDirtied := false }

/-- R68: the header write of a unit has ended. A FLUSH that names the unit fails with it (R177 e). DESIGN CHOICE: a header
that R68 b leaves CLEAN can make the condition of R177 d hold at that same event; the FLUSH ends FAILED
(notes/assumptions/47.md). -/
def Device.headerNews (d : Device) (u : UnitId) (ok : Bool) : Device :=
  match d.images.get u with
  | none => d
  | some m =>
    let d1 := d.setImage u (some m.headerEnded)
    if ok then d1.requestHeader u
    else
      let d2 := d1.report
        { cls := .uncorrected, cause := .headerWrite, op := .flush, unit := some u, track := none
          block := some m.headerBlock }
      let d3 := if d2.flushNames u then d2.finishCommand .failed .cardError else d2
      d3.requestHeader u

end Sys2Proof.Machine
end

