-- ==== Sys2Proof/Machine/Cascade.lean ====
section
/-!
DEFINITION. What follows an event within its step: an entry to OFFLINE is handed out, requesters are told how their
runs ended, fills and flushes ask for their next blocks, lookups are served, fills complete, the wait list is
served, and a FLUSH whose condition holds ends. `Device.micro` is one such effect,
`Device.settled` all of them.
-/

namespace Sys2Proof.Machine

/-! ### Lookups (R60 to R64) -/

/-- The track of a lookup's buffer, for reports (R64, R143). -/
def Device.lookupLoc (d : Device) (i : Nat) : Option TrackLoc := (d.buf i).key.map TrackKey.loc

/-- R64: the first lookup of a unit fails: one report, and the requester loses the blocks it asked for. -/
def Device.failLookup (d : Device) (u : UnitId) (cause : Cause) (block : Option Nat) : Device :=
  match (d.windows.get u).lookups with
  | [] => d
  | l :: rest =>
    let d1 := d.report
      { cls := .uncorrected, cause := cause, op := d.workOp l.buffer, unit := some u
        track := d.lookupLoc l.buffer, block := block }
    (d1.modWindow u (fun w => { w with lookups := rest })).loseBlocks l.buffer l.count

/-- R59: the extent-table start of the unit's image; with no image, the value that the model gives a window without one
(notes/assumptions/43.md), which no lookup reads. -/
def Device.chainStart (d : Device) (u : UnitId) : ChainPos :=
  match d.images.get u with
  | some m => m.chainStart
  | none => ChainPos.zero

/-- R61 to R64: the first lookup of a unit is taken on; absent when there is none, when it waits for its group
fetch, or when its chain goes round without end. -/
def Device.serveLookup (d : Device) (u : UnitId) : Option Device :=
  let w := d.windows.get u
  match w.lookups with
  | [] => none
  | l :: rest =>
    if w.fetching then none
    else
      let w1 := if l.block < w.base then w.rewind (d.chainStart u) else w
      match slide (slideFuel l.block) w1 l.block with
      | (w2, .covered) =>
        match locate w2.entries w2.base l.block with
        | some (card, n) =>
          some ((d.modWindow u (fun _ => { w2 with lookups := rest })).lookupAnswered l.buffer card
            (min l.count n))
        | none => none
      | (w2, .fetch) =>
        if Config.fetchLimit < l.fetches + 1 then
          some ((d.modWindow u (fun _ => w2)).failLookup u .chainLimit none)
        else
          some ((d.modWindow u (fun _ =>
              { w2 with lookups := { l with fetches := l.fetches + 1 } :: rest, fetching := true })).request
            { who := .window u, kind := .read, block := w2.next.block, count := 1, time := 0
              op := .fetch, unit := some u, track := d.lookupLoc l.buffer })
      | (w2, .short) => some ((d.modWindow u (fun _ => w2)).failLookup u .chainShort none)
      | (_, .endless) => none

/-- R62 a and R64 c: a group fetch has ended. -/
def Device.windowNews (d : Device) (u : UnitId) (ok : Bool) (data : List Byte) : Device :=
  let w := d.windows.get u
  if !w.fetching then d
  else if ok then
    d.modWindow u (fun _ => { w with fetching := false, groupBuf := some (w.next.block, data) })
  else
    (d.modWindow u (fun _ => { w with fetching := false, groupBuf := none })).failLookup u .fetchFail
      (some w.next.block)

/-! ### The completion of a fill (R82) -/

/-- R82 b: the completion phase a fill for a unit takes. -/
def Device.completionPhase (d : Device) (u : UnitId) : Option Nat :=
  let r := d.units.get u
  if r.motor && r.atSpeed then some r.phase else none

/-- R82 e: a sector command that waits on a key is applied to its buffer. -/
def Device.applyWaiting (d : Device) (i : Nat) (k : TrackKey) : Device :=
  match d.port.engine with
  | .executing (.sectors c) => if c.key == k then d.applySectors i c else d
  | _ => d

/-- A PENDING capture waits for a key. -/
def Device.captureWaits (d : Device) (k : TrackKey) : Bool :=
  match d.captures.get k.unit with
  | some c => c.state == .pending && c.key == k
  | none => false

/-! ### The entry to OFFLINE (R187) -/

/-- R187: the effects of the entry: captures end, the open sections close, and a sector command that waits on a fill is
displaced; each one in execution does, since one whose fill is complete has been applied in that same effect
(`Device.useFilled`). Index and READY fall with the state itself (R32, R41). -/
def Device.enterOffline (d : Device) : Device :=
  let d1 := { d with banks := { d.banks with entryOwed := false } }
  let d2 := (d1.captureEnd .u0).captureEnd .u1
  ((d2.closeSection .u0).closeSection .u1).displaceSectors .offline (fun _ => true)

/-- R82 d, e, R87 and R119: the PENDING capture is decoded and the waiting command applied, in a free order when both
are there. DEDUCED: a decode whose reports take the part OFFLINE leaves the command to its application, since the
command waits on no fill any more (R187 d), and a write from the loader goes on to change its buffer (R112,
notes/assumptions/46.md). -/
def Device.useFilled (d : Device) (i : Nat) (k : TrackKey) : Device :=
  if d.captureWaits k && d.commandKey == some k then
    let (choice, d1) := d.choose 2
    if choice = 0 then (d1.decodePending i k.unit).applyWaiting i k
    else (d1.applyWaiting i k).decodePending i k.unit
  else (d.decodePending i k.unit).applyWaiting i k

/-- R82: the fill of buffer `i` completes. DESIGN CHOICE: where its buffer stops being current at this event, R82 f and
R77 b give no order between the prefetch and the first entry of the wait list; the prefetch is given its buffer
first (notes/assumptions/39.md). -/
def Device.completeFill (d : Device) (i : Nat) : Device :=
  let x := d.buf i
  match x.key with
  | none => d
  | some k =>
    let wasCurrent := d.purpose k == .current
    let d1 := (d.setBuf i
      { x with state := .clean, work := none, completion := d.completionPhase k.unit }).touch i
    let d2 := d1.useFilled i k
    if wasCurrent then d2.requestFill { k with head := 1 - k.head } else d2

/-! ### The next step of a fill or a flush -/

/-- The work of buffer `i` has nothing outstanding. -/
def Device.workIdle (d : Device) (i : Nat) : Bool :=
  match (d.buf i).work with
  | some w => w.stage == .next
  | none => false

/-- R78, R82, R91, R93: a fill or a flush with nothing outstanding asks for its next block, or ends. -/
def Device.workOn (d : Device) (i : Nat) : Device :=
  match (d.buf i).key, (d.buf i).work with
  | some k, some w =>
    match w.todo with
    | b :: _ => d.askLookup i k w b
    | [] => if (d.buf i).state == .filling then d.completeFill i else d.endFlush i
  | _, _ => d

/-! ### The cascade -/

/-- A requester is told how its run ended. -/
def Device.deliver (d : Device) (n : RunNews) : Device :=
  match n.who with
  | .window u => d.windowNews u n.ok n.data
  | .buffer i => if n.ok then d.runSucceeded i n.data else d.runFailed i
  | .header u => d.headerNews u n.ok
  | .engine => d.engineNews n.ok n.data

/-- A FLUSH whose condition holds ends DONE (R177 d). -/
def Device.flushDone (d : Device) : Option Device :=
  match d.port.engine with
  | .executing (.flush sel) => if d.flushHolds sel then some (d.done 0x33) else none
  | _ => none

/-- The first of two. -/
def orElse (a : Option Device) (b : Unit → Option Device) : Option Device :=
  match a with
  | some d => some d
  | none => b ()

/-- One effect that follows the event; absent when the part is settled. DESIGN CHOICE (notes/assumptions/42.md): of two
buffers whose fill or flush goes on at one event, the one with the lower buffer number goes on first. It asks for its
lookup first, and so stands first in its unit's list of R60; its fill completes first, which fixes the LRU order (R73)
and the order of the prefetches (R82 f); its flush ends first. -/
def Device.micro (d : Device) : Option Device :=
  if d.banks.entryOwed then some d.enterOffline
  else
    match d.news with
    | n :: rest => some ({ d with news := rest }.deliver n)
    | [] =>
      match bufferIds.find? d.workIdle with
      | some i => some (d.workOn i)
      | none =>
        orElse (d.serveLookup .u0) fun _ =>
        orElse (d.serveLookup .u1) fun _ =>
        orElse d.dropStaleWaits fun _ =>
        orElse d.serveWait fun _ => d.flushDone

/-- The effects that follow, within a bound. -/
def settle : Nat → Device → Device
  | 0, d => d
  | n + 1, d =>
    match d.micro with
    | some d1 => settle n d1
    | none => d

/-- The part after all that follows the event. -/
def Device.settled (d : Device) : Device := settle Config.settleFuel d

end Sys2Proof.Machine
end

