-- ==== Sys2Proof/Machine/Apply.lean ====
section
/-!
DEFINITION. The application of a pending change (R159 to R161): the revolution start of a clear unit, which holds it, and
the test that ends every event while a unit's motor is not running. `State.run` is a command's effect with all that
follows it.
-/

namespace Sys2Proof.Machine

/-! ### The effects of an application (R160, R161) -/

/-- Buffers become FREE at one event, in a free order (R73, notes/assumptions/4.md). -/
def Device.freeAll (d : Device) (is : List Nat) : Device :=
  let held := is.filter (fun i => (d.buf i).state != .free)
  let (order, d1) := d.shuffle held.length held
  order.foldl Device.freeBuf d1

/-- R160 step 1: the unit's buffers become FREE and their work is abandoned (R65 b, R81 d). -/
def Device.abandonUnit (d : Device) (u : UnitId) : Device :=
  let mine := bufferIds.filter (fun i => d.ownedBy i u)
  let d1 := (mine.foldl (fun (x : Device) i => x.withdraw (.buffer i)) d).withdraw (.window u)
  let d2 := d1.freeAll mine
  { d2 with pool := { d2.pool with waits := d2.pool.waits.filter (fun k => k.unit != u) } }

/-- R160 step 2: the image part. DESIGN CHOICE: an EJECT makes protect off by R160 step 2 and R40 d, whatever a
SET_PROTECT set before, although R154 says that the immediate setting stays when the pending change carries neither a
MOUNT nor a protect part (notes/assumptions/45.md). -/
def Device.applyImage (d : Device) (u : UnitId) : ImagePart → Device
  | .mount m p => (d.setImage u (some m)).modUnit u (fun r => { r with protect := p })
  | .eject => (d.setImage u none).modUnit u (fun r => { r with protect := false })

/-- The unit's image is read-only. -/
def Device.readOnlyImage (d : Device) (u : UnitId) : Bool :=
  match d.images.get u with
  | some m => m.readOnly
  | none => false

/-- R160 step 3: the protect part; off is not applied while the image is read-only. -/
def Device.applyProtect (d : Device) (u : UnitId) : Option Bool → Device
  | some v => if !v && d.readOnlyImage u then d else d.modUnit u (fun r => { r with protect := v })
  | none => d

/-- R160 steps 1, 2, 4 and 5, the effects of an image part, with the displacement of R161. -/
def Device.applyImageStage (d : Device) (u : UnitId) (part : Option ImagePart) : Device :=
  match part with
  | some p =>
    let d1 := (d.displaceSectors .imageChanged (fun k => k.unit == u)).abandonUnit u
    let d2 := d1.applyImage u p
    (d2.modWindow u (fun _ => ExtentWindow.empty (d2.chainStart u))).modUnit u (fun r =>
      { r with latch := true })
  | none => d

/-- R160: a pending change applies. -/
def Device.applyChange (d : Device) (u : UnitId) (c : Change) : Device :=
  let d1 := (d.applyImageStage u c.image).applyProtect u c.protect
  let d2 := d1.modUnit u (fun r => { r with applied := true })
  let d3 := if c.image.isSome then Device.withNotice d u true d2 else d2
  d3.setPending u none

/-- R159 b: the motor is not running, or the unit is at a revolution start that is due and at which no change has
applied. -/
def UnitRecord.applyMoment (r : UnitRecord) : Bool :=
  !r.motor || (decide (0 < r.revDue) && r.phase == 0 && !r.startUsed)

/-- R159: at a revolution start of the unit, a pending change applies when the unit is clear, unless one has applied
at that start. -/
def Device.applyAtStart (d : Device) (u : UnitId) : Device :=
  match d.seq.pending.get u with
  | some c => if !(d.units.get u).startUsed && d.unitClear u then d.applyChange u c else d
  | none => d

/-! ### The revolution start (R31) -/

/-- R84: at a revolution start of a selected unit, a formatted current track that is not readable is reported. -/
def Device.checkReady (d : Device) (u : UnitId) : Device :=
  match d.currentTrack u with
  | some k =>
    if d.isSelected u && (d.formatOf k).isSome && (d.readableHolder k).isNone then
      d.report (mkReport .note .trackNotReady .fill (some u) (some k.loc))
    else d
  | none => d

/-- R83: the completion phases of a unit's buffers are removed. -/
def Device.dropCompletion (d : Device) (u : UnitId) : Device :=
  { d with pool :=
      { d.pool with buffers := d.pool.buffers.map (fun b =>
          match b.key with
          | some k => if k.unit = u then { b with completion := none } else b
          | none => b) } }

/-- R31: the revolution start of a unit: TRACK_NOT_READY (R84), the completion phases (R83), no open section
(R102), and the moment of a pending change, which applies there when the unit is clear (R159). -/
def Device.revolutionEvent (d : Device) (u : UnitId) : Device :=
  let d1 := (((d.checkReady u).dropCompletion u).closeSection u).applyAtStart u
  d1.modUnit u (fun r => { r with revDue := r.revDue - 1, startUsed := false })

/-- R30: revolution starts that are due, taken one after the other. -/
def takeStarts (u : UnitId) : Nat → Device → Device
  | 0, d => d
  | n + 1, d => takeStarts u n (d.revolutionEvent u)

/-- R30: the revolution starts of a unit that are due are handed. -/
def Device.handStarts (d : Device) (u : UnitId) : Device := takeStarts u (d.units.get u).revDue d

/-! ### The test with the motor off (R159) -/

/-- R159: with the motor not running, a change pending on a clear unit applies at the event. -/
def Device.testDue (d : Device) (u : UnitId) : Bool := !(d.units.get u).motor && d.unitClear u

/-- R159: the test of one unit at the end of an event, with all that follows an application. -/
def Device.testUnit (d : Device) (u : UnitId) : Device :=
  match d.seq.pending.get u with
  | some c => if d.testDue u then (d.applyChange u c).settled else d
  | none => d

/-- R159: the tests at the end of an event, after all else that follows it (DESIGN CHOICE: notes/assumptions/8.md).
What follows the application to Unit 1 may make Unit 0 clear. -/
def Device.tested (d : Device) : Device := ((d.testUnit .u0).testUnit .u1).testUnit .u0

/-- A command's effect on the part, with all that follows it within the step; the queue is left alone. -/
def State.run (s : State) (f : Device → Device) : Host.Outcome State Fault Refusal :=
  .next { s with dev := (f s.dev).settled.tested }

end Sys2Proof.Machine
end

