-- ==== Sys2Proof/Machine/Units.lean ====
section
/-!
DEFINITION. Unit Logic's shared operations (chapter 2): the side, the motors, and the evaluation of selection and
motor sources after the lines or a configuration have changed.
-/

namespace Sys2Proof.Machine

/-! ### Side (R36) -/

/-- R36: a unit's side is set from the side input; a change of value is a side change, with its notice. -/
def Device.sampleSide (d : Device) (u : UnitId) : Device :=
  if (d.units.get u).side = d.lines.side then d
  else Device.withNotice d u false (d.modUnit u (fun r => { r with side := d.lines.side }))

/-! ### Motor (R27, R29) -/

/-- R27 a to d: the unit record at a motor start. -/
def UnitRecord.started (r : UnitRecord) : UnitRecord :=
  { r with motor := true, phase := 0, spinUp := some 0 }

/-- R27: a motor start, with its current-track notice. -/
def Device.motorStart (d : Device) (u : UnitId) : Device :=
  Device.withNotice d u false (d.modUnit u UnitRecord.started)

/-- R29 a, b: the unit record at a motor off. -/
def UnitRecord.stopped (r : UnitRecord) : UnitRecord :=
  { r with motor := false, atSpeed := false, spinUp := none, phase := 0, revDue := 0
           startUsed := false }

/-- R29: a motor off. The capture ends while the buffer is still current, then the motor-off notice queues the
unit's DIRTY buffers (R88 b) and the header write is requested (R67 d). -/
def Device.motorOff (d : Device) (u : UnitId) : Device :=
  let d1 := (d.captureEnd u).modUnit u UnitRecord.stopped
  (((d1.dropCompletion u).closeSection u).joinUnit u).requestHeader u

/-- R27 and R29: a unit's motor follows its source. -/
def Device.followMotor (d : Device) (u : UnitId) : Device :=
  let asserted := d.motorAsserted u
  let running := (d.units.get u).motor
  if asserted && !running then d.motorStart u
  else if !asserted && running then d.motorOff u
  else d

/-! ### Selection (R24, R25, R98) -/

/-- R24 b and R111 b: a unit ceases to be selected: its capture ends and its delivery record is emptied. -/
def Device.deselect (d : Device) (u : UnitId) : Device :=
  { (d.captureEnd u).modDelivery u (fun _ => Delivery.empty) with readData := none }

/-- R24 a and R111 a: a unit becomes selected: its side is sampled and its delivery record begins with no open section,
at the slot under its head, whether or not the side has changed (R26, notes/assumptions/10.md). -/
def Device.select (d : Device) (u : UnitId) : Device :=
  (d.sampleSide u).modDelivery u (fun _ => Delivery.empty)

/-- The unit that was selected ceases to be, and the one that is selected now becomes so. -/
def Device.moveSelection (d : Device) (was : Option UnitId) : Device :=
  if was = d.selected then d
  else
    let d1 :=
      match was with
      | some u => d.deselect u
      | none => d
    match d1.selected with
    | some u => d1.select u
    | none => d1

/-- R25 a: a double selection that begins is reported. -/
def Device.reportDouble (d : Device) (was : Bool) : Device :=
  if d.doubleSelect && !was then d.report (mkReport .note .doubleSelect .drive none none) else d

/-- R23, R24, R25, R27: the lines or a configuration have changed. `before` is the part before the change, `after`
the part with the change alone. -/
def Device.evaluate (before after : Device) : Device :=
  let d := (after.moveSelection before.selected).reportDouble before.doubleSelect
  (d.followMotor .u0).followMotor .u1

/-- A change stops the motor of a unit. -/
def Device.stopsMotor (d : Device) (change : Device → Device) (u : UnitId) : Bool :=
  (d.units.get u).motor && !(change d).motorAsserted u

/-- R30: the revolution starts that are due on a unit whose motor a change stops are handed ahead of it. -/
def Device.startsBefore (d : Device) (change : Device → Device) : Device :=
  let d1 := if d.stopsMotor change .u0 then d.handStarts .u0 else d
  if d.stopsMotor change .u1 then d1.handStarts .u1 else d1

/-- R23, R24, R25, R27: the lines or a configuration change, and selection and both motors follow. -/
def Device.followLines (d : Device) (change : Device → Device) : Device :=
  let before := d.startsBefore change
  before.evaluate (change before)

end Sys2Proof.Machine
end

