-- ==== Sys2Proof/Machine/Reset.lean ====
section
/-!
DEFINITION. Power-on and the reset line (R45, R69, R97, R113, R132, R150, R163, R179, R191).
-/

namespace Sys2Proof.Machine

/-- R150: card detect as it stands when the reset ends. -/
def Device.sampleCard (d : Device) : Device := if d.lines.cardDetect then d.beginInit else d

/-- R45 and R150: the lines are sampled as they stand when the reset ends, and each asserted line is an event. A
write gate found asserted is not a write start. -/
def Device.sampleLines (d : Device) (lines : Lines) : Device :=
  (Device.followLines { d with lines := Lines.released } (fun x => { x with lines := lines })).sampleCard

/-- R191: the banks after the reset line: records, counts and enables kept, FIP and OFFLINE clear. -/
def FaultBanks.resetLine (b : FaultBanks) : FaultBanks :=
  { b with fip := false, offline := false, entryOwed := false }

/-- The part at its power-on values; time runs on and the input lines stand as they are. -/
def Device.poweredOn (d : Device) : Device :=
  { Device.reset with now := d.now, freeCount := d.freeCount }

/-- Power-on. -/
def Device.onPowerOn (d : Device) : Device := d.poweredOn.sampleLines d.lines

/-- The reset line. The revolution starts that are due are handed ahead of it (R30), since the banks keep their
reports. DESIGN CHOICE: what such a start gives rise to after its own effect, an entry to OFFLINE and the captures that it
ends among it, is not handed before the reset, which clears it (notes/assumptions/6.md). -/
def Device.onResetLine (d : Device) : Device :=
  let d1 := (d.handStarts .u0).handStarts .u1
  { d1.poweredOn with banks := d1.banks.resetLine }.sampleLines d1.lines

/-- POWER_ON. -/
def execPowerOn (s : State) : Host.Outcome State Fault Refusal := s.run Device.onPowerOn

/-- RESET_LINE. -/
def execResetLine (s : State) : Host.Outcome State Fault Refusal := s.run Device.onResetLine

end Sys2Proof.Machine
end

