-- ==== Sys2Proof/Machine/DriveEvents.lean ====
section
/-!
DEFINITION. The events of the Drive Port and of the rotation (chapter 2, R83, R84, R116, R117).
-/

namespace Sys2Proof.Machine

/-! ### Lines -/

/-- R24: a select input changes level. -/
def Device.onSelectLine (d : Device) (line : SelectLine) (v : Bool) : Device :=
  d.followLines (fun x => { x with lines := x.lines.setSel line v })

/-- SELECT_LINE_CHANGE. -/
def execSelectLineChange (line : SelectLine) (asserted : Bool) (s : State) :
    Host.Outcome State Fault Refusal :=
  s.run (fun d => d.onSelectLine line asserted)

/-- A motor input at a level. -/
def Lines.setMotor (l : Lines) (m : MotorLine) (v : Bool) : Lines :=
  match m with
  | .mota => { l with mota := v }
  | .motb => { l with motb := v }

/-- R27: a motor input changes level. -/
def Device.onMotorLine (d : Device) (line : MotorLine) (v : Bool) : Device :=
  d.followLines (fun x => { x with lines := x.lines.setMotor line v })

/-- MOTOR_LINE_CHANGE. -/
def execMotorLineChange (line : MotorLine) (asserted : Bool) (s : State) :
    Host.Outcome State Fault Refusal :=
  s.run (fun d => d.onMotorLine line asserted)

/-! ### Rotation (R28, R30 to R32) -/

/-- R28: the spin-up time runs to its end and the unit is at speed. Without a spin-up there is no such event. -/
def Device.onAtSpeed (d : Device) (u : UnitId) : Device :=
  match (d.units.get u).motor, (d.units.get u).spinUp with
  | true, some t =>
    (d.advance (Config.spinUpTime - t)).modUnit u (fun r => { r with atSpeed := true, spinUp := none })
  | _, _ => d

/-- AT_SPEED. -/
def execAtSpeed (u : UnitId) (s : State) : Host.Outcome State Fault Refusal :=
  s.run (fun d => d.onAtSpeed u)

/-- R30 and R31: the phase of an at-speed unit runs to its wrap, unless a wrap has come already, and the event is
handed. -/
def Device.onRevolution (d : Device) (u : UnitId) : Device :=
  let r := d.units.get u
  if r.motor && r.atSpeed then
    if 0 < r.revDue then d.revolutionEvent u
    else (d.advance (Config.revolution - r.phase)).revolutionEvent u
  else d

/-- REVOLUTION_START. -/
def execRevolutionStart (u : UnitId) (s : State) : Host.Outcome State Fault Refusal :=
  s.run (fun d => d.onRevolution u)

/-- R32: the phase of the selected unit runs to 2,000 µs, where index is released. Without an asserted index there
is no such event. -/
def Device.onIndexEnd (d : Device) : Device :=
  match d.selected with
  | some u => if d.indexLine then d.advance (Config.indexPulse - (d.units.get u).phase) else d
  | none => d

/-- INDEX_PULSE_END. -/
def execIndexPulseEnd (s : State) : Host.Outcome State Fault Refusal := s.run Device.onIndexEnd

/-! ### Steps (R33 to R35) -/

/-- R33 and R42: a step taken clears the latch while an image is mounted. -/
def Device.stepLatch (d : Device) (u : UnitId) : Device :=
  if d.mounted u then d.modUnit u (fun r => { r with latch := false }) else d

/-- R33: the head moves to another cylinder, with a current-track notice. -/
def Device.moveHead (d : Device) (u : UnitId) (cyl : Nat) : Device :=
  Device.withNotice d u false (d.modUnit u (fun r => { r with cylinder := cyl }))

/-- R33 and R34: a step taken by a unit. -/
def Device.takeStep (d : Device) (u : UnitId) (inward : Bool) : Device :=
  let d1 := d.stepLatch u
  let c := (d.units.get u).cylinder
  if inward then
    if c < Config.lastCylinder then d1.moveHead u (c + 1)
    else d1.report (mkReport .note .stepLimit .drive (some u) none)
  else if c = 0 then d1
  else d1.moveHead u (c - 1)

/-- R33 and R35: a step pulse, with the direction input as it is sampled. -/
def Device.onStep (d : Device) (inward : Bool) : Device :=
  let d1 := { d with lines := { d.lines with dir := inward } }
  match d1.selected with
  | none => d1
  | some u =>
    if d1.lines.wgate then
      d1.report (mkReport .corrected .stepDuringWrite .drive (some u) (d1.currentLoc u))
    else d1.takeStep u inward

/-- STEP_PULSE. -/
def execStepPulse (inward : Bool) (s : State) : Host.Outcome State Fault Refusal :=
  s.run (fun d => d.onStep inward)

/-! ### Side and write gate (R36, R38) -/

/-- R36: the side input changes level; the selected unit follows while the gate is released. -/
def Device.onSide (d : Device) (v : Bool) : Device :=
  let d1 := { d with lines := { d.lines with side := v } }
  match d1.selected with
  | some u => if d1.lines.wgate then d1 else d1.sampleSide u
  | none => d1

/-- SIDE_CHANGE. -/
def execSideChange (asserted : Bool) (s : State) : Host.Outcome State Fault Refusal :=
  s.run (fun d => d.onSide asserted)

/-- R38 and R110: the write gate becomes asserted: the stream of the selected unit leaves TRACK, and a write start
is handed. -/
def Device.onGateAssert (d : Device) : Device :=
  if d.lines.wgate then d
  else
    let d1 := { d with lines := { d.lines with wgate := true } }
    match d1.selected with
    | some u => (d1.closeSection u).writeStart u
    | none => d1

/-- WRITE_GATE_ASSERT. -/
def execWriteGateAssert (s : State) : Host.Outcome State Fault Refusal := s.run Device.onGateAssert

/-- R38 a and R36: the write gate is released: the capture ends, then the side is set from the side input. -/
def Device.onGateRelease (d : Device) : Device :=
  if d.lines.wgate then
    let d1 := { d with lines := { d.lines with wgate := false } }
    match d1.selected with
    | some u => (d1.captureEnd u).sampleSide u
    | none => d1
  else d

/-- WRITE_GATE_RELEASE. -/
def execWriteGateRelease (s : State) : Host.Outcome State Fault Refusal := s.run Device.onGateRelease

/-! ### Write data (R117) -/

/-- The phase at which a byte that begins now lies, counted on from the start of the capture (R114). -/
def Capture.phaseNow (c : Capture) (now : Nat) : Nat := c.startPhase + (now - c.startTime)

/-- R117: a byte of write data that begins now is taken into a running capture. -/
def Device.takeWriteByte (d : Device) (u : UnitId) (b : Byte) (wire : WireMode) (broken : Bool) : Device :=
  match d.captures.get u with
  | some c =>
    if c.state = .capturing then d.setCapture u (some (c.takeByte (c.phaseNow d.now) b wire broken))
    else d
  | none => d

/-- A byte on write data: it is taken by the selected unit's capture, if one runs, and lasts its slot. -/
def Device.onWriteByte (d : Device) (b : Byte) (wire : WireMode) (broken : Bool) : Device :=
  let d1 :=
    match d.selected with
    | some u => if d.lines.wgate then d.takeWriteByte u b wire broken else d
    | none => d
  d1.advance (slotLen (wireBasis wire).rate)

/-- WRITE_DATA_BYTE. -/
def execWriteDataByte (byte : Byte) (wire : WireMode) (brokenClock : Bool) (s : State) :
    Host.Outcome State Fault Refusal :=
  s.run (fun d => d.onWriteByte byte wire brokenClock)

end Sys2Proof.Machine
end

