-- ==== Sys2Proof/Machine/Stream.lean ====
section
/-!
DEFINITION. The Read Stream Generator (chapter 5): which slot comes next, sections and their decisions, and the
byte a slot delivers.
-/

namespace Sys2Proof.Machine

/-! ### The next slot (R12, R99) -/

/-- How long until the next slot to deliver begins, and which slot it is. The slot under the head is delivered when
it began at or after the end of the slot before; otherwise the first slot that begins at or after that end. With
the motor off the phase rests at 0, and slots follow each other at the basis rate (R111 e). DESIGN CHOICE: a slot that
began in FILLER and was not delivered is delivered in the mode that the record has when READ_SLOT takes it, so a
section whose first slot it is opens when the mode has become TRACK inside it (R101, notes/assumptions/41.md). -/
def Device.nextSlot (d : Device) (u : UnitId) : Nat × Nat :=
  let r := d.units.get u
  let rate := (d.streamBasis u).rate
  let len := slotLen rate
  match (d.delivery.get u).slotEnd with
  | none => (0, slotAt rate r.phase)
  | some t =>
    if !r.motor then (t - d.now, 0)
    else if t + r.phase % len ≤ d.now then (0, slotAt rate r.phase)
    else
      let x := (r.phase + (t - d.now) + len - 1) / len
      (x * len - r.phase, x % slotsPerRev rate)

/-! ### Sections (R101) -/

/-- The first and last slot of a section. -/
def StreamSection.span (l : Layout) : StreamSection → Nat × Nat
  | .index => l.indexSpan
  | .ident k => l.idSpan k
  | .data k => l.dataSpan k

/-- The section whose first slot is a slot. -/
def sectionAt (l : Layout) (slot : Nat) : Option StreamSection :=
  match l.place slot with
  | .preamble x => if x = l.indexSpan.1 then some .index else none
  | .sector k o => if o = 0 then some (.ident k) else if o = dataSyncOffset l.enc then some (.data k) else none
  | .gap4b _ => none

/-- R83: position k of a buffer is visible. -/
def TrackBuffer.visible (b : TrackBuffer) (l : Layout) (k : Nat) : Bool :=
  match b.completion with
  | some p => decide (p ≤ slotPhase l.rate (l.start k))
  | none => true

/-- The sector record at a physical position. -/
def TrackBuffer.sectorAt (b : TrackBuffer) (k : Nat) : Option Sector :=
  b.sectors.find? (fun s => s.position == k)

/-- R103: the ID decision of position k. -/
def TrackBuffer.idDecision (b : TrackBuffer) (l : Layout) (k : Nat) : Option IdDecision :=
  match b.key, b.sectorAt k with
  | some key, some s =>
    some { c := key.cyl, h := key.head, r := s.number, n := l.sizeCode, complemented := s.flags.idCrcBad }
  | _, _ => none

/-- R104: the data decision of position k. -/
def TrackBuffer.dataDecision (b : TrackBuffer) (k : Nat) : DataDecision :=
  match b.sectorAt k with
  | some s => if s.flags.noData then .absent else .present
  | none => .absent

/-- R10: a CRC, complemented when the flag says so. -/
def maybeComplement (c : BitVec 16) (bad : Bool) : BitVec 16 := if bad then ~~~c else c

/-- R105 b: the latch of a sector. -/
def TrackBuffer.latchOf (b : TrackBuffer) (l : Layout) (s : Sector) : DataLatch :=
  let data := b.data.readRange (s.logical * l.dataLen) l.dataLen
  let mark := if s.flags.deleted then deletedMark else dataMark
  { data := data, mark := mark
    crc := maybeComplement (dataCrc l.enc mark data) (s.flags.dataCrcBad || s.flags.unreadable) }

/-- R101, R103, R104: the section whose first slot is delivered opens, when its sector is visible. -/
def Delivery.openAt (x : Delivery) (b : TrackBuffer) (l : Layout) (slot : Nat) : Delivery :=
  match sectionAt l slot with
  | some .index => { x.close with openSection := some .index }
  | some (.ident k) =>
    if b.visible l k then
      { x.close with openSection := some (.ident k), idDecision := b.idDecision l k }
    else x.close
  | some (.data k) =>
    if b.visible l k then
      { x.close with openSection := some (.data k), dataDecision := some (b.dataDecision k) }
    else x.close
  | none => x

/-- A section that does not hold the slot is past. -/
def Delivery.dropPast (x : Delivery) (l : Layout) (slot : Nat) : Delivery :=
  match x.openSection with
  | some sec =>
    if (sec.span l).1 ≤ slot ∧ slot ≤ (sec.span l).2 then x else x.close
  | none => x

/-- R105: at the data mark slot of a PRESENT field the latch is taken, or the decision becomes ABSENT. The flag
says whether a latch was taken. -/
def Delivery.takeLatch (x : Delivery) (b : TrackBuffer) (l : Layout) (slot : Nat) : Delivery × Bool :=
  match x.openSection, x.dataDecision with
  | some (.data k), some .present =>
    if slot = (l.dataSpan k).1 + syncLen l.enc then
      match b.sectorAt k with
      | some s =>
        if s.flags.noData then ({ x with dataDecision := some .absent }, false)
        else ({ x with latch := some (b.latchOf l s) }, true)
      | none => ({ x with dataDecision := some .absent }, false)
    else (x, false)
  | _, _ => (x, false)

/-! ### The byte of a slot (R102 to R105) -/

/-- A byte and whether it is sent with the broken clock of R8. -/
abbrev SlotByte := Byte × Bool

/-- A mark as slot bytes: in MFM three special bytes with broken clock and the mark byte; in FM the mark byte with
broken clock. -/
def markSlots (e : Encoding) (special mark : Byte) : List SlotByte :=
  match e with
  | .mfm => [(special, true), (special, true), (special, true), (mark, false)]
  | .fm => [(mark, true)]

/-- Bytes with their normal clock. -/
def plainSlots (bs : List Byte) : List SlotByte := bs.map (fun b => (b, false))

/-- The sync run of 00. -/
def syncSlots (e : Encoding) : List SlotByte := plainSlots (List.replicate (syncLen e) 0)

/-- The INDEX section (R102 b). -/
def indexSlots (e : Encoding) : List SlotByte := syncSlots e ++ markSlots e specialC2 indexMark

/-- The ID section of a decision (R103). -/
def idSlots (e : Encoding) (i : IdDecision) : List SlotByte :=
  let c := BitVec.ofNat 8 i.c
  let h := BitVec.ofNat 8 i.h
  let r := BitVec.ofNat 8 i.r
  let n := BitVec.ofNat 8 i.n
  syncSlots e ++ markSlots e specialA1 idMark
    ++ plainSlots ([c, h, r, n] ++ crcBytes (maybeComplement (idCrc e c h r n) i.complemented))

/-- The DATA section after its sync run, from the latch (R105). -/
def latchSlots (e : Encoding) (x : DataLatch) : List SlotByte :=
  markSlots e specialA1 x.mark ++ plainSlots (x.data ++ crcBytes x.crc)

/-- Filler of an encoding (R7). -/
def fillerSlot (e : Encoding) : SlotByte := (filler e, false)

/-- What a slot of the open section carries; filler where no section is open. -/
def Delivery.byteAt (x : Delivery) (l : Layout) (slot : Nat) : SlotByte :=
  match x.openSection with
  | some .index => (indexSlots l.enc).getD (slot - l.indexSpan.1) (fillerSlot l.enc)
  | some (.ident k) =>
    match x.idDecision with
    | some i => (idSlots l.enc i).getD (slot - (l.idSpan k).1) (fillerSlot l.enc)
    | none => fillerSlot l.enc
  | some (.data k) =>
    match x.dataDecision with
    | some .present =>
      if slot < (l.dataSpan k).1 + syncLen l.enc then (0, false)
      else
        match x.latch with
        | some y => (latchSlots l.enc y).getD (slot - (l.dataSpan k).1 - syncLen l.enc) (fillerSlot l.enc)
        | none => fillerSlot l.enc
    | _ => fillerSlot l.enc
  | none => fillerSlot l.enc

/-- R101: the section closes when its last slot has been delivered. -/
def Delivery.closeAfter (x : Delivery) (l : Layout) (slot : Nat) : Delivery :=
  match x.openSection with
  | some sec => if slot = (sec.span l).2 then x.close else x
  | none => x

/-! ### READ_SLOT -/

/-- A byte on read data, and the end of its slot. -/
def Device.putSlot (d : Device) (u : UnitId) (basis : Basis) (b : SlotByte) : Device :=
  let len := slotLen basis.rate
  { d.modDelivery u (fun x =>
      { x with slotEnd := some (d.now - (d.units.get u).phase % len + len) }) with
    readData := some { value := b.1, basis := basis, broken := b.2 } }

/-- R102: a slot of the synthesized track of buffer `i`. -/
def Device.trackSlot (d : Device) (u : UnitId) (i : Nat) (l : Layout) (slot : Nat) : Device :=
  let b := d.buf i
  let x := ((d.delivery.get u).dropPast l slot).openAt b l slot
  let y := x.takeLatch b l slot
  let d1 := d.modDelivery u (fun _ => y.1.closeAfter l slot)
  let d2 := if y.2 then d1.touch i else d1
  d2.putSlot u l.basis (y.1.byteAt l slot)

/-- R100: a slot of the selected unit's stream by its mode. -/
def Device.deliverSlot (d : Device) (u : UnitId) (slot : Nat) : Device :=
  match d.streamMode u, d.streamBuffer u with
  | .track, some i =>
    match (d.buf i).layout with
    | some l => d.trackSlot u i l slot
    | none => d.putSlot u (d.streamBasis u) (fillerSlot (d.streamBasis u).enc)
  | _, _ => (d.closeSection u).putSlot u (d.streamBasis u) (fillerSlot (d.streamBasis u).enc)

/-- R102: time runs to the next slot of the selected unit's stream, and the slot is delivered. With no unit selected
read data carries no stream. -/
def Device.onReadSlot (d : Device) : Device :=
  match d.selected with
  | some u => (d.advance (d.nextSlot u).1).deliverSlot u (d.nextSlot u).2
  | none => d

/-- READ_SLOT. -/
def execReadSlot (s : State) : Host.Outcome State Fault Refusal := s.run Device.onReadSlot

end Sys2Proof.Machine
end

