-- ==== Sys2Proof/Machine/CardEvents.lean ====
section
/-!
DEFINITION. The events of the Card Port and of the arbiter (chapter 7): insertion, initialization, grants, the ends
of runs, and removal.
-/

namespace Sys2Proof.Machine

/-! ### Insertion and initialization (R135, R136, R149) -/

/-- R135: an assertion of card detect is taken in ABSENT. -/
def Device.onCardInsert (d : Device) : Device :=
  let d1 := { d with lines := { d.lines with cardDetect := true } }
  if d.card.state = .absent ∧ d.lines.cardDetect = false then d1.beginInit else d1

/-- CARD_DETECT_ASSERT. -/
def execCardDetectAssert (s : State) : Host.Outcome State Fault Refusal := s.run Device.onCardInsert

/-- A CARD_RESET in execution ends (R149). -/
def Device.endCardReset (d : Device) (cls : TermClass) (detail : Detail) : Device :=
  match d.port.engine with
  | .executing .cardReset => d.finishCommand cls detail
  | _ => d

/-- R135 a and R136: the card becomes READY. -/
def Device.cardReady (d : Device) (capacity : Nat) : Device :=
  { d with card :=
      { d.card with state := .ready, capacity := some capacity, initTime := none, grants := 0 } }.endCardReset
    .done .none

/-- R135 b, c: initialization fails. -/
def Device.initFailed (d : Device) : Device :=
  let d1 := { d with card := { d.card with state := .failed, capacity := none, initTime := none } }
  (d1.report { cls := .uncorrected, cause := .initFail, op := .init, unit := none, track := none
               block := none }).endCardReset .failed .cardError

/-- R135: the card is in initialization and its time is not over. -/
def Device.initRunning (d : Device) : Bool :=
  d.card.state == .initializing
    && (match d.card.initTime with
        | some t => decide (t < Config.initLimit)
        | none => false)

/-- R135 a, b: the card answers with its capacity. -/
def Device.onInitAnswer (d : Device) (capacity : Nat) : Device :=
  if d.initRunning then
    if capacity = 0 then d.initFailed else d.cardReady capacity
  else d

/-- CARD_INIT_ANSWER. -/
def execCardInitAnswer (capacity : BitVec 32) (s : State) : Host.Outcome State Fault Refusal :=
  s.run (fun d => d.onInitAnswer capacity.toNat)

/-- R135 c: the initialization time runs to its end. -/
def Device.onInitTimeout (d : Device) : Device :=
  match d.card.state, d.card.initTime with
  | .initializing, some t => (d.advance (Config.initLimit - t)).initFailed
  | _, _ => d

/-- CARD_INIT_TIMEOUT. -/
def execCardInitTimeout (s : State) : Host.Outcome State Fault Refusal := s.run Device.onInitTimeout

/-! ### Grants (R138, R139, R142) -/

/-- The bytes a WRITE run takes from its requester at its grant (R67, R92, R176). -/
def Device.runBytes (d : Device) (r : Request) : List Byte :=
  match r.kind, r.who with
  | .write, .buffer i => d.flushRunBytes i
  | .write, .header u =>
    match d.images.get u with
    | some m => m.headerBytes
    | none => []
  | .write, .engine => d.port.window.readRange 0 (r.count * Config.blockSize)
  | .write, .window _ => []
  | .read, _ => []

/-- R67: the header state becomes WRITING when the header write is granted. -/
def Device.markWriting (d : Device) (r : Request) : Device :=
  match r.who with
  | .header u => d.setImage u ((d.images.get u).map (fun m => { m with headerState := .writing }))
  | .window _ | .buffer _ | .engine => d

/-- A run goes on the card. -/
def Device.putRun (d : Device) (r : Request) (cls : ArbClass) (first : Option RunCause) : Device :=
  let run : Run :=
    { req := r, cls := cls, firstCause := first, granted := d.now, bytes := d.runBytes r, withdrawn := false }
  { d with card := { d.card with run := some run } }

/-- R142: the retry owed is granted. It leaves the count as it was (R139 e). -/
def Device.grantRetry (d : Device) (run : Run) (cause : RunCause) : Device :=
  { d with card := { d.card with retry := none } }.putRun run.req run.cls (some cause)

/-- R138 b, c: a waiting request of a class is granted. -/
def Device.grantRequest (d : Device) (cls : ArbClass) : Device :=
  match d.oldest cls with
  | (some r, d1) =>
    let d2 := { d1 with card :=
      { d1.card with
        requests := d1.card.requests.filter (fun x => x.who != r.who), grants := d.grantsAfter cls } }
    (d2.putRun r cls none).markWriting r
  | (none, _) => d

/-- R138: a grant, when its conditions hold. -/
def Device.onGrant (d : Device) : Device :=
  if d.canGrant then
    match d.card.retry with
    | some (run, cause) => d.grantRetry run cause
    | none =>
      match d.grantClass with
      | some cls => d.grantRequest cls
      | none => d
  else d

/-- RUN_GRANT. -/
def execRunGrant (s : State) : Host.Outcome State Fault Refusal := s.run Device.onGrant

/-! ### The ends of runs (R140 to R145) -/

/-- The run in flight is removed (R140). -/
def Device.dropRun (d : Device) : Device := { d with card := { d.card with run := none } }

/-- The bytes of a READ run, 512 for each block; a WRITE run brings none. -/
def Run.answerBytes (r : Run) (data : List Byte) : List Byte :=
  match r.req.kind with
  | .read => bytesAt data 0 (r.req.count * Config.blockSize)
  | .write => []

/-- The requester of a run is told, unless it withdrew (R145 a). -/
def Device.tellRun (d : Device) (r : Run) (ok : Bool) (data : List Byte) : Device :=
  if r.withdrawn then d else d.tell r.req.who ok data

/-- R142 a: a run has ended well; after a retry, CORRECTED is reported with the first attempt's cause. -/
def Device.runDone (d : Device) (r : Run) (data : List Byte) : Device :=
  let d1 := d.dropRun
  let d2 :=
    match r.firstCause with
    | some c => d1.report (r.report .corrected c)
    | none => d1
  (d2.tellRun r true (r.answerBytes data)).afterRun

/-- R144: the card becomes FAILED after two timeouts of one run. -/
def Device.cardFails (d : Device) : Device :=
  let d1 := { d with card := { d.card with state := .failed, capacity := none } }.failRequests
  { d1 with card := { d1.card with grants := 0 } }

/-- R142 b and R145 a: a run has failed for good: its requester is told and UNCORRECTED is reported. Two timeouts
take the card to FAILED, unless the requester withdrew. -/
def Device.runLost (d : Device) (r : Run) (c : RunCause) : Device :=
  let d1 := (d.dropRun.tellRun r false []).report (r.report .uncorrected c)
  let d2 := if r.firstCause = some .timeout ∧ c = .timeout ∧ r.withdrawn = false then d1.cardFails else d1
  d2.afterRun

/-- R142: an attempt of the run in flight has failed. The first one owes a retry, unless the requester withdrew
(R145 a). -/
def Device.runFails (d : Device) (r : Run) (c : RunCause) : Device :=
  if r.firstCause.isNone && !r.withdrawn then
    { d.dropRun with card := { d.dropRun.card with retry := some (r, c) } }
  else d.runLost r c

/-- R140 and R141: the card answers the run in flight. An answer after the time of the attempt is not taken. A run
whose blocks do not all lie below the capacity is answered with an error response (R141 b): an answer that would
say that its transfer is complete is taken as that response. -/
def Device.onRunAnswer (d : Device) (a : CardAnswer) : Device :=
  match d.card.run with
  | some r =>
    if d.now < r.granted + Config.runLimit then
      match a with
      | .complete data => if d.runWithin r then d.runDone r data else d.runFails r .reject
      | .badCheck => d.runFails r .crc
      | .error => d.runFails r .reject
    else d
  | none => d

/-- RUN_END. -/
def execRunEnd (answer : CardAnswer) (s : State) : Host.Outcome State Fault Refusal :=
  s.run (fun d => d.onRunAnswer answer)

/-- R141 c: time runs to the end of the attempt, and the run fails. -/
def Device.onRunTimeout (d : Device) : Device :=
  match d.card.run with
  | some r => (d.advance (r.granted + Config.runLimit - d.now)).runFails r .timeout
  | none => d

/-- RUN_TIMEOUT. -/
def execRunTimeout (s : State) : Host.Outcome State Fault Refusal := s.run Device.onRunTimeout

/-! ### Card removal (R96, R132, R146 to R148, R162) -/

/-- A unit has an image mounted or a pending change. -/
def Device.carries (d : Device) (u : UnitId) : Bool := d.mounted u || (d.seq.pending.get u).isSome

/-- R147 d: the unit's record at the loss of its card: the latch, protect and LOST. -/
def Device.loseUnit (d : Device) (u : UnitId) : Device :=
  d.modUnit u (fun r =>
    { r with
      latch := r.latch || d.mounted u
      protect := r.protect && !d.mounted u
      lost := r.lost || d.carries u })

/-- R148: the unit that the CARD_REMOVED report names. -/
def Device.removedUnit (d : Device) : Option UnitId :=
  if d.unsavedCount .u0 != 0 then (if d.unsavedCount .u1 != 0 then none else some .u0)
  else if d.unsavedCount .u1 != 0 then some .u1 else none

/-- R148: the report of a removal, made when a unit had an image or a pending change. -/
def Device.reportRemoval (d before : Device) : Device :=
  if before.carries .u0 || before.carries .u1 then
    d.report { cls := .uncorrected, cause := .cardRemoved, op := .flush, unit := before.removedUnit
               track := none, block := none }
  else d

/-- R147 f and R57 b: the command in execution that waits on the card ends. -/
def Device.endCommandAbsent (d : Device) : Device :=
  match d.port.engine with
  | .executing (.mount _) | .executing (.readBlocks _ _) | .executing (.writeBlocks _ _)
  | .executing .cardReset => d.finishCommand .failed .cardAbsent
  | .executing (.sectors _) | .executing (.flush _) => d.finishCommand .displaced .cardAbsent
  | .idle | .result _ => d

/-- R146: the Card Controller at a removal. Its requesters give up their work in the same event. -/
def Device.emptyCard (d : Device) : Device := { d with card := CardRecord.reset, news := [] }

/-- R96: the pool at a removal. -/
def Device.emptyPool (d : Device) : Device :=
  let d1 := d.freeAll bufferIds
  { d1 with pool := { d1.pool with queue := [], waits := [] } }

/-- R147 b: the Image Map at a removal. -/
def Device.emptyImages (d : Device) : Device :=
  { d with images := ⟨none, none⟩
           windows := ⟨ExtentWindow.empty ChainPos.zero, ExtentWindow.empty ChainPos.zero⟩ }

/-- R162: the Mount Sequencer at a removal; an OPEN group stays open. -/
def Sequencer.lose (q : Sequencer) : Sequencer :=
  { pending := ⟨none, none⟩, group := q.group.map (fun _ => ⟨Change.empty, Change.empty⟩) }

/-- R146 and R147: the removal event. -/
def Device.removal (d : Device) : Device :=
  let d1 := ((d.loseUnit .u0).loseUnit .u1).emptyCard.emptyPool.emptyImages
  let d2 := { d1 with captures := ⟨none, none⟩, seq := d1.seq.lose }
  let d3 := Device.finishSlot d (d2.closeSection .u0) .u0
  ((Device.finishSlot d (d3.closeSection .u1) .u1).endCommandAbsent).reportRemoval d

/-- R146: card detect is released; in ABSENT this changes nothing more. -/
def Device.onCardRemove (d : Device) : Device :=
  let d1 := { d with lines := { d.lines with cardDetect := false } }
  if d.card.state = .absent then d1 else d1.removal

/-- CARD_DETECT_RELEASE. -/
def execCardDetectRelease (s : State) : Host.Outcome State Fault Refusal := s.run Device.onCardRemove

end Sys2Proof.Machine
end

