-- ==== Sys2Proof/Machine/WriteBack.lean ====
section
/-!
DEFINITION. The write-back events (R89 to R91).
-/

namespace Sys2Proof.Machine

/-- R90 and R91: a flush of the unit starts, when its conditions hold. -/
def Device.onFlushStart (d : Device) (u : UnitId) : Device :=
  match d.flushReady u with
  | some i => d.startFlush i
  | none => d

/-- FLUSH_START. -/
def execFlushStart (u : UnitId) (s : State) : Host.Outcome State Fault Refusal :=
  s.run (fun d => d.onFlushStart u)

/-- R89: time runs to the dirty-since expiry of a buffer, and the buffer joins the queue when it is DIRTY. -/
def Device.onDirtyExpiry (d : Device) (i : Nat) : Device :=
  match (d.buf i).dirtySince with
  | some t => (d.advance (t + Config.dirtyExpiry - d.now)).joinQueue i
  | none => d

/-- DIRTY_SINCE_EXPIRY. -/
def execDirtySinceExpiry (buffer : Fin 8) (s : State) : Host.Outcome State Fault Refusal :=
  s.run (fun d => d.onDirtyExpiry buffer.val)

end Sys2Proof.Machine
end

