-- ==== Sys2Proof/Machine/Mounting.lean ====
section
/-!
DEFINITION. The Mount Sequencer (chapter 8): the application of pending changes, and MOUNT, EJECT, SET_PROTECT,
HOLD, RELEASE and DISCARD.
-/

namespace Sys2Proof.Machine

/-! ### The application of a pending change (R159) -/

/-- R159: a pending change applies when the unit is clear at its moment. At a revolution start that is due, ahead of
its REVOLUTION_START step, the application uses that start. -/
def Device.onApply (d : Device) (u : UnitId) : Device :=
  match d.seq.pending.get u with
  | some c =>
    if (d.units.get u).applyMoment && d.unitClear u then
      (d.applyChange u c).modUnit u (fun r => { r with startUsed := r.motor })
    else d
  | none => d

/-- PENDING_CHANGE_APPLY. -/
def execPendingChangeApply (u : UnitId) (s : State) : Host.Outcome State Fault Refusal :=
  s.run (fun d => d.onApply u)

/-! ### MOUNT (R152) -/

/-- The unit has a pending change. -/
def Device.hasPending (d : Device) (u : UnitId) : Bool := (d.seq.pending.get u).isSome

/-- R152: MOUNT is judged, and its validation begins. -/
def Device.judgeMount (d : Device) (unit : Byte) (header : Nat) (protect : Byte) : Device :=
  match unitParam unit, flagParam protect with
  | some u, some p =>
    if !(d.units.get u).enabled then d.refuse 0x20 .unitDisabled
    else if d.banks.offline then d.refuse 0x20 .offline
    else if d.card.state ≠ .ready then d.refuse 0x20 .cardState
    else if d.hasPending u then d.refuse 0x20 .pending
    else d.startMount u header p
  | _, _ => d.refuse 0x20 .range

/-- MOUNT. -/
def execMount (unit : Byte) (header : BitVec 32) (protect : Byte) (s : State) :
    Host.Outcome State Fault Refusal :=
  s.run (fun d => d.onCommand (fun x => x.judgeMount unit header.toNat protect))

/-! ### EJECT (R153) -/

/-- The image part is a MOUNT. -/
def Change.mounts (c : Change) : Bool := c.record?.isSome

/-- R153 d to f: EJECT with the group OPEN. -/
def Device.stageEject (d : Device) (u : UnitId) : Device :=
  if d.mounted u then
    (d.setStaged u { d.staged u with image := some .eject }).finish 0x21 .done .staged []
  else if (d.staged u).mounts then (d.setStaged u Change.empty).finish 0x21 .done .staged []
  else d.refuse 0x21 .notMounted

/-- R153 c and g: EJECT with the group CLOSED. -/
def Device.placeEject (d : Device) (u : UnitId) : Device :=
  if d.mounted u then
    (d.placeChange u { image := some .eject, protect := none }).finish 0x21 .done .pending []
  else d.refuse 0x21 .notMounted

/-- R153: EJECT is judged. -/
def Device.judgeEject (d : Device) (unit : Byte) : Device :=
  match unitParam unit with
  | some u =>
    if d.hasPending u then d.refuse 0x21 .pending
    else if d.seq.group.isSome then d.stageEject u
    else d.placeEject u
  | none => d.refuse 0x21 .range

/-- EJECT. -/
def execEject (unit : Byte) (s : State) : Host.Outcome State Fault Refusal :=
  s.run (fun d => d.onCommand (fun x => x.judgeEject unit))

/-! ### SET_PROTECT (R154) -/

/-- R154: the image the unit will have once its staged record is applied. -/
def Device.stagedImage (d : Device) (u : UnitId) : Option MountRecord :=
  match (d.staged u).image with
  | some (.mount m _) => some m
  | some .eject => none
  | none => d.images.get u

/-- R154 a, b, d, e: a value is judged against an image. -/
def Device.judgeValue (d : Device) (m : Option MountRecord) (v : Bool) (f : Device → Device) : Device :=
  match m with
  | some m => if !v && m.readOnly then d.refuse 0x22 .readOnly else f d
  | none => d.refuse 0x22 .notMounted

/-- R154: SET_PROTECT is judged. -/
def Device.judgeProtect (d : Device) (unit value : Byte) : Device :=
  match unitParam unit, flagParam value with
  | some u, some v =>
    if d.seq.group.isSome then
      d.judgeValue (d.stagedImage u) v (fun x =>
        (x.setStaged u { x.staged u with protect := some v }).finish 0x22 .done .staged [])
    else
      d.judgeValue (d.images.get u) v (fun x =>
        (x.modUnit u (fun r => { r with protect := v })).done 0x22)
  | _, _ => d.refuse 0x22 .range

/-- SET_PROTECT. -/
def execSetProtect (unit value : Byte) (s : State) : Host.Outcome State Fault Refusal :=
  s.run (fun d => d.onCommand (fun x => x.judgeProtect unit value))

/-! ### HOLD, RELEASE, DISCARD (R155 to R157) -/

/-- The staged group set. -/
def Device.setGroup (d : Device) (g : Option (PerUnit Change)) : Device :=
  { d with seq := { d.seq with group := g } }

/-- R155: HOLD is judged. -/
def Device.judgeHold (d : Device) : Device :=
  if d.seq.group.isSome then d.refuse 0x23 .groupState
  else (d.setGroup (some ⟨Change.empty, Change.empty⟩)).done 0x23

/-- HOLD. -/
def execHold (s : State) : Host.Outcome State Fault Refusal := s.run (fun d => d.onCommand Device.judgeHold)

/-- R156 b: the unit has a staged record that is not empty and a pending change. -/
def Device.releaseBlocked (d : Device) (g : PerUnit Change) (u : UnitId) : Bool :=
  !(g.get u).isEmpty && d.hasPending u

/-- R156: the staged record of a unit is placed, unless it is empty. -/
def Device.placeStaged (d : Device) (g : PerUnit Change) (u : UnitId) : Device :=
  if (g.get u).isEmpty then d else d.placeChange u (g.get u)

/-- R156: RELEASE is judged. -/
def Device.judgeRelease (d : Device) : Device :=
  match d.seq.group with
  | none => d.refuse 0x24 .groupState
  | some g =>
    if d.releaseBlocked g .u0 || d.releaseBlocked g .u1 then d.refuse 0x24 .pending
    else (((d.placeStaged g .u0).placeStaged g .u1).setGroup none).done 0x24

/-- RELEASE. -/
def execRelease (s : State) : Host.Outcome State Fault Refusal :=
  s.run (fun d => d.onCommand Device.judgeRelease)

/-- R157: DISCARD is judged. -/
def Device.judgeDiscard (d : Device) : Device :=
  if d.seq.group.isSome then (d.setGroup none).done 0x25 else d.refuse 0x25 .groupState

/-- DISCARD. -/
def execDiscard (s : State) : Host.Outcome State Fault Refusal :=
  s.run (fun d => d.onCommand Device.judgeDiscard)

end Sys2Proof.Machine
end

