-- ==== Sys2Proof/Machine/Frames.lean ====
section
/-!
DEFINITION. The frames of the Loader Port that carry no command (R164, R165, R168 to R171), and the COMMAND frames
that are dropped or name no command (R166).
-/

namespace Sys2Proof.Machine

/-! ### RESULT, CURSOR, DATA_IN, DATA_OUT -/

/-- R168: a RESULT frame from which `n` bytes are clocked out after the Port Status. -/
def Device.onResultFrame (d : Device) (n : Nat) : Device :=
  let d1 := d.openFrame
  match d1.port.engine with
  | .result r =>
    let d2 := d1.sendOut (bytesAt r.frame 0 n)
    if r.frame.length ≤ n then { d2 with port := { d2.port with engine := .idle } } else d2
  | .idle | .executing _ => d1.sendOut (List.replicate n 0)

/-- RESULT_FRAME. -/
def execResultFrame (bytesOut : Nat) (s : State) : Host.Outcome State Fault Refusal :=
  s.run (fun d => d.onResultFrame bytesOut)

/-- The cursor set. -/
def Device.setCursor (d : Device) (n : Nat) : Device := { d with port := { d.port with cursor := n } }

/-- R169: a CURSOR frame with the bytes taken after its type byte. -/
def Device.onCursorFrame (d : Device) (bs : List Byte) : Device :=
  let d1 := d.openFrame
  match bs with
  | hi :: lo :: _ =>
    let v := hi.toNat * 256 + lo.toNat
    if Config.windowSize < v then (d1.setCursor Config.windowSize).fault else d1.setCursor v
  | _ => d1.fault

/-- CURSOR_FRAME. -/
def execCursorFrame (bytesIn : List Byte) (s : State) : Host.Outcome State Fault Refusal :=
  s.run (fun d => d.onCursorFrame bytesIn)

/-- How many bytes the window still takes or gives from the cursor. -/
def LoaderPort.room (p : LoaderPort) : Nat := Config.windowSize - p.cursor

/-- The cursor after `n` bytes, with the frame fault of a byte reached at its end (R170). -/
def Device.moveCursor (d : Device) (n : Nat) : Device :=
  let room := d.port.room
  let d1 := d.setCursor (d.port.cursor + min n room)
  if room < n then d1.fault else d1

/-- R170: a DATA_IN frame with the bytes taken after its type byte. -/
def Device.onDataIn (d : Device) (bs : List Byte) : Device :=
  let d1 := d.openFrame
  if d1.port.engine.busy then d1.fault
  else
    let d2 := { d1 with port :=
      { d1.port with window := d1.port.window.write d1.port.cursor (bs.take d1.port.room) } }
    d2.moveCursor bs.length

/-- DATA_IN_FRAME. -/
def execDataInFrame (bytesIn : List Byte) (s : State) : Host.Outcome State Fault Refusal :=
  s.run (fun d => d.onDataIn bytesIn)

/-- R170: a DATA_OUT frame from which `n` bytes are clocked out after the Port Status. -/
def Device.onDataOut (d : Device) (n : Nat) : Device :=
  let d1 := d.openFrame
  if d1.port.engine.busy then (d1.sendOut (List.replicate n 0)).fault
  else
    let room := d1.port.room
    (d1.sendOut (d1.port.window.readRange d1.port.cursor (min n room)
      ++ List.replicate (n - room) 0)).moveCursor n

/-- DATA_OUT_FRAME. -/
def execDataOutFrame (bytesOut : Nat) (s : State) : Host.Outcome State Fault Refusal :=
  s.run (fun d => d.onDataOut bytesOut)

/-! ### PORT_RESET (R171) -/

/-- R171 a: the command in execution is abandoned; its request is withdrawn (R137, R57 c). -/
def Device.abandonCommand (d : Device) : Device :=
  match d.port.engine with
  | .executing (.mount _) | .executing (.readBlocks _ _) | .executing (.writeBlocks _ _) =>
    d.withdraw .engine
  | .executing (.sectors _) | .executing (.flush _) | .executing .cardReset | .idle | .result _ => d

/-- R171 b, c: the engine is IDLE, the cursor 0 and the frame-fault flag clear. -/
def Device.resetPort (d : Device) : Device :=
  { d with port := { d.port with engine := .idle, cursor := 0, frameFault := false } }

/-- R171: a PORT_RESET frame. -/
def Device.onPortReset (d : Device) : Device := (d.openFrame.abandonCommand.resetPort).setGroup none

/-- PORT_RESET. -/
def execPortReset (s : State) : Host.Outcome State Fault Refusal := s.run Device.onPortReset

/-! ### Frames that are dropped -/

/-- R164 c: a type byte that names no frame type. -/
def Device.onUnknownFrame (d : Device) (frameType : Byte) (later : Nat) : Device :=
  if frameTypes.contains frameType then d
  else (d.openFrame.sendOut (List.replicate later 0)).fault

/-- UNKNOWN_FRAME_TYPE. -/
def execUnknownFrameType (frameType : Byte) (laterBytes : Nat) (s : State) :
    Host.Outcome State Fault Refusal :=
  s.run (fun d => d.onUnknownFrame frameType laterBytes)

/-- R166 a, b: a COMMAND frame whose code names no command. -/
def Device.onInvalidCommand (d : Device) (code : Byte) : Device :=
  if commandCodes.contains code then d
  else d.onCommand (fun x => x.refuse code .invalidCommand)

/-- INVALID_COMMAND. -/
def execInvalidCommand (code : Byte) (s : State) : Host.Outcome State Fault Refusal :=
  s.run (fun d => d.onInvalidCommand code)

/-- R166 a, c: a COMMAND frame that is dropped. -/
def Device.onDroppedCommand (d : Device) : Device := d.openFrame.fault

/-- COMMAND_FRAME_DROPPED. -/
def execCommandFrameDropped (s : State) : Host.Outcome State Fault Refusal :=
  s.run Device.onDroppedCommand

end Sys2Proof.Machine
end

