-- ==== Sys2Proof/Machine/Commands.lean ====
section
/-!
DEFINITION. The other commands of the Loader Port: CONFIGURE_UNIT, SET_INTERRUPT_MASK, the sector and block
commands, FLUSH, UNIT_STATUS, CARD_RESET and the bank commands (R22, R23, R46, R149, R172 to R178,
R183, R189, R190).
-/

namespace Sys2Proof.Machine

/-! ### CONFIGURE_UNIT (R22, R23) -/

/-- The four configuration fields. -/
structure UnitConfig where
  enabled : Bool
  select  : SelectLine
  motor   : MotorSource
  mode    : LineMode
  deriving DecidableEq, Repr

/-- R22 a: the configuration of the parameter bytes. -/
def configParams (enabled select motor mode : Byte) : Option UnitConfig := do
  let e ← flagParam enabled
  let s ← selectParam select
  let m ← motorParam motor
  let l ← modeParam mode
  pure { enabled := e, select := s, motor := m, mode := l }

/-- A unit's record with a configuration. -/
def UnitRecord.configured (r : UnitRecord) (c : UnitConfig) : UnitRecord :=
  { r with enabled := c.enabled, selectLine := c.select, motorSource := c.motor, lineMode := c.mode }

/-- R22 b: the unit carries an image, a pending change or a staged record that is not empty. -/
def Device.occupied (d : Device) (u : UnitId) : Bool := d.carries u || !(d.staged u).isEmpty

/-- R22 c: both units would be enabled on the same select line. -/
def Device.lineTaken (d : Device) (u : UnitId) (c : UnitConfig) : Bool :=
  c.enabled && (d.units.get u.other).enabled && (d.units.get u.other).selectLine == c.select

/-- R22 d and R23: a unit takes a configuration and is evaluated again. -/
def Device.configure (d : Device) (u : UnitId) (c : UnitConfig) : Device :=
  d.followLines (fun x => x.modUnit u (fun r => r.configured c))

/-- R22: CONFIGURE_UNIT is judged. -/
def Device.judgeConfigure (d : Device) (unit enabled select motor mode : Byte) : Device :=
  match unitParam unit, configParams enabled select motor mode with
  | some u, some c =>
    if d.occupied u then d.refuse 0x10 .mounted
    else if d.lineTaken u c then d.refuse 0x10 .range
    else (d.configure u c).done 0x10
  | _, _ => d.refuse 0x10 .range

/-- CONFIGURE_UNIT. -/
def execConfigureUnit (unit enabled select motor mode : Byte) (s : State) :
    Host.Outcome State Fault Refusal :=
  s.run (fun d => d.onCommand (fun x => x.judgeConfigure unit enabled select motor mode))

/-! ### SET_INTERRUPT_MASK (R172) -/

/-- R172: SET_INTERRUPT_MASK is judged. -/
def Device.judgeMask (d : Device) (mask : Byte) : Device :=
  match maskParam mask with
  | some m => { d with port := { d.port with mask := m } }.done 0x11
  | none => d.refuse 0x11 .range

/-- SET_INTERRUPT_MASK. -/
def execSetInterruptMask (mask : Byte) (s : State) : Host.Outcome State Fault Refusal :=
  s.run (fun d => d.onCommand (fun x => x.judgeMask mask))

/-! ### Sector commands (R173) -/

/-- WRITE_SECTORS on a read-only image (R173 d). -/
def SectorOp.writes : SectorOp → Bool
  | .write _ => true
  | .read | .verify => false

/-- R173 e: the sectors named are more than the window holds. -/
def Device.tooLong (d : Device) (c : SectorCmd) : Bool :=
  match d.formatOf c.key with
  | some f => decide (Config.windowSize < c.count * f.dataLen)
  | none => false

/-- R173: a sector command with its parameters in their fields is judged, and served when it passes. DESIGN CHOICE: R112
says that writes from the loader go on changing the buffers while OFFLINE, and R173 b, R187 d and R188 d refuse or displace
WRITE_SECTORS there; the model follows the latter (notes/assumptions/46.md). -/
def Device.judgeSectors (d : Device) (c : SectorCmd) : Device :=
  let code := Command.code (.sectors c)
  if 256 ≤ c.first + c.count - 1 then d.refuse code .range
  else if d.banks.offline then d.refuse code .offline
  else if !d.mounted c.key.unit then d.refuse code .notMounted
  else if c.op.writes && d.readOnlyImage c.key.unit then d.refuse code .readOnly
  else if d.tooLong c then d.refuse code .range
  else if (d.formatOf c.key).isNone then d.finish code .failed .noSector []
  else d.serveSectors c

/-- READ_SECTORS. -/
def execReadSectors (unit cylinder head first count : Byte) (s : State) :
    Host.Outcome State Fault Refusal :=
  s.run (fun d => d.onCommand (fun x =>
    match sectorParams .read unit cylinder head first count with
    | some c => x.judgeSectors c
    | none => x.refuse 0x30 .range))

/-- WRITE_SECTORS: the mark option 0 is NORMAL, 1 is DELETED (R180). -/
def execWriteSectors (unit cylinder head first count mark : Byte) (s : State) :
    Host.Outcome State Fault Refusal :=
  s.run (fun d => d.onCommand (fun x =>
    match (flagParam mark).bind (fun m => sectorParams (.write m) unit cylinder head first count) with
    | some c => x.judgeSectors c
    | none => x.refuse 0x31 .range))

/-- VERIFY_SECTORS. -/
def execVerifySectors (unit cylinder head first count : Byte) (s : State) :
    Host.Outcome State Fault Refusal :=
  s.run (fun d => d.onCommand (fun x =>
    match sectorParams .verify unit cylinder head first count with
    | some c => x.judgeSectors c
    | none => x.refuse 0x32 .range))

/-! ### Block commands (R176) -/

/-- R176 a, b: the run of a block command is refused, with its detail. -/
def Device.blocksRefusal (d : Device) (block count : Nat) : Option Detail :=
  if d.card.state ≠ .ready then some .cardState
  else if d.capacity ≤ block + count - 1 then some .range
  else none

/-- R176: READ_BLOCKS is judged. -/
def Device.judgeReadBlocks (d : Device) (block : Nat) (count : Byte) : Device :=
  match blockCountParam count with
  | none => d.refuse 0x40 .range
  | some n =>
    match d.blocksRefusal block n with
    | some detail => d.refuse 0x40 detail
    | none => (d.execute (.readBlocks block n)).requestBlocks .read block n

/-- READ_BLOCKS. -/
def execReadBlocks (block : BitVec 32) (count : Byte) (s : State) : Host.Outcome State Fault Refusal :=
  s.run (fun d => d.onCommand (fun x => x.judgeReadBlocks block.toNat count))

/-- R176: WRITE_BLOCKS is judged. -/
def Device.judgeWriteBlocks (d : Device) (block : Nat) (count : Byte) : Device :=
  match blockCountParam count with
  | none => d.refuse 0x41 .range
  | some n =>
    match d.blocksRefusal block n with
    | some detail => d.refuse 0x41 detail
    | none =>
      if d.protectedArea block n then d.refuse 0x41 .protectedArea
      else (d.execute (.writeBlocks block n)).requestBlocks .write block n

/-- WRITE_BLOCKS. -/
def execWriteBlocks (block : BitVec 32) (count : Byte) (s : State) : Host.Outcome State Fault Refusal :=
  s.run (fun d => d.onCommand (fun x => x.judgeWriteBlocks block.toNat count))

/-! ### FLUSH (R177) -/

/-- R177: FLUSH is judged. -/
def Device.judgeFlush (d : Device) (selector : Byte) : Device :=
  match flushParam selector with
  | none => d.refuse 0x33 .range
  | some sel =>
    if d.flushHolds sel then d.done 0x33
    else if d.card.state ≠ .ready then d.refuse 0x33 .cardState
    else ((d.execute (.flush sel)).flushUnit sel .u0).flushUnit sel .u1

/-- FLUSH. -/
def execFlush (selector : Byte) (s : State) : Host.Outcome State Fault Refusal :=
  s.run (fun d => d.onCommand (fun x => x.judgeFlush selector))

/-! ### UNIT_STATUS (R43, R46) -/

/-- R43: the unit's events are cleared. -/
def UnitRecord.clearEvents (r : UnitRecord) : UnitRecord := { r with applied := false, lost := false }

/-- R46: UNIT_STATUS returns a unit's state and clears its events. -/
def Device.judgeStatus (d : Device) (unit : Byte) : Device :=
  match unitParam unit with
  | some u => (d.modUnit u UnitRecord.clearEvents).finish 0x50 .done .none (d.unitStatusBytes u)
  | none => d.refuse 0x50 .range

/-- UNIT_STATUS. -/
def execUnitStatus (unit : Byte) (s : State) : Host.Outcome State Fault Refusal :=
  s.run (fun d => d.onCommand (fun x => x.judgeStatus unit))

/-! ### CARD_RESET (R149) -/

/-- R149: a CARD_RESET that has been taken waits for the run in flight and its retry, or begins initialization. -/
def Device.startCardReset (d : Device) : Device :=
  let d1 := d.execute .cardReset
  if d1.card.run.isSome || d1.card.retry.isSome then { d1 with card := { d1.card with resetWaits := true } } else d1.beginInit

/-- R149: CARD_RESET is judged. -/
def Device.judgeCardReset (d : Device) : Device :=
  if d.carries .u0 || d.carries .u1 then d.refuse 0x42 .mounted
  else if d.card.state = .absent ∨ d.card.state = .initializing then d.refuse 0x42 .cardState
  else d.startCardReset

/-- CARD_RESET. -/
def execCardReset (s : State) : Host.Outcome State Fault Refusal :=
  s.run (fun d => d.onCommand Device.judgeCardReset)

/-! ### Bank commands (R178, R183, R189, R190) -/

/-- R178 a and R189: READ_BANK is judged. -/
def Device.judgeReadBank (d : Device) (bank : Byte) : Device :=
  match bankParam bank with
  | some i => d.finish 0x60 .done .none (d.banks.get i).resultBytes
  | none => d.refuse 0x60 .range

/-- READ_BANK. -/
def execReadBank (bank : Byte) (s : State) : Host.Outcome State Fault Refusal :=
  s.run (fun d => d.onCommand (fun x => x.judgeReadBank bank))

/-- R189: the named banks are emptied. -/
def FaultBanks.clearAll (b : FaultBanks) (is : List BankId) : FaultBanks :=
  is.foldl (fun x i => x.set i (x.get i).clear) b

/-- R178 b and R189: CLEAR_BANK is judged. -/
def Device.judgeClearBank (d : Device) (bank : Byte) : Device :=
  match bankSelectParam bank with
  | some is => { d with banks := d.banks.clearAll is }.done 0x61
  | none => d.refuse 0x61 .range

/-- CLEAR_BANK. -/
def execClearBank (bank : Byte) (s : State) : Host.Outcome State Fault Refusal :=
  s.run (fun d => d.onCommand (fun x => x.judgeClearBank bank))

/-- R178 c and R183: SET_BANK_ENABLE is judged. -/
def Device.judgeBankEnable (d : Device) (bank cause enable : Byte) : Device :=
  match bankParam bank, flagParam enable with
  | some i, some v =>
    match causeParam i cause with
    | some c => { d with banks := d.banks.set i ((d.banks.get i).setEnable c v) }.done 0x62
    | none => d.refuse 0x62 .range
  | _, _ => d.refuse 0x62 .range

/-- SET_BANK_ENABLE. -/
def execSetBankEnable (bank cause enable : Byte) (s : State) : Host.Outcome State Fault Refusal :=
  s.run (fun d => d.onCommand (fun x => x.judgeBankEnable bank cause enable))

/-- R42 d: the disk-change latch is set. -/
def UnitRecord.setLatch (r : UnitRecord) : UnitRecord := { r with latch := true }

/-- R190: FIP and OFFLINE are cleared and both latches set. -/
def Device.resume (d : Device) : Device :=
  let d1 := (d.modUnit .u0 UnitRecord.setLatch).modUnit .u1 UnitRecord.setLatch
  { d1 with banks := { d1.banks with fip := false, offline := false } }

/-- RESUME. -/
def execResume (s : State) : Host.Outcome State Fault Refusal :=
  s.run (fun d => d.onCommand (fun x => x.resume.done 0x63))

end Sys2Proof.Machine
end

