-- ==== Sys2Proof/Machine/Clock.lean ====
section
/-!
DEFINITION. What the part does by itself while no command waits: the step of its own that is due, or one
microsecond passes (a choice of the model: notes/assumptions/3.md).
-/

namespace Sys2Proof.Machine

/-- A step when a condition holds. -/
def due (c : Bool) (f : Device → Device) : Option (Device → Device) := if c then some f else none

/-- R159: a pending change of the unit applies now. -/
def Device.applyDue (d : Device) (u : UnitId) : Bool :=
  d.hasPending u && (d.units.get u).applyMoment && d.unitClear u

/-- R28: the unit's spin-up has come to its end. -/
def Device.speedDue (d : Device) (u : UnitId) : Bool :=
  (d.units.get u).motor && decide ((d.units.get u).spinUp = some Config.spinUpTime)

/-- R141 c: the run in flight has used its time. -/
def Device.timeoutDue (d : Device) : Bool :=
  match d.card.run with
  | some r => decide (r.granted + Config.runLimit ≤ d.now)
  | none => false

/-- R89: the expiry of a DIRTY buffer that is not queued has come. -/
def Device.expiryDue (d : Device) (i : Nat) : Bool :=
  (d.buf i).expired d.now && (d.buf i).state == .dirty && !d.pool.queue.contains i

/-- A slot of the selected unit's stream begins now. -/
def Device.slotDue (d : Device) : Bool :=
  match d.selected with
  | some u => (d.nextSlot u).1 == 0
  | none => false

/-- The steps of the part's own that are due, in the order in which the model takes them. -/
def Device.dueSteps (d : Device) : List (Option (Device → Device)) :=
  [ due d.canGrant Device.onGrant,
    due (d.flushReady .u0).isSome (fun x => x.onFlushStart .u0),
    due (d.flushReady .u1).isSome (fun x => x.onFlushStart .u1),
    due (d.applyDue .u0) (fun x => x.onApply .u0),
    due (d.applyDue .u1) (fun x => x.onApply .u1),
    due (d.speedDue .u0) (fun x => x.onAtSpeed .u0),
    due (d.speedDue .u1) (fun x => x.onAtSpeed .u1),
    due (decide (0 < d.units.u0.revDue)) (fun x => x.onRevolution .u0),
    due (decide (0 < d.units.u1.revDue)) (fun x => x.onRevolution .u1),
    due (d.card.initTime == some Config.initLimit) Device.onInitTimeout,
    due d.timeoutDue Device.onRunTimeout,
    (bufferIds.find? d.expiryDue).map (fun i x => x.onDirtyExpiry i),
    due d.slotDue Device.onReadSlot ]

/-- The step of the part's own that is due, or the passing of one microsecond. -/
def Device.tick (d : Device) : Device :=
  match d.dueSteps.findSome? id with
  | some f => f d
  | none => d.advance 1

end Sys2Proof.Machine
end

