-- ==== Sys2Proof/Machine/Dispatch.lean ====
section
/-!
DEFINITION. The meaning of every command, one arm for each constructor of Instr.
-/

namespace Sys2Proof.Machine

def exec (i : Instr) (s : State) : Host.Outcome State Fault Refusal :=
  match i with
  | .powerOn => Sys2Proof.Machine.execPowerOn s
  | .resetLine => Sys2Proof.Machine.execResetLine s
  | .selectLineChange line asserted => Sys2Proof.Machine.execSelectLineChange line asserted s
  | .motorLineChange line asserted => Sys2Proof.Machine.execMotorLineChange line asserted s
  | .atSpeed u => Sys2Proof.Machine.execAtSpeed u s
  | .revolutionStart u => Sys2Proof.Machine.execRevolutionStart u s
  | .indexPulseEnd => Sys2Proof.Machine.execIndexPulseEnd s
  | .stepPulse inward => Sys2Proof.Machine.execStepPulse inward s
  | .sideChange asserted => Sys2Proof.Machine.execSideChange asserted s
  | .writeGateAssert => Sys2Proof.Machine.execWriteGateAssert s
  | .writeDataByte byte wire brokenClock => Sys2Proof.Machine.execWriteDataByte byte wire brokenClock s
  | .writeGateRelease => Sys2Proof.Machine.execWriteGateRelease s
  | .readSlot => Sys2Proof.Machine.execReadSlot s
  | .cardDetectAssert => Sys2Proof.Machine.execCardDetectAssert s
  | .cardInitAnswer capacity => Sys2Proof.Machine.execCardInitAnswer capacity s
  | .cardInitTimeout => Sys2Proof.Machine.execCardInitTimeout s
  | .cardDetectRelease => Sys2Proof.Machine.execCardDetectRelease s
  | .runGrant => Sys2Proof.Machine.execRunGrant s
  | .runEnd answer => Sys2Proof.Machine.execRunEnd answer s
  | .runTimeout => Sys2Proof.Machine.execRunTimeout s
  | .flushStart u => Sys2Proof.Machine.execFlushStart u s
  | .dirtySinceExpiry buffer => Sys2Proof.Machine.execDirtySinceExpiry buffer s
  | .pendingChangeApply u => Sys2Proof.Machine.execPendingChangeApply u s
  | .resultFrame bytesOut => Sys2Proof.Machine.execResultFrame bytesOut s
  | .cursorFrame bytesIn => Sys2Proof.Machine.execCursorFrame bytesIn s
  | .dataInFrame bytesIn => Sys2Proof.Machine.execDataInFrame bytesIn s
  | .dataOutFrame bytesOut => Sys2Proof.Machine.execDataOutFrame bytesOut s
  | .portReset => Sys2Proof.Machine.execPortReset s
  | .unknownFrameType frameType laterBytes => Sys2Proof.Machine.execUnknownFrameType frameType laterBytes s
  | .invalidCommand code => Sys2Proof.Machine.execInvalidCommand code s
  | .configureUnit unit enabled select motor mode => Sys2Proof.Machine.execConfigureUnit unit enabled select motor mode s
  | .setInterruptMask mask => Sys2Proof.Machine.execSetInterruptMask mask s
  | .mount unit header protect => Sys2Proof.Machine.execMount unit header protect s
  | .eject unit => Sys2Proof.Machine.execEject unit s
  | .setProtect unit value => Sys2Proof.Machine.execSetProtect unit value s
  | .hold => Sys2Proof.Machine.execHold s
  | .release => Sys2Proof.Machine.execRelease s
  | .discard => Sys2Proof.Machine.execDiscard s
  | .readSectors unit cylinder head first count => Sys2Proof.Machine.execReadSectors unit cylinder head first count s
  | .writeSectors unit cylinder head first count mark => Sys2Proof.Machine.execWriteSectors unit cylinder head first count mark s
  | .verifySectors unit cylinder head first count => Sys2Proof.Machine.execVerifySectors unit cylinder head first count s
  | .readBlocks block count => Sys2Proof.Machine.execReadBlocks block count s
  | .writeBlocks block count => Sys2Proof.Machine.execWriteBlocks block count s
  | .flush selector => Sys2Proof.Machine.execFlush selector s
  | .unitStatus unit => Sys2Proof.Machine.execUnitStatus unit s
  | .cardReset => Sys2Proof.Machine.execCardReset s
  | .readBank bank => Sys2Proof.Machine.execReadBank bank s
  | .clearBank bank => Sys2Proof.Machine.execClearBank bank s
  | .setBankEnable bank cause enable => Sys2Proof.Machine.execSetBankEnable bank cause enable s
  | .resume => Sys2Proof.Machine.execResume s
  | .commandFrameDropped => Sys2Proof.Machine.execCommandFrameDropped s

end Sys2Proof.Machine
end

