-- ==== Sys2Proof/Machine/Step.lean ====
section
/-!
DEFINITION. One step of the machine: the command at the front of the queue, or what the part does by itself.
-/

namespace Sys2Proof.Machine

/-- The machine with no command waiting: the step of the part's own that is due, or the passing of one microsecond
(notes/assumptions/3.md). -/
def idle (s : State) : Host.Outcome State Fault Refusal := s.run Device.tick

/-- One step: the command at the front of the queue is taken, and its effect made on the rest. -/
def step (s : State) : Host.Outcome State Fault Refusal :=
  match s.pending with
  | c :: rest => exec c { s with pending := rest }
  | [] => idle s

/-- The command that a table word spells, put at the front of the queue; the state unchanged where it spells none. -/
def State.withFetchWord (s : State) (nbits w : Nat) : State :=
  match decodeTableWord nbits w with
  | some c => { s with pending := c :: s.pending }
  | none => s

end Sys2Proof.Machine
end

