-- ==== Sys2Proof/Safety.lean ====
section
/-!
DEFINITION. What a safe run keeps, and the terms in which statements speak of a command's outcome: when nothing is
owed, what an outcome keeps of the effect that the rules give, and the answer of a frame.
-/

namespace Sys2Proof.Machine

/-! ### The outcome of a command -/

/-- Nothing is owed: no effect of an event still waits to be handed on (no run's outcome to tell, no fill, flush or
lookup that can go on, no wait list entry that can be served, no FLUSH that can end). -/
def Device.AtRest (d : Device) : Prop := d.micro = none

/-- What becomes of a capture: it stays, it ends, or it ends and is PENDING (R118, R119). No other one begins. -/
def CaptureEnds (a b : Option Capture) : Prop :=
  b = a ∨ b = none ∨ ∃ c, a = some c ∧ c.state = .capturing ∧ b = some { c with state := .pending }

/-- What of a mounted image no write to it changes: all of its record but the override table, the header copy and the
header's state (R58, R66). -/
def MountRecord.core (m : MountRecord) : MountRecord :=
  { m with geometry := { m.geometry with overrides := [] }, headerCopy := [], headerState := .clean
           reDirtied := false }

/-- What the part `t` after a step has of the part `e` that the command's own effect makes: the effects that follow
within the step move no line, no unit record, no time and no read data, mount and remove no image, begin no capture,
leave the run on the card and the DRIVE bank alone, and leave the Loader Port and the Mount Sequencer alone unless a
command is in execution. -/
structure Settles (e t : Device) : Prop where
  now : t.now = e.now
  lines : t.lines = e.lines
  units : t.units = e.units
  readData : t.readData = e.readData
  cursor : t.port.cursor = e.port.cursor
  frameFault : t.port.frameFault = e.port.frameFault
  mask : t.port.mask = e.port.mask
  frameOut : t.port.frameOut = e.port.frameOut
  idle : e.port.engine.busy = false → t.port = e.port ∧ t.seq = e.seq
  cardState : t.card.state = e.card.state
  capacity : t.card.capacity = e.card.capacity
  initTime : t.card.initTime = e.card.initTime
  run : t.card.run = e.card.run
  retry : t.card.retry = e.card.retry
  resetWaits : t.card.resetWaits = e.card.resetWaits
  enables : ∀ i, (t.banks.get i).enables = (e.banks.get i).enables
  drive : t.banks.drive = e.banks.drive
  mounted : ∀ u, t.mounted u = e.mounted u
  images : ∀ u, (t.images.get u).map MountRecord.core = (e.images.get u).map MountRecord.core
  captures : ∀ u, CaptureEnds (e.captures.get u) (t.captures.get u)

/-- A command answers a next state: the queue is kept, and the part `x`, with all that follows the event, has what
`Settles` says of `e`. The event ends with the test of R159, which applies a change that is pending on a clear unit
whose motor is not running (`Device.tested`), and leaves `x` as it is where there is none. -/
def Reaches (c : Instr) (s : State) (e : Device) : Prop :=
  ∃ t x, exec c s = .next t ∧ t.pending = s.pending ∧ t.dev = Device.tested x ∧ Settles e x

/-- A command answers a next state: the queue is kept, and the part that the test of R159 then takes is `e` with what
follows from it, and is `e` itself when nothing was owed before. -/
def Answers (c : Instr) (s : State) (e : Device) : Prop :=
  ∃ t x, exec c s = .next t ∧ t.pending = s.pending ∧ t.dev = Device.tested x ∧ Settles e x
    ∧ (s.dev.AtRest → x = e)

/-- A command answers a next state, and the part that the test of R159 then takes is `e` with what follows from it. -/
def Leads (c : Instr) (s : State) (e : Device) : Prop :=
  ∃ t, exec c s = .next t ∧ t.pending = s.pending ∧ t.dev = e.settled.tested ∧ Settles e e.settled

/-- The part after a frame that ends its command at once: Port Status out as it stood, the frame-fault flag
clear, and the result held. -/
def Device.answered (d : Device) (code : Byte) (cls : TermClass) (detail : Detail) (bytes : List Byte) :
    Device :=
  { d with port :=
      { d.port with
        engine := .result { cls := cls, detail := detail, code := code, bytes := bytes }
        frameOut := [d.portStatus], frameFault := false } }

/-- The part after a frame that ends in a frame fault and changes nothing else. -/
def Device.faulted (d : Device) (later : List Byte) : Device :=
  { d with port := { d.port with frameOut := d.portStatus :: later, frameFault := true } }

/-- The part after a frame that leaves a command in execution. -/
def Device.executing (d : Device) (c : Command) : Device :=
  { d with port := { d.port with engine := .executing c, frameOut := [d.portStatus], frameFault := false } }

/-! ### The lines evaluated (R23 to R29, R36, R45) -/

/-- R24, R27, R29, R36: a unit's record once the lines and configurations of `after` are evaluated, where the part
stood as `before`: a unit that becomes selected takes the level of the side input; a motor whose source
became asserted starts, with the phase and the spin-up time at 0; one whose source is no longer asserted
stops. -/
def Device.evaluated (before after : Device) (u : UnitId) : UnitRecord :=
  let r := after.units.get u
  let r1 :=
    if after.selected = some u ∧ before.selected ≠ some u then { r with side := after.lines.side } else r
  if after.motorAsserted u = r.motor then r1
  else if r.motor then
    { r1 with motor := false, atSpeed := false, spinUp := none, phase := 0, revDue := 0
              startUsed := false }
  else { r1 with motor := true, phase := 0, spinUp := some 0 }

/-- R24 to R29: the part once the lines and configurations of `after` are evaluated: the units, read data carrying
nothing of a unit that ceased to be selected, and a double selection that begins reported (R25 a). -/
def Device.evaluatedPart (before after : Device) : Device :=
  { after with
    units := ⟨before.evaluated after .u0, before.evaluated after .u1⟩
    readData :=
      if before.selected.isSome ∧ before.selected ≠ after.selected then none else after.readData
    banks :=
      if after.doubleSelect = true ∧ before.doubleSelect = false then
        { after.banks with
          drive := after.banks.drive.receive
            { cls := .note, cause := .doubleSelect, op := .drive, unit := none, track := none
              block := none } }
      else after.banks }

/-- The part after power-on or the reset line, with the banks that the reset leaves: everything at its reset value,
time and the input lines as they stand, and each asserted line taken as an event: Unit 0, which is
enabled on SEL0 with MOTA, may be selected and start its motor, and a card that is in is initialized. -/
def Device.afterReset (d : Device) (b : FaultBanks) : Device :=
  { Device.reset with
    now := d.now, freeCount := d.freeCount, lines := d.lines
    units := ⟨{ UnitRecord.reset .u0 with
                side := d.lines.sel0 && d.lines.side
                motor := d.lines.mota
                spinUp := if d.lines.mota then some 0 else none },
              UnitRecord.reset .u1⟩
    card :=
      if d.lines.cardDetect then
        { CardRecord.reset with state := .initializing, initTime := some 0 }
      else CardRecord.reset
    banks := b }

/-! ### What every step keeps -/

/-- R21, R28, R29, R34: a unit record. -/
structure UnitRecord.Good (r : UnitRecord) : Prop where
  cylinder : r.cylinder ≤ 83
  phase : r.phase < 200000
  stopped : r.motor = false → r.atSpeed = false ∧ r.phase = 0
  spinUp : r.spinUp.isSome = (r.motor && !r.atSpeed)
  spinTime : ∀ t, r.spinUp = some t → t ≤ 300000

/-- R134: the Card Controller's record. -/
structure CardRecord.Good (c : CardRecord) : Prop where
  capacity : c.capacity.isSome = (c.state == .ready)
  blocks : ∀ n, c.capacity = some n → 1 ≤ n ∧ n < 2 ^ 32
  initTime : c.initTime.isSome = (c.state == .initializing)
  initLimit : ∀ t, c.initTime = some t → t ≤ 1000000
  run : c.run.isSome = true → c.state = .ready ∧ c.retry = none
  retry : c.retry.isSome = true → c.state = .ready
  waits : c.resetWaits = true → c.run.isSome = true ∨ c.retry.isSome = true
  grants : c.grants ≤ 8

/-- R181, R182, R184: a bank. -/
structure Bank.Good (i : BankId) (b : Bank) : Prop where
  count : b.count ≤ 255
  overflow : b.overflow = true → b.record.isSome = true
  cause : ∀ r, b.record = some r → r.cause.bank = i

/-- R70, R73, R77, R88: the pool. -/
structure Pool.Good (p : Pool) : Prop where
  buffers : p.buffers.length = 8
  lru : p.lru.Nodup
  ordered : ∀ i < 8, i ∈ p.lru
  queue : p.queue.Nodup
  waits : p.waits.Nodup
  data : ∀ b ∈ p.buffers, b.data.wf = true

/-- Buffer `i` of a pool. -/
def Pool.buf (p : Pool) (i : Nat) : TrackBuffer := p.buffers.getD i TrackBuffer.free

/-- R70, R72, R77, R88: no two buffers outside FREE hold one key, each queued buffer is DIRTY, only a FILLING or a
FLUSHING buffer has work to do, and a key in the wait list is held by no buffer. -/
structure Pool.Held (p : Pool) : Prop where
  keys : ∀ i j k, (p.buf i).state ≠ .free → (p.buf j).state ≠ .free → (p.buf i).key = some k →
    (p.buf j).key = some k → i = j
  queue : ∀ i ∈ p.queue, (p.buf i).state = .dirty
  work : ∀ i, (p.buf i).work.isSome = true → (p.buf i).state = .filling ∨ (p.buf i).state = .flushing
  waits : ∀ k ∈ p.waits, ∀ i, (p.buf i).state ≠ .free → (p.buf i).key ≠ some k

/-- The causes that R182 gives to a bank. -/
def BankId.causes : BankId → Nat
  | .drive => 6
  | .track => 11
  | .map => 4
  | .card => 5

/-- What every step keeps. -/
structure Device.Inv (d : Device) : Prop where
  units : ∀ u, (d.units.get u).Good
  selectLines : d.units.u0.enabled = true → d.units.u1.enabled = true →
    d.units.u0.selectLine ≠ d.units.u1.selectLine
  card : d.card.Good
  banks : ∀ i, (d.banks.get i).Good i
  enables : ∀ i, (d.banks.get i).enables.length = i.causes
  offline : d.banks.offline = true → d.banks.fip = true
  cursor : d.port.cursor ≤ 8192
  window : d.port.window.wf = true
  pool : d.pool.Good
  held : d.pool.Held

end Sys2Proof.Machine
end

