-- ==== Sys2Proof/WellFormed.lean ====
section
/-!
DEFINITION. Which commands can come: a row whose name says that a code or a frame type is unknown carries one
that is. Every parameter byte can come; one outside its field is refused with RANGE when the command is
judged (R166 d).
-/

namespace Sys2Proof

/-- The bytes of a READ answer that the card sends are no more than 16 blocks (R134). -/
def CardAnswer.wf : CardAnswer → Bool
  | .complete data => decide (data.length ≤ 8192)
  | .badCheck | .error => true

/-- The command can come. -/
def Instr.wf : Instr → Bool
  | .unknownFrameType t _ => !frameTypes.contains t
  | .invalidCommand c => !commandCodes.contains c
  | .runEnd a => a.wf
  | .powerOn | .resetLine | .selectLineChange _ _ | .motorLineChange _ _ | .atSpeed _
  | .revolutionStart _ | .indexPulseEnd | .stepPulse _ | .sideChange _ | .writeGateAssert
  | .writeDataByte _ _ _ | .writeGateRelease | .readSlot | .cardDetectAssert | .cardInitAnswer _
  | .cardInitTimeout | .cardDetectRelease | .runGrant | .runTimeout | .flushStart _
  | .dirtySinceExpiry _ | .pendingChangeApply _ | .resultFrame _ | .cursorFrame _ | .dataInFrame _
  | .dataOutFrame _ | .portReset | .configureUnit _ _ _ _ _ | .setInterruptMask _ | .mount _ _ _
  | .eject _ | .setProtect _ _ | .hold | .release | .discard | .readSectors _ _ _ _ _
  | .writeSectors _ _ _ _ _ _ | .verifySectors _ _ _ _ _ | .readBlocks _ _ | .writeBlocks _ _
  | .flush _ | .unitStatus _ | .cardReset | .readBank _ | .clearBank _ | .setBankEnable _ _ _
  | .resume | .commandFrameDropped => true

end Sys2Proof
end

