-- ==== Sys2Proof/Certificates/Slice0/Obligations.lean ====
section
/-!
DEFINITION. The statements for the provers. `Answers c s e` (Sys2Proof/Safety.lean) says that command `c` answers a next
state whose part is `e`, exactly so when nothing was owed in `s`; `Reaches` says it of the units, the lines,
the time, read data, the run on the card, the DRIVE bank and, with no command in execution, of the Loader
Port and the Mount Sequencer; `Leads` adds that the part is `e` with the effects that follow from it. In all three the
test of R159 ends the event (`Device.tested`): it applies a change that is pending on a clear unit whose motor is not
running, and changes nothing otherwise (APendingChangeApplies).
-/

open Sys2Proof Sys2Proof.Machine

/-! ### The machine -/

/-- A step takes the command at the front of the queue and runs its meaning on the rest. -/
def Obligations.StepTakesTheFrontCommand : Prop :=
  ∀ (c : Instr) (rest : List Instr) (s : State), s.pending = c :: rest →
    step s = exec c { s with pending := rest }

/-- The model's choice (notes/assumptions/3.md): with no command waiting and no step of the part's own due, one
microsecond passes. R28, R30: what a stretch of time does to a unit: its phase advances and wraps, and each wrap after
the end of the spin-up time is a revolution start that is due, one that comes later in the same stretch among them. That
the spin-up time stays at 300,000 µs until AT_SPEED comes, and that later wraps are counted as starts that are due, is the
model's choice too (notes/assumptions/6.md). -/
def Obligations.AnIdleStepLetsTimePass : Prop :=
  (∀ s : State, s.pending = [] → (∀ f ∈ s.dev.dueSteps, f = none) →
    ∃ t x, step s = .next t ∧ t.pending = [] ∧ t.dev = Device.tested x ∧ Settles (s.dev.advance 1) x
      ∧ (s.dev.AtRest → x = s.dev.advance 1))
  ∧ ∀ (d : Device) (dt : Nat) (u : UnitId), 0 < dt →
    (d.advance dt).now = d.now + dt
    ∧ ((d.units.get u).motor = false → (d.advance dt).units.get u = d.units.get u)
    ∧ ((d.units.get u).motor = true →
      let r := d.units.get u
      let lead : Nat :=
        if r.atSpeed then 0
        else match r.spinUp with
          | some t => min dt (300000 - t)
          | none => dt
      (d.advance dt).units.get u =
        { r with
          phase := (r.phase + dt) % 200000
          spinUp := r.spinUp.map (fun t => min 300000 (t + dt))
          revDue := r.revDue + ((r.phase + dt) / 200000 - (r.phase + lead) / 200000) })

/-! ### Reset -/

/-- R22, R45, R70, R73, R150, R163, R179, R181, R182, R191: the machine at `State.reset`. That the motors are off, the
sides 0 and the card ABSENT rests on the model's choice of released input lines, which R45 and R150 sample
(notes/assumptions/2.md). -/
def Obligations.ResetLeavesTheValuesOfTheManual : Prop :=
  let d := State.reset.dev
  State.reset.pending = []
  ∧ (d.units.u0.enabled = true ∧ d.units.u0.selectLine = .sel0 ∧ d.units.u0.motorSource = .mota
    ∧ d.units.u0.lineMode = .change)
  ∧ (d.units.u1.enabled = false ∧ d.units.u1.selectLine = .sel1 ∧ d.units.u1.motorSource = .motb
    ∧ d.units.u1.lineMode = .change)
  ∧ (∀ u, (d.units.get u).cylinder = 0 ∧ (d.units.get u).side = false ∧ (d.units.get u).motor = false
    ∧ (d.units.get u).atSpeed = false ∧ (d.units.get u).phase = 0 ∧ (d.units.get u).spinUp = none
    ∧ (d.units.get u).protect = false ∧ (d.units.get u).latch = true
    ∧ (d.units.get u).applied = false ∧ (d.units.get u).lost = false
    ∧ d.images.get u = none ∧ d.captures.get u = none ∧ d.seq.pending.get u = none)
  ∧ d.pool.buffers.length = 8 ∧ (∀ i, (d.buf i).state = .free) ∧ d.pool.lru = [0, 1, 2, 3, 4, 5, 6, 7]
  ∧ d.pool.queue = [] ∧ d.pool.waits = []
  ∧ d.card.state = .absent ∧ d.card.capacity = none ∧ d.card.run = none ∧ d.card.requests = []
  ∧ d.card.grants = 0
  ∧ d.seq.group = none
  ∧ d.port.engine = .idle ∧ (∀ a, d.port.window.read a = 0) ∧ d.port.cursor = 0
  ∧ d.port.frameFault = false ∧ d.port.mask = { result := false, bank := false, unit := false }
  ∧ (∀ i, (d.banks.get i).record = none ∧ (d.banks.get i).overflow = false ∧ (d.banks.get i).count = 0)
  ∧ (∀ c : Cause, (d.banks.get c.bank).enabled c = true ↔
      c ≠ .doubleSelect ∧ c ≠ .stepLimit ∧ c ≠ .trackNotReady)
  ∧ d.banks.fip = false ∧ d.banks.offline = false

/-- R45, R69, R97, R113, R132, R150, R163, R179, R191: POWER_ON from every state, with the lines as they stand. That the
model's clock and its counter of free choices run on is notes/assumptions/25.md, and the continuation point of a window
with no image notes/assumptions/43.md. -/
def Obligations.PowerOnResetsEverything : Prop :=
  ∀ s : State, exec .powerOn s = .next { s with dev := s.dev.afterReset FaultBanks.powerOn }

/-- R45, R69, R97, R113, R132, R150, R163, R179, R191: RESET_LINE from every state keeps the records, the counts
and the enable sets of the banks, and clears FIP and OFFLINE; everything else is as from power-on. That the model's
clock and its counter of free choices run on is notes/assumptions/25.md, and the continuation point of a window with no
image notes/assumptions/43.md. The model's choice: revolution starts that are due are handed ahead of the reset, Unit 0's first, since the banks keep what R84 reports at them
(notes/assumptions/6.md). -/
def Obligations.ResetLineKeepsTheBanks : Prop :=
  ∀ s : State,
    let h0 := (fun x => x.revolutionEvent .u0)^[s.dev.units.u0.revDue] s.dev
    let h := (fun x => x.revolutionEvent .u1)^[h0.units.u1.revDue] h0
    exec .resetLine s = .next { s with
      dev := h.afterReset { h.banks with fip := false, offline := false, entryOwed := false } }
    ∧ (s.dev.units.u0.revDue = 0 → s.dev.units.u1.revDue = 0 →
      exec .resetLine s = .next { s with
        dev := s.dev.afterReset { s.dev.banks with fip := false, offline := false, entryOwed := false } })

/-! ### Invariants and frames as bytes -/

/-- `Device.Inv` holds at reset. -/
def Obligations.ResetIsGood : Prop := State.reset.dev.Inv

/-- `Device.Inv` is kept by every step from every state: heads in 0..83, phases below 200,000, a spin-up time just
while a motor runs and is not at speed, no two enabled units on one select line, a capacity just in
READY, a run only in READY, the consecutive-grant count in 0..8, counts in 0..255, OVERFLOW only with
VALID, records in the bank of their cause, OFFLINE only with FIP, the cursor in 0..8,192, eight buffers
that stand once each in the LRU order, each buffer at most once in the queue, no two buffers with one key (R72),
each queued buffer DIRTY (R88), work only in FILLING and FLUSHING (R70), no key in the wait list that a buffer holds
(R77), and the Data Window and every data area in canonical form. -/
def Obligations.EveryStepKeepsTheMachineGood : Prop :=
  ∀ s t : State, s.dev.Inv → step s = .next t → t.dev.Inv

/-- R164, R166, R180: the bytes of a Loader Port frame are read as the command they were written for. -/
def Obligations.FramesReadBackAsTheirCommands : Prop :=
  ∀ (i : Instr) (bs : List Byte), i.wf = true → encodeFrame i = some bs → decodeFrame bs = some i

/-- R180: frames written out from the tables of codes and parameter bytes. -/
def Obligations.FramesOfTheManualAreRead : Prop :=
  decodeFrame [0xC1, 0x10, 0x01, 0x01, 0x01, 0x02, 0x00] = some (.configureUnit 1 1 1 2 0)
  ∧ decodeFrame [0xC1, 0x20, 0x00, 0x00, 0x00, 0x9C, 0x40, 0x01] = some (.mount 0 40000 1)
  ∧ decodeFrame [0xC1, 0x31, 0x00, 0x07, 0x01, 0x03, 0x02, 0x01] = some (.writeSectors 0 7 1 3 2 1)
  ∧ decodeFrame [0xC1, 0x33, 0xFF] = some (.flush 0xFF)
  ∧ decodeFrame [0xC1, 0x41, 0x00, 0x01, 0x00, 0x00, 0x10] = some (.writeBlocks 65536 16)
  ∧ decodeFrame [0xC1, 0x62, 0x01, 0x04, 0x01] = some (.setBankEnable 1 4 1)
  ∧ decodeFrame [0xC2, 0x00, 0x00, 0x00] = some (.resultFrame 3)
  ∧ decodeFrame [0xC3, 0x20, 0x00] = some (.cursorFrame [0x20, 0x00])
  ∧ decodeFrame [0xC4, 0x11, 0x22] = some (.dataInFrame [0x11, 0x22])
  ∧ decodeFrame [0xC5, 0x00] = some (.dataOutFrame 1)
  ∧ decodeFrame [0xCF] = some .portReset
  ∧ decodeFrame [0xC1, 0x64] = some (.invalidCommand 0x64)
  ∧ decodeFrame [0xC1, 0x22, 0x00] = some .commandFrameDropped
  ∧ decodeFrame [0xC0, 0x00] = some (.unknownFrameType 0xC0 1)
  ∧ decodeFrame [] = none

/-! ### The lines, selection and rotation (chapter 2) -/

/-- R24, R25, R27, R29, R36: a select input or a motor input changes level, and selection and both motors follow. A unit
that ceases to be selected ends its capture and its delivery (R24 b, R98, R111 b); one that becomes selected samples its
side, with its notice (R37), and begins its delivery (R111 a); a motor start hands its notice (R27); a motor off ends the
capture, removes the completion phases, queues the unit's DIRTY buffers and asks for its header write (R29, R67 d, R83,
R88 b). The model's choices: revolution starts that are due on a unit whose motor the change stops are handed ahead of it
(notes/assumptions/6.md); a unit that becomes selected begins at the slot under its head, whether or not its side
has changed (notes/assumptions/10.md); at a motor off the capture ends and is decoded before the effects of the motor off
(notes/assumptions/16.md, an inference); a unit that becomes selected samples its side also while the write gate is
asserted (notes/assumptions/22.md, an inference); selection comes before the motors, and Unit 0 before Unit 1
(notes/assumptions/30.md). -/
def Obligations.SelectAndMotorLinesAreFollowed : Prop :=
  let followed : Instr → State → (Device → Device) → Prop := fun c s change =>
    let b := s.dev.startsBefore change
    Reaches c s (b.evaluatedPart (change b)) ∧ Leads c s (b.evaluate (change b))
  (∀ (s : State) (v : Bool),
    (∀ l : SelectLine, followed (.selectLineChange l v) s (fun x => { x with lines := x.lines.setSel l v }))
    ∧ followed (.motorLineChange .mota v) s (fun x => { x with lines := { x.lines with mota := v } })
    ∧ followed (.motorLineChange .motb v) s (fun x => { x with lines := { x.lines with motb := v } }))
  ∧ (∀ (d : Device) (change : Device → Device),
    let starts : UnitId → Device → Nat := fun u x =>
      if (d.units.get u).motor = true ∧ (change d).motorAsserted u = false then (x.units.get u).revDue else 0
    let d0 := (fun x => x.revolutionEvent .u0)^[starts .u0 d] d
    d.startsBefore change = (fun x => x.revolutionEvent .u1)^[starts .u1 d0] d0)
  ∧ (∀ b a : Device,
    let left : Device :=
      match b.selected with
      | some u =>
        if b.selected = a.selected then a
        else
          { a.captureEnd u with
            delivery := (a.captureEnd u).delivery.set u ⟨none, none, none, none, none⟩, readData := none }
      | none => a
    let entered : Device :=
      match a.selected with
      | some u =>
        if b.selected = a.selected then left
        else
          let x :=
            if (left.units.get u).side = left.lines.side then left
            else Device.withNotice left u false
              { left with units := left.units.set u { left.units.get u with side := left.lines.side } }
          { x with delivery := x.delivery.set u ⟨none, none, none, none, none⟩ }
      | none => left
    let doubled : Device :=
      if a.doubleSelect = true ∧ b.doubleSelect = false then
        entered.report { cls := .note, cause := .doubleSelect, op := .drive, unit := none, track := none, block := none }
      else entered
    let followMotor : UnitId → Device → Device := fun u x =>
      let r := x.units.get u
      if a.motorAsserted u = true ∧ r.motor = false then
        Device.withNotice x u false
          { x with units := x.units.set u { r with motor := true, phase := 0, spinUp := some 0 } }
      else if a.motorAsserted u = false ∧ r.motor = true then
        let y := x.captureEnd u
        let z := { y with
          units := y.units.set u { y.units.get u with
            motor := false, atSpeed := false, spinUp := none, phase := 0, revDue := 0, startUsed := false }
          pool := { y.pool with buffers := y.pool.buffers.map (fun (t : TrackBuffer) =>
            if t.key.map TrackKey.unit = some u then { t with completion := none } else t) } }
        ((z.closeSection u).joinUnit u).requestHeader u
      else x
    b.evaluate a = followMotor .u1 (followMotor .u0 doubled))
  ∧ ∀ (d : Device) (u : UnitId),
    (∀ i, i ∈ (d.joinUnit u).pool.queue ↔
      i ∈ d.pool.queue ∨ i < 8 ∧ d.ownedBy i u = true ∧ (d.buf i).state = .dirty)
    ∧ ∃ n l, d.joinUnit u = { d with freeCount := n, pool := { d.pool with queue := d.pool.queue ++ l } }

/-- R28: AT_SPEED comes at the end of the spin-up time, with the phase at 100,000 µs when time and phase ran from 0
together. The model's choices: the command lets time run to that moment (notes/assumptions/6.md), and without a spin-up
it changes nothing (notes/assumptions/1.md). -/
def Obligations.AtSpeedEndsTheSpinUp : Prop :=
  (∀ (s : State) (u : UnitId) (t : Nat), (s.dev.units.get u).motor = true →
    (s.dev.units.get u).spinUp = some t →
    Answers (.atSpeed u) s ((s.dev.advance (300000 - t)).modUnit u (fun r =>
      { r with atSpeed := true, spinUp := none }))
    ∧ (t ≤ 300000 → (s.dev.units.get u).phase = t % 200000 →
      ((s.dev.advance (300000 - t)).units.get u).phase = 100000))
  ∧ ∀ (s : State) (u : UnitId), (s.dev.units.get u).motor = false ∨ (s.dev.units.get u).spinUp = none →
    Answers (.atSpeed u) s s.dev

/-- R30, R31, R83, R84, R101, R102, R159: at the revolution start of a unit the completion phases of its buffers go, its
open section closes, a selected unit whose formatted current track is not readable gives TRACK_NOT_READY, and
the change pending on a clear unit applies, unless one has applied at that start ahead of this command
(notes/assumptions/8.md). The model's choice: the command lets time run to the wrap, unless wraps have come that are
still due (notes/assumptions/6.md), and of a unit not at speed it changes nothing (notes/assumptions/1.md). The second
clause says what the event is by itself, for the starts that are handed ahead of a motor off or a reset, and when a unit
is clear (R159 a). -/
def Obligations.ARevolutionStartIsHanded : Prop :=
  (∀ (s : State) (u : UnitId),
    let r := s.dev.units.get u
    let d := if 0 < r.revDue then s.dev else s.dev.advance (200000 - r.phase)
    let applies : Option Change :=
      if r.startUsed = false ∧ s.dev.unitClear u = true then s.dev.seq.pending.get u else none
    let taken : Device → Device := fun x =>
      x.modUnit u (fun r => { r with revDue := r.revDue - 1, startUsed := false })
    let handed : Device → Prop := fun x =>
      (applies = none → Answers (.revolutionStart u) s (taken ((x.dropCompletion u).closeSection u)))
      ∧ ∀ c, applies = some c →
        Leads (.revolutionStart u) s (taken (((x.dropCompletion u).closeSection u).applyChange u c))
    (r.motor = true → r.atSpeed = true →
      (∀ k, d.selected = some u → d.currentTrack u = some k → (d.formatOf k).isSome = true →
        d.readableHolder k = none →
        handed (d.report
          { cls := .note, cause := .trackNotReady, op := .fill, unit := some u
            track := some { cyl := k.cyl, head := k.head, r := none }, block := none }))
      ∧ ((d.selected ≠ some u ∨ ∀ k, d.currentTrack u = some k →
          d.formatOf k = none ∨ (d.readableHolder k).isSome = true) →
        handed d))
    ∧ (r.motor = false ∨ r.atSpeed = false → Answers (.revolutionStart u) s s.dev))
  ∧ ∀ (d : Device) (u : UnitId),
    let notReady := d.selected = some u ∧ ∃ k, d.currentTrack u = some k ∧ (d.formatOf k).isSome = true
      ∧ d.readableHolder k = none
    let loc : Option TrackLoc := (d.currentTrack u).map (fun k => { cyl := k.cyl, head := k.head, r := none })
    let report : Report :=
      { cls := .note, cause := .trackNotReady, op := .fill, unit := some u, track := loc, block := none }
    let taken : Device → Device := fun x =>
      x.modUnit u (fun r => { r with revDue := r.revDue - 1, startUsed := false })
    (∀ e, notReady ∧ e = d.report report ∨ ¬ notReady ∧ e = d →
      let closed := (e.dropCompletion u).closeSection u
      (d.seq.pending.get u = none ∨ (d.units.get u).startUsed = true ∨ d.unitClear u = false →
        d.revolutionEvent u = taken closed)
      ∧ ∀ c, d.seq.pending.get u = some c → (d.units.get u).startUsed = false → d.unitClear u = true →
        d.revolutionEvent u = taken (closed.applyChange u c))
    ∧ d.dropCompletion u = { d with pool := { d.pool with buffers := d.pool.buffers.map (fun (t : TrackBuffer) =>
      if t.key.map TrackKey.unit = some u then { t with completion := none } else t) } }
    ∧ (d.unitClear u = true ↔
      ¬ (d.lines.wgate = true ∧ d.selected = some u) ∧ d.captures.get u = none
      ∧ (∀ i < 8, ∀ k, (d.buf i).key = some k → k.unit = u →
        (d.buf i).state ≠ .dirty ∧ (d.buf i).state ≠ .flushing)
      ∧ ∀ m, d.images.get u = some m → m.headerState = .clean)

/-- R32: the index pulse ends at phase 2,000 µs. The model's choices: the command lets time run to that moment
(notes/assumptions/6.md), and with no index asserted it changes nothing (notes/assumptions/1.md). -/
def Obligations.TheIndexPulseEnds : Prop :=
  (∀ (s : State) (u : UnitId), s.dev.selected = some u → s.dev.indexLine = true →
    Answers .indexPulseEnd s (s.dev.advance (2000 - (s.dev.units.get u).phase))
    ∧ (s.dev.advance (2000 - (s.dev.units.get u).phase)).indexLine = false)
  ∧ ∀ s : State, s.dev.indexLine = false → Answers .indexPulseEnd s s.dev

/-- R33, R34, R42: a step taken with the write gate released moves the head by one cylinder within 0..83 and clears
the latch of a unit with an image; inward at cylinder 83 it is reported; with no unit selected only the
direction input changes. Where the head is held everything else is kept exactly; where it moves the step hands its
notice (R37), which asks for no fill when no image is mounted or the motor is off. What a notice does: a DIRTY buffer
that stops being current joins the queue (R88 a, in a free order: notes/assumptions/4.md), the open section closes, the
slot that the phase has entered is finished at its rate (R99, R109), and a fill of the new track is requested (R74 d) while
the motor runs or at an application. The model's choices (notes/assumptions/10.md): a slot that begins at the moment of the
change itself, and a slot that was skipped, was not entered, so delivery goes on with the first slot that begins at or
after the change; a slot delivered before, or already being finished, keeps its end. -/
def Obligations.AStepMovesTheHead : Prop :=
  (∀ (s : State) (u : UnitId) (inward : Bool), s.dev.selected = some u → s.dev.lines.wgate = false →
    let r := s.dev.units.get u
    let c := if inward then (if r.cylinder < 83 then r.cylinder + 1 else r.cylinder) else r.cylinder - 1
    let r1 := { r with cylinder := c, latch := r.latch && !s.dev.mounted u }
    let d1 := { s.dev with
      lines := { s.dev.lines with dir := inward }
      units := s.dev.units.set u r1 }
    let d2 :=
      if inward = true ∧ ¬ r.cylinder < 83 then
        d1.report { cls := .note, cause := .stepLimit, op := .drive, unit := some u, track := none
                    block := none }
      else d1
    Reaches (.stepPulse inward) s d2
    ∧ (c = r.cylinder → Answers (.stepPulse inward) s d2)
    ∧ (c ≠ r.cylinder → s.dev.mounted u = false ∨ r.motor = false →
      Answers (.stepPulse inward) s (Device.finishSlot s.dev (d2.closeSection u) u))
    ∧ (c ≠ r.cylinder → Leads (.stepPulse inward) s (Device.withNotice s.dev u false d2)))
  ∧ (∀ (s : State) (inward : Bool), s.dev.selected = none →
    Answers (.stepPulse inward) s { s.dev with lines := { s.dev.lines with dir := inward } })
  ∧ (∀ (before after : Device) (u : UnitId) (application : Bool), ∃ (n : Nat) (l : List Nat),
    (∀ i, i ∈ l ↔ i < 8 ∧ before.bufCurrent i = true ∧ after.bufCurrent i = false
      ∧ (after.buf i).state = .dirty ∧ i ∉ after.pool.queue)
    ∧ l.Nodup
    ∧ (let x := Device.finishSlot before
        (Device.closeSection
          { after with freeCount := n, pool := { after.pool with queue := after.pool.queue ++ l } } u) u
      (∀ k, after.currentTrack u = some k → (after.units.get u).motor = true ∨ application = true →
        Device.withNotice before u application after = x.requestFill k)
      ∧ (after.currentTrack u = none ∨ (after.units.get u).motor = false ∧ application = false →
        Device.withNotice before u application after = x)))
  ∧ ∀ (before d : Device) (u : UnitId),
    let phase := (before.units.get u).phase
    let len := 8000000 / (before.streamBasis u).rate
    let changed := before.selected = some u ∧ d.selected = some u
      ∧ (∀ t, (d.delivery.get u).slotEnd = some t → t ≤ d.now)
      ∧ (before.currentTrack u ≠ d.currentTrack u ∨ before.streamBasis u ≠ d.streamBasis u)
    let entered := phase % len ≠ 0 ∧ ∀ t, (d.delivery.get u).slotEnd = some t → t + phase % len ≤ d.now
    let ends : Nat → Device := fun t =>
      { d with delivery := d.delivery.set u { d.delivery.get u with slotEnd := some t } }
    (changed → entered → Device.finishSlot before d u = ends (d.now - phase % len + len))
    ∧ (changed → ¬ entered → Device.finishSlot before d u = ends d.now)
    ∧ (¬ changed → Device.finishSlot before d u = d)

/-- R35: a step pulse while the write gate is asserted and a unit is selected is ignored and reported. -/
def Obligations.AStepDuringAWriteIsIgnored : Prop :=
  ∀ (s : State) (u : UnitId) (inward : Bool), s.dev.selected = some u → s.dev.lines.wgate = true →
    Answers (.stepPulse inward) s
      (Device.report { s.dev with lines := { s.dev.lines with dir := inward } }
        { cls := .corrected, cause := .stepDuringWrite, op := .drive, unit := some u
          track :=
            if s.dev.mounted u then
              some { cyl := (s.dev.units.get u).cylinder
                     head := if (s.dev.units.get u).side then 1 else 0, r := none }
            else none
          block := none })

/-- R36, R37: the side input sets the side of the selected unit while the write gate is released, a change of side hands
its notice (what a notice does is in AStepMovesTheHead), and nothing but the line changes otherwise. -/
def Obligations.TheSideFollowsItsInput : Prop :=
  (∀ (s : State) (u : UnitId) (v : Bool), s.dev.selected = some u → s.dev.lines.wgate = false →
    let d :=
      { s.dev with
        lines := { s.dev.lines with side := v }
        units := s.dev.units.set u { s.dev.units.get u with side := v } }
    Reaches (.sideChange v) s d
    ∧ ((s.dev.units.get u).side ≠ v → Leads (.sideChange v) s (Device.withNotice s.dev u false d)))
  ∧ ∀ (s : State) (v : Bool),
    s.dev.selected = none ∨ s.dev.lines.wgate = true
      ∨ (∃ u, s.dev.selected = some u ∧ (s.dev.units.get u).side = v) →
    Answers (.sideChange v) s { s.dev with lines := { s.dev.lines with side := v } }

/-- R26, R32, R39, R41: the outputs of the Drive Port. R165, R172, R180: the Port Status byte and the interrupt line. -/
def Obligations.OutputsFollowTheState : Prop :=
  ∀ d : Device,
    (d.selected = none → d.indexLine = false ∧ d.track0Line = false ∧ d.writeProtectLine = false
      ∧ d.readyChangeLine = false)
    ∧ (∀ u, d.selected = some u →
      (d.indexLine = true ↔ (d.units.get u).motor = true ∧ (d.units.get u).atSpeed = true
        ∧ d.mounted u = true ∧ d.banks.offline = false ∧ (d.units.get u).phase < 2000)
      ∧ (d.track0Line = true ↔ (d.units.get u).cylinder = 0)
      ∧ (d.writeProtectLine = true ↔ (d.units.get u).protect = true ∨ d.mounted u = false)
      ∧ ((d.units.get u).lineMode = .ready → (d.readyChangeLine = true ↔ d.mounted u = true
        ∧ (d.units.get u).atSpeed = true ∧ d.banks.offline = false))
      ∧ ((d.units.get u).lineMode = .change → d.readyChangeLine = (d.units.get u).latch))
    ∧ (d.interruptLine = true ↔
      (d.port.mask.result = true ∧ d.port.engine.holdsResult = true)
      ∨ (d.port.mask.bank = true ∧ ∃ i r, (d.banks.get i).record = some r
        ∧ (d.banks.get i).enabled r.cause = true)
      ∨ (d.port.mask.unit = true ∧ ∃ u, (d.units.get u).applied = true ∨ (d.units.get u).lost = true))
    ∧ d.portStatus.toNat = d.port.engine.code + (if d.interruptLine then 4 else 0) + 8 * d.card.state.code
      + (if d.banks.fip then 32 else 0) + (if d.banks.offline then 64 else 0)
      + (if d.port.frameFault then 128 else 0)

/-! ### Writes of the machine (chapter 6) -/

/-- R38, R110, R116: an assertion of the write gate closes the open section of the selected unit and is judged in the
order a, b, d, c; it starts a capture when all four hold. The model's choice: an assertion with the gate asserted
already changes nothing (notes/assumptions/1.md). -/
def Obligations.AWriteStartIsJudged : Prop :=
  ∀ s : State,
    (s.dev.lines.wgate = true → Answers .writeGateAssert s s.dev)
    ∧ (s.dev.lines.wgate = false → s.dev.selected = none →
      Answers .writeGateAssert s { s.dev with lines := { s.dev.lines with wgate := true } })
    ∧ ∀ u, s.dev.lines.wgate = false → s.dev.selected = some u →
      let r := s.dev.units.get u
      let d := Device.closeSection { s.dev with lines := { s.dev.lines with wgate := true } } u
      let ready := s.dev.mounted u = true ∧ r.motor = true ∧ r.atSpeed = true
      let loc : Option TrackLoc :=
        if s.dev.mounted u then
          some { cyl := r.cylinder, head := if r.side then 1 else 0, r := none }
        else none
      (¬ ready → Answers .writeGateAssert s (d.report
        { cls := .note, cause := .writeNoDisk, op := .drive, unit := some u, track := loc, block := none }))
      ∧ (ready → r.protect = true → Answers .writeGateAssert s (d.report
        { cls := .corrected, cause := .writeProtected, op := .drive, unit := some u, track := loc
          block := none }))
      ∧ (ready → r.protect = false → (s.dev.captures.get u).isSome = true →
        Leads .writeGateAssert s (d.report
          { cls := .uncorrected, cause := .writeNoTrack, op := .drive, unit := some u, track := loc
            block := none }))
      ∧ (ready → r.protect = false → s.dev.captures.get u = none → s.dev.banks.offline = true →
        Answers .writeGateAssert s d)
      ∧ (ready → r.protect = false → s.dev.captures.get u = none → s.dev.banks.offline = false →
        Answers .writeGateAssert s (d.setCapture u (some
          { state := .capturing
            key := { unit := u, cyl := r.cylinder, head := if r.side then 1 else 0 }
            startPhase := r.phase, startTime := s.dev.now, basis := d.streamBasis u
            basisFixed := false, lastPhase := none, fields := [], capReached := false
            specials := [] })))

/-- R117: a byte of write data is taken into a running capture of the selected unit at its slot. R8, R114, R115: a mark
opens a field at the slot of its first byte: in MFM three special bytes with broken clock, C2 before an index mark and A1
before an ID, data or deleted-data mark, and the mark byte; in FM the mark byte with broken clock. The first mark of a
capture fixes its basis, the special bytes leave the field before, and a byte that completes no mark is appended to the
newest field, with its slot (R115). Past one revolution nothing more is taken. The model's choices: the byte lasts its slot, and time runs with
it (notes/assumptions/10.md); until the first mark has fixed the basis, and for the byte that completes it, the
revolution is counted at the basis that the stream had at the write start (notes/assumptions/37.md). -/
def Obligations.WriteDataIsCaptured : Prop :=
  let special : MarkKind → Byte := fun
    | .index => 0xC2
    | .ident | .data | .deleted => 0xA1
  let mark : MarkKind → Byte := fun
    | .index => 0xFC
    | .ident => 0xFE
    | .data => 0xFB
    | .deleted => 0xF8
  let within : Capture → Nat → Prop := fun c p =>
    slotAt c.basis.rate p < c.startSlot + slotsPerRev c.basis.rate
  let opened : Capture → Nat → WireMode → MarkKind → Nat → List CapField → Capture := fun c p w kind first before =>
    { c with
      basis := wireBasis w, basisFixed := true, lastPhase := some p, specials := []
      fields := before ++ [{ kind := kind, markSlot := slotAt (wireBasis w).rate first, bytes := [], slots := [] }] }
  (∀ (s : State) (u : UnitId) (c : Capture) (b : Byte) (w : WireMode) (broken : Bool),
    s.dev.selected = some u → s.dev.lines.wgate = true → s.dev.captures.get u = some c →
    c.state = .capturing →
    Answers (.writeDataByte b w broken) s
      ((s.dev.setCapture u (some (c.takeByte (c.startPhase + (s.dev.now - c.startTime)) b w broken))).advance
        (8000000 / (wireBasis w).rate)))
  ∧ (∀ (s : State) (b : Byte) (w : WireMode) (broken : Bool),
    (s.dev.selected = none ∨ s.dev.lines.wgate = false
      ∨ ∃ u, s.dev.selected = some u ∧ ∀ c, s.dev.captures.get u = some c → c.state ≠ .capturing) →
    Answers (.writeDataByte b w broken) s (s.dev.advance (8000000 / (wireBasis w).rate)))
  ∧ (∀ (c : Capture) (p : Nat) (w : WireMode) (kind : MarkKind),
    (c.basisFixed = true → c.basis = wireBasis w) → within c p →
    ((wireBasis w).enc = .mfm → ∀ p1 p2 p3,
      c.specials = [(p3, special kind, w), (p2, special kind, w), (p1, special kind, w)] →
      (c.fields = [] → c.takeByte p (mark kind) w false = opened c p w kind p1 [])
      ∧ ∀ (init : List CapField) (f : CapField), c.fields = init ++ [f] →
        c.takeByte p (mark kind) w false
          = opened c p w kind p1 (init ++ [{ f with
            bytes := f.bytes.take (f.bytes.length - 3), slots := f.slots.take (f.slots.length - 3) }]))
    ∧ ((wireBasis w).enc = .fm → c.takeByte p (mark kind) w true = opened c p w kind p c.fields))
  ∧ (∀ (c : Capture) (p : Nat) (b : Byte) (w : WireMode) (broken : Bool),
    within c p → c.specials.length ≤ 3 →
    (c.basisFixed = true ∧ c.basis ≠ wireBasis w
      ∨ (wireBasis w).enc = .fm ∧ (broken = false ∨ ∀ kind, b ≠ mark kind)
      ∨ (wireBasis w).enc = .mfm ∧ (broken = true ∨ ∀ kind p1 p2 p3,
        ¬ (b = mark kind
          ∧ c.specials = [(p3, special kind, w), (p2, special kind, w), (p1, special kind, w)]))) →
    let taken : List CapField → Capture := fun fields =>
      { c with
        lastPhase := some p, fields := fields
        specials :=
          if broken = true ∧ (wireBasis w).enc = .mfm ∧ (b = 0xA1 ∨ b = 0xC2) then
            ((p, b, w) :: c.specials).take 3
          else [] }
    (c.fields = [] → c.takeByte p b w broken = taken [])
    ∧ ∀ (init : List CapField) (f : CapField), c.fields = init ++ [f] →
      c.takeByte p b w broken
        = taken (init ++ [{ f with bytes := f.bytes ++ [b], slots := f.slots ++ [slotAt c.basis.rate p] }]))
  ∧ ∀ (c : Capture) (p : Nat) (b : Byte) (w : WireMode) (broken : Bool),
    c.startSlot + slotsPerRev c.basis.rate ≤ slotAt c.basis.rate p →
    c.takeByte p b w broken = { c with capReached := true }

/-- R36, R38, R118, R119: a release of the write gate ends the capture of the selected unit, whose record is EMPTY or
PENDING after it, and the side takes the level of its input, with its notice (R37) when it changes. What a capture end
does to every capture, whatever its cause: A capture that took no byte is dropped, one whose track is
unformatted or readable is decoded at once, and another waits for a fill. R121 to R124: a sector write replaces its
sector, and marks the sectors that it spills over; a stray write marks every sector that it meets. R125 to R129, R66: a
format write is parsed, with the gap measured from the end of the first sector's data CRC to the start of the second
sector (R126 d), and is refused with its cause, stores its sectors in a layout that it matches, or changes the format of its
track; on an unformatted track it is refused with the cause of its parse, FORMAT_MIXED, FORMAT_FIT or, when it passes all
of these, FORMAT_SIZE. R11, R12, R101, R121: the slots of a capture, the spans of an ID and a data field in slots, and the
phases of a span. R123, R124: the sector that STRAY_WRITE names is the one whose ID or data the region meets first. R131:
FLAG_LOST is reported on an image without a flag map alone, of the first sector in physical order with a changed stored
flag. R122, which captures are sector writes, and what writeSector does are in ASectorWriteReplacesItsSector. The model's
choices: with the gate released already the command changes nothing (notes/assumptions/1.md);
OVERLONG_WRITE comes before the reports of the decode (notes/assumptions/36.md); the first fault of a parse, in the order
of the captured fields and with an ID that lacks its bytes judged before its N, is the one reported (notes/assumptions/23.md,
an inference); a refused format write leaves the LRU order as it is (notes/assumptions/21.md, an inference), and a stray
write moves the buffer to its head also when it marks no sector (notes/assumptions/44.md); FLAG_LOST compares sectors by
their number (notes/assumptions/20.md, an inference); a slot that begins at the moment of a format change was not entered
(notes/assumptions/10.md). What storeWrite does to the buffer (R85) is in SectorsAreWritten, what layoutOf answers in
ALayoutFillsItsRevolution, and equalOn (R6) in FormatsAreEqualPerTrack. -/
def Obligations.AWriteGateReleaseEndsTheCapture : Prop :=
  let note : Capture → ReportClass → Cause → Option Nat → Device → Device := fun c cls cause r y =>
    y.report { cls := cls, cause := cause, op := .capture, unit := some c.key.unit
               track := some { cyl := c.key.cyl, head := c.key.head, r := r }, block := none }
  let early : Capture → Encoding → Nat → Prop := fun c e rate =>
    (∃ f ∈ c.fields, f.kind = .ident) ∧ c.startPhase < (match e with
      | .mfm => 128
      | .fm => 64) * (8000000 / rate)
  let single : Nat → Nat → OverrideEntry → Bool := fun c h o =>
    decide (o.firstCyl = c ∧ o.lastCyl = c ∧ o.heads = if h = 0 then .head0 else .head1)
  let noted : Capture → List WrittenSector → Device → Device := fun c ws y =>
    if ∃ w ∈ ws, w.c ≠ c.key.cyl ∨ w.h ≠ c.key.head then note c .note .idMismatch none y else y
  let made : Capture → Nat → Nat → List WrittenSector → TrackFormat := fun c n gap ws =>
    { enc := c.basis.enc, rate := c.basis.rate, sectors := ws.length, sizeCode := n
      firstR := least (ws.map WrittenSector.r), gap3 := measuredGap c.basis.enc gap ws, interleave := 1
      skew := 0, rList := some (ws.map WrittenSector.r) }
  (∀ s : State, s.dev.lines.wgate = false → Answers .writeGateRelease s s.dev)
  ∧ (∀ s : State, s.dev.lines.wgate = true → s.dev.selected = none →
    Answers .writeGateRelease s { s.dev with lines := { s.dev.lines with wgate := false } })
  ∧ (∀ (s : State) (u : UnitId), s.dev.lines.wgate = true → s.dev.selected = some u →
    let d := { s.dev with lines := { s.dev.lines with wgate := false } }
    Reaches .writeGateRelease s
      { d with units := d.units.set u { d.units.get u with side := d.lines.side } }
    ∧ (∀ c, d.captures.get u = some c → c.state = .capturing → ∃ t, exec .writeGateRelease s = .next t
      ∧ (t.dev.captures.get u = none ∨ t.dev.captures.get u = some { c with state := .pending }))
    ∧ ((d.units.get u).side ≠ d.lines.side →
      let e := d.captureEnd u
      Leads .writeGateRelease s (Device.withNotice e u false
        { e with units := e.units.set u { e.units.get u with side := d.lines.side } }))
    ∧ ((d.units.get u).side = d.lines.side →
      Leads .writeGateRelease s (d.captureEnd u)
      ∧ ((∀ c, d.captures.get u = some c → c.state ≠ .capturing) → Answers .writeGateRelease s d)
      ∧ ∀ c, d.captures.get u = some c → c.state = .capturing →
        (c.lastPhase = none → Answers .writeGateRelease s (d.setCapture u none))
        ∧ (c.lastPhase.isSome = true →
          let e := if c.capReached then note c .note .overlongWrite none d else d
          (d.formatOf c.key = none → Leads .writeGateRelease s ((e.decode none c).setCapture u none))
          ∧ ((d.formatOf c.key).isSome = true →
            (∀ i, d.readableHolder c.key = some i →
              Leads .writeGateRelease s ((e.decode (some i) c).setCapture u none))
            ∧ (d.readableHolder c.key = none → Leads .writeGateRelease s
              ((e.setCapture u (some { c with state := .pending })).requestFill c.key))))))
  ∧ (∀ (d : Device) (u : UnitId),
    ((∀ c, d.captures.get u = some c → c.state ≠ .capturing) → d.captureEnd u = d)
    ∧ ∀ c, d.captures.get u = some c → c.state = .capturing →
      (c.lastPhase = none → d.captureEnd u = d.setCapture u none)
      ∧ (c.lastPhase.isSome = true →
        let e := if c.capReached then note c .note .overlongWrite none d else d
        (d.formatOf c.key = none → d.captureEnd u = (e.decode none c).setCapture u none)
        ∧ ((d.formatOf c.key).isSome = true →
          (∀ i, d.readableHolder c.key = some i → d.captureEnd u = (e.decode (some i) c).setCapture u none)
          ∧ (d.readableHolder c.key = none →
            d.captureEnd u = (e.setCapture u (some { c with state := .pending })).requestFill c.key))))
  ∧ (∀ (d : Device) (i : Nat) (c : Capture) (l : Layout), (d.buf i).layout = some l →
    let x := d.buf i
    let span : Nat × Nat → PhaseSpan := fun p => slotSpan l.rate p.1 p.2
    let damaged : PhaseSpan → Sector → Sector := fun region t =>
      let flags := { t.flags with
        idCrcBad := t.flags.idCrcBad || region.overlaps (span (l.idSpan t.position))
        dataCrcBad := t.flags.dataCrcBad || region.overlaps (span (l.dataSpan t.position)) }
      { t with flags := flags
               dirty := t.dirty || (d.hasFlagMap c.key.unit && t.flags.stored != flags.stored) }
    let stray : PhaseSpan → Device → Device := fun region y =>
      match firstMarked l region x.sectors with
      | some t => note c .uncorrected .strayWrite (some t.number) y
      | none => y
    (∀ p f rest e, sectorWriteAt l c = some p → c.fields = f :: rest → c.endSlot? = some e →
      let x1 := x.writeSector l p f
      let number := (x.sectors.find? (fun t => t.position == p)).map Sector.number
      let judged : Device → Device := fun y =>
        if f.bytes.length < l.dataLen + 2 then note c .corrected .partialWrite number y
        else if bytesAt f.bytes l.dataLen 2 ≠ crcBytes
            (dataCrc l.enc (if f.kind = .deleted then 0xF8 else 0xFB) (bytesAt f.bytes 0 l.dataLen)) then
          note c .note .writeCrc number y
        else y
      (e < l.start (p + 1) → d.decode (some i) c =
        (judged (d.storeWrite i x1 true)).reportFlagLost c.key x.sectors x1.sectors)
      ∧ (l.start (p + 1) ≤ e →
        let region := slotSpan l.rate (l.start (p + 1)) e
        let x2 := { x1 with sectors := x1.sectors.map (damaged region) }
        d.decode (some i) c =
          (stray region (judged (d.storeWrite i x2 true))).reportFlagLost c.key x.sectors x2.sectors))
    ∧ (sectorWriteAt l c = none →
      let isFormat := early c l.enc l.rate
      (¬ isFormat → ∀ e, c.endSlot? = some e →
        let region := slotSpan c.basis.rate c.startSlot e
        let x1 := { x with sectors := x.sectors.map (damaged region) }
        let dirtied := x.sectors.any (fun t =>
          d.hasFlagMap c.key.unit && t.flags.stored != (damaged region t).flags.stored)
        d.decode (some i) c =
          (stray region (d.storeWrite i x1 dirtied)).reportFlagLost c.key x.sectors x1.sectors)
      ∧ (isFormat → ∀ m, d.images.get c.key.unit = some m →
        let refused : Cause → Device → Device := fun cause y => note c .uncorrected cause none y
        (∀ cause, parseFormatWrite c.basis.enc c.fields = .error cause →
          d.decode (some i) c = refused cause d)
        ∧ ∀ w ws, parseFormatWrite c.basis.enc c.fields = .ok (w :: ws) →
          ((∃ y ∈ ws, y.n ≠ w.n) → d.decode (some i) c = refused .formatMixed d)
          ∧ ((∀ y ∈ ws, y.n = w.n) → ∀ old, m.geometry.formatOf c.key.cyl c.key.head = some old →
            let e := noted c (w :: ws) d
            let f := made c w.n old.gap3 (w :: ws)
            let same := l.enc = c.basis.enc ∧ l.rate = c.basis.rate ∧ l.sectors = ws.length + 1
              ∧ l.sizeCode = w.n ∧ x.sectors.map Sector.number = (w :: ws).map WrittenSector.r
            let kept := m.geometry.overrides.filter (fun o => !single c.key.cyl c.key.head o)
            let new : Option TrackFormat :=
              match Geometry.formatOf { m.geometry with overrides := kept } c.key.cyl c.key.head with
              | some p => if f.equalOn p c.key.cyl c.key.head m.geometry.heads = true then none else some f
              | none => some f
            (fitLayout f c.key.cyl c.key.head m.geometry.heads = none →
              d.decode (some i) c = refused .formatFit e)
            ∧ ((fitLayout f c.key.cyl c.key.head m.geometry.heads).isSome = true →
              (same →
                let x1 := storeWritten (w :: ws) l.dataLen x x.sectors
                d.decode (some i) c =
                  (e.storeWrite i x1 true).reportFlagLost c.key x.sectors x1.sectors)
              ∧ (¬ same → f.dataSize ≠ old.dataSize ∨ m.hasFlagMap = true ∧ f.sectors ≠ old.sectors →
                d.decode (some i) c = refused .formatSize e)
              ∧ (¬ same → f.dataSize = old.dataSize → (m.hasFlagMap = true → f.sectors = old.sectors) →
                (m.changeOverride c.key.cyl c.key.head new = .full →
                  d.decode (some i) c = refused .formatTableFull e)
                ∧ ∀ m1 k, m.changeOverride c.key.cyl c.key.head new = .changed m1 →
                  (e.setImage c.key.unit (some m1)).layoutFor c.key = some k →
                  let x1 := storeWritten (w :: ws) k.dataLen { x with layout := some k, data := [] } k.sectorTable
                  let z := (e.setImage c.key.unit (some m1)).storeWrite i x1 true
                  d.decode (some i) c = Device.reportFlagLost
                    (if z.currentTrack c.key.unit = some c.key then
                      Device.finishSlot e (z.closeSection c.key.unit) c.key.unit
                    else z) c.key x.sectors x1.sectors))))))
  ∧ (∀ (d : Device) (c : Capture),
    let isFormat := early c c.basis.enc c.basis.rate
    (¬ isFormat → d.decode none c = d)
    ∧ (isFormat → parseFormatWrite c.basis.enc c.fields ≠ .ok [] ∧ ∀ m, d.images.get c.key.unit = some m →
      let refused : Cause → Device → Device := fun cause y => note c .uncorrected cause none y
      (∀ cause, parseFormatWrite c.basis.enc c.fields = .error cause → d.decode none c = refused cause d)
      ∧ ∀ w ws, parseFormatWrite c.basis.enc c.fields = .ok (w :: ws) →
        ((∃ y ∈ ws, y.n ≠ w.n) → d.decode none c = refused .formatMixed d)
        ∧ ((∀ y ∈ ws, y.n = w.n) →
          let gap := match m.geometry.formatOf c.key.cyl c.key.head with
            | some old => old.gap3
            | none => 1
          let fit := fitLayout (made c w.n gap (w :: ws)) c.key.cyl c.key.head m.geometry.heads
          (fit = none → d.decode none c = refused .formatFit (noted c (w :: ws) d))
          ∧ (fit.isSome = true → d.decode none c = refused .formatSize (noted c (w :: ws) d)))))
  ∧ (∀ (k : Encoding) (f : CapField) (rest : List CapField),
    let d := 128 * 2 ^ (byteAt f.bytes 3).toNat
    (f.kind ≠ .ident → parseFormatWrite k (f :: rest) = parseFormatWrite k rest)
    ∧ (f.kind = .ident → f.bytes.length < 6 → parseFormatWrite k (f :: rest) = .error .formatSize)
    ∧ (f.kind = .ident → 6 ≤ f.bytes.length → 6 < (byteAt f.bytes 3).toNat →
      parseFormatWrite k (f :: rest) = .error .formatFit)
    ∧ (f.kind = .ident → 6 ≤ f.bytes.length → (byteAt f.bytes 3).toNat ≤ 6 →
      ((∀ g more, rest = g :: more → g.kind ≠ .data ∧ g.kind ≠ .deleted ∨ g.bytes.length < d + 2) →
        parseFormatWrite k (f :: rest) = .error .formatSize)
      ∧ ∀ g more, rest = g :: more → (g.kind = .data ∨ g.kind = .deleted) → d + 2 ≤ g.bytes.length →
        parseFormatWrite k (f :: rest) = (parseFormatWrite k more).map (fun ws => writtenSector k f g :: ws)))
  ∧ (∀ (a b : PhaseSpan), 0 < a.len → 0 < b.len →
    (a.overlaps b = true ↔ ∃ i j, i < a.len ∧ j < b.len ∧ (a.start + i) % 200000 = (b.start + j) % 200000))
  ∧ (∀ (l : Layout) (k : Nat),
    let D := 128 * 2 ^ l.sizeCode
    (l.enc = .mfm →
      let s := 128 + k * (62 + D + l.gap3)
      l.start k = s ∧ l.idSpan k = (s, s + 21) ∧ l.dataSpan k = (s + 44, s + 61 + D))
    ∧ (l.enc = .fm →
      let s := 64 + k * (33 + D + l.gap3)
      l.start k = s ∧ l.idSpan k = (s, s + 12) ∧ l.dataSpan k = (s + 24, s + 32 + D))
    ∧ (∀ rate a b, slotSpan rate a b =
      { start := a * (8000000 / rate) % 200000, len := (b + 1 - a) * (8000000 / rate) })
    ∧ ∀ c : Capture, c.startSlot = c.startPhase / (8000000 / c.basis.rate)
      ∧ c.endSlot? = c.lastPhase.map (fun p => p / (8000000 / c.basis.rate)))
  ∧ (∀ (l : Layout) (region : PhaseSpan) (ss : List Sector), 0 < region.len → 0 < l.rate → l.rate ≤ 8000000 →
    let covers : Nat × Nat → Nat → Prop := fun p i =>
      let span := slotSpan l.rate p.1 p.2
      ∃ j < span.len, (region.start + i) % 200000 = (span.start + j) % 200000
    let met : Sector → Nat → Prop := fun t i => covers (l.idSpan t.position) i ∨ covers (l.dataSpan t.position) i
    ((∀ t ∈ ss, ∀ i < region.len, ¬ met t i) → firstMarked l region ss = none)
    ∧ ∀ a t b i, ss = a ++ t :: b → i < region.len → met t i → (∀ y ∈ ss, ∀ j < i, ¬ met y j) →
      (∀ y ∈ a, ¬ met y i) → firstMarked l region ss = some t)
  ∧ (∀ (d : Device) (k : TrackKey) (old new : List Sector),
    let mapped := ∃ m, d.images.get k.unit = some m ∧ m.hasFlagMap = true
    let was : Sector → SectorFlags := fun t =>
      ((old.find? (fun y => y.number == t.number)).map Sector.flags).getD ⟨false, false, false, false, false⟩
    let kept : Sector → Prop := fun t => (was t).deleted = t.flags.deleted
      ∧ (was t).dataCrcBad = t.flags.dataCrcBad ∧ (was t).idCrcBad = t.flags.idCrcBad
      ∧ (was t).noData = t.flags.noData
    (mapped ∨ (∀ t ∈ new, kept t) → d.reportFlagLost k old new = d)
    ∧ ∀ a t b, ¬ mapped → new = a ++ t :: b → (∀ y ∈ a, kept y) → ¬ kept t →
      d.reportFlagLost k old new = d.report
        { cls := .corrected, cause := .flagLost, op := .capture, unit := some k.unit
          track := some { cyl := k.cyl, head := k.head, r := some t.number }, block := none })
  ∧ (∀ (d : Device) (k : TrackKey) (f : TrackFormat) (c h heads : Nat) (l : Layout),
    (fitLayout f c h heads = some l ↔ layoutOf f c h heads = .fit l)
    ∧ (d.layoutFor k = some l ↔ ∃ m g, d.images.get k.unit = some m
      ∧ m.geometry.formatOf k.cyl k.head = some g ∧ layoutOf g k.cyl k.head m.geometry.heads = .fit l)
    ∧ l.sectorTable = l.table.zipIdx.map (fun x =>
      { number := x.1.number, position := x.2, logical := x.1.logical
        flags := ⟨false, false, false, false, false⟩, dirty := false, inFlush := false }))
  ∧ (∀ (m m1 : MountRecord) (c h : Nat) (new : Option TrackFormat),
    let kept := m.geometry.overrides.filter (fun o => !single c h o)
    (m.changeOverride c h new = .full ↔ new.isSome = true ∧ 16 ≤ kept.length)
    ∧ (m.changeOverride c h new = .changed m1 →
      m1.geometry.overrides = kept ++ (new.map (fun f =>
        { firstCyl := c, lastCyl := c, heads := if h = 0 then .head0 else .head1, format := f })).toList
      ∧ m1.core = m.core
      ∧ (m.headerState = .writing → m1.headerState = .writing ∧ m1.reDirtied = true)
      ∧ (m.headerState ≠ .writing → m1.headerState = .dirty ∧ m1.reDirtied = m.reDirtied)))
  ∧ ((∀ (k : Encoding) (f g : CapField),
    let n := (byteAt f.bytes 3).toNat
    let size := 128 * 2 ^ n
    let w := writtenSector k f g
    w.c = (byteAt f.bytes 0).toNat ∧ w.h = (byteAt f.bytes 1).toNat ∧ w.r = (byteAt f.bytes 2).toNat ∧ w.n = n
    ∧ w.data = bytesAt g.bytes 0 size ∧ (w.deleted = true ↔ g.kind = .deleted)
    ∧ (w.idGood = true ↔ bytesAt f.bytes 4 2 = crcBytes
      (idCrc k (byteAt f.bytes 0) (byteAt f.bytes 1) (byteAt f.bytes 2) (byteAt f.bytes 3)))
    ∧ (w.dataGood = true ↔ bytesAt g.bytes size 2 = crcBytes
      (dataCrc k (if g.kind = .deleted then 0xF8 else 0xFB) (bytesAt g.bytes 0 size)))
    ∧ w.idSlot = f.markSlot ∧ w.crcEnd = g.slots.getD (size + 1) 0 + 1)
  ∧ ∀ (k : Encoding) (old : Nat) (w v : WrittenSector) (ws : List WrittenSector),
    let sync := match k with
      | .mfm => 12
      | .fm => 6
    measuredGap k old [w] = old
    ∧ measuredGap k old (w :: v :: ws) = max 1 (min 255 (v.idSlot - (w.crcEnd + sync))))
  ∧ (∀ (r : Nat) (rs : List Nat), least (r :: rs) ∈ r :: rs ∧ ∀ y ∈ r :: rs, least (r :: rs) ≤ y)
  ∧ ∀ (ws : List WrittenSector) (n : Nat) (x : TrackBuffer) (table : List Sector),
    (table.map Sector.logical).Nodup → (∀ w ∈ ws, w.data.length = n) →
    ∀ t ∈ table, ∀ w, ws.find? (fun y => y.r == t.number) = some w →
      { t with
        flags := { deleted := w.deleted, dataCrcBad := !w.dataGood, idCrcBad := !w.idGood, noData := false
                   unreadable := false }
        dirty := true, inFlush := false } ∈ (storeWritten ws n x table).sectors
      ∧ ∀ j < n, (storeWritten ws n x table).data.read (t.logical * n + j) = w.data.getD j 0

/-- R122: a capture is a sector write on the position of the layout, of its encoding and rate, in whose gap-2 window its
start slot lies, when its first field is a DATA or DELETED field whose mark lies at most 40 slots after that start slot.
R123 a to c: a sector write of D + 2 bytes or more replaces the D bytes of its sector, with DATA_CRC_BAD by its CRC, and
clears UNREADABLE; one of fewer bytes, none among them, replaces the leading bytes that it has, at most D, sets DATA_CRC_BAD
and keeps UNREADABLE. Both set DELETED by the mark and dirty, clear NO_DATA and keep ID_CRC_BAD. No other byte, no other
sector and nothing else of the buffer changes. -/
def Obligations.ASectorWriteReplacesItsSector : Prop :=
  (∀ (l : Layout) (c : Capture) (k : Nat),
    let D := 128 * 2 ^ l.sizeCode
    let first := c.startPhase / (8000000 / c.basis.rate)
    let window := match l.enc with
      | .mfm =>
        let s := 128 + k * (62 + D + l.gap3)
        s + 22 ≤ first ∧ first ≤ s + 44
      | .fm =>
        let s := 64 + k * (33 + D + l.gap3)
        s + 13 ≤ first ∧ first ≤ s + 24
    sectorWriteAt l c = some k ↔
      k < l.sectors ∧ c.basis = { enc := l.enc, rate := l.rate } ∧ window
      ∧ ∃ f rest, c.fields = f :: rest ∧ (f.kind = .data ∨ f.kind = .deleted) ∧ f.markSlot ≤ first + 40)
  ∧ (∀ (x : TrackBuffer) (l : Layout) (k : Nat) (f : CapField),
    let y := x.writeSector l k f
    y = { x with data := y.data, sectors := y.sectors }
    ∧ ((∀ t ∈ x.sectors, t.position ≠ k) → y = x))
  ∧ ∀ (x : TrackBuffer) (l : Layout) (k : Nat) (f : CapField) (s : Sector),
    x.sectors.find? (fun t => t.position == k) = some s → f.kind = .data ∨ f.kind = .deleted →
    let y := x.writeSector l k f
    let base := s.logical * l.dataLen
    let good := bytesAt f.bytes l.dataLen 2
      = crcBytes (dataCrc l.enc (if f.kind = .deleted then 0xF8 else 0xFB) (bytesAt f.bytes 0 l.dataLen))
    let left : Bool → (Bool → Bool) → List Sector := fun crcBad unread => x.sectors.map (fun t =>
      if t.position = k then
        { t with
          flags :=
            { deleted := decide (f.kind = .deleted), dataCrcBad := crcBad, idCrcBad := t.flags.idCrcBad
              noData := false, unreadable := unread t.flags.unreadable }
          dirty := true }
      else t)
    (l.dataLen + 2 ≤ f.bytes.length →
      (∀ j, j < l.dataLen → y.data.read (base + j) = f.bytes.getD j 0)
      ∧ (good → y.sectors = left false (fun _ => false))
      ∧ (¬ good → y.sectors = left true (fun _ => false)))
    ∧ (f.bytes.length < l.dataLen + 2 →
      (∀ j, j < l.dataLen → j < f.bytes.length → y.data.read (base + j) = f.bytes.getD j 0)
      ∧ (∀ j, j < l.dataLen → f.bytes.length ≤ j → y.data.read (base + j) = x.data.read (base + j))
      ∧ y.sectors = left true (fun u => u))
    ∧ (∀ a, (a < base ∨ base + l.dataLen ≤ a) → y.data.read a = x.data.read a)

/-! ### The read stream (chapter 5) -/

/-- R26, R99, R100: with no unit selected no slot is delivered; in FILLER a slot carries the filler of the basis. When the
stream of a unit is SILENT, FILLER and TRACK; which buffer it reads, the one in CLEAN, DIRTY or FLUSHING that holds the
current track; and its basis: of the buffer's layout, of the track's format, of the base format of the image, or MFM at
250,000. R12, R99: the next slot is the one under the head, or the first one that begins at or after the end of the slot
that was begun. The model's choices: the command lets time run to the next slot and notes that slot's end
(notes/assumptions/10.md, and with the motor off, when the phase stays 0, notes/assumptions/31.md). -/
def Obligations.FillerIsDelivered : Prop :=
  (∀ s : State, s.dev.selected = none → Answers .readSlot s s.dev)
  ∧ (∀ (s : State) (u : UnitId), s.dev.selected = some u → s.dev.streamMode u = .filler →
    let basis := s.dev.streamBasis u
    let d := (s.dev.advance (s.dev.nextSlot u).1).closeSection u
    let len := 8000000 / basis.rate
    Answers .readSlot s
      { d with
        delivery := d.delivery.set u { d.delivery.get u with
          slotEnd := some (d.now - (d.units.get u).phase % len + len) }
        readData := some
          { value := match basis.enc with
              | .mfm => 0x4E
              | .fm => 0xFF
            basis := basis, broken := false } })
  ∧ (∀ (d : Device) (u : UnitId), 0 < (d.streamBasis u).rate → (d.streamBasis u).rate ≤ 8000000 →
    let r := d.units.get u
    let len := 8000000 / (d.streamBasis u).rate
    ((d.delivery.get u).slotEnd = none → d.nextSlot u = (0, r.phase / len))
    ∧ ∀ t, (d.delivery.get u).slotEnd = some t →
      (r.motor = false → d.nextSlot u = (t - d.now, 0))
      ∧ (r.motor = true → t + r.phase % len ≤ d.now → d.nextSlot u = (0, r.phase / len))
      ∧ ∀ x, r.motor = true → d.now < t + r.phase % len → r.phase + (t - d.now) ≤ x * len →
        x * len < r.phase + (t - d.now) + len →
        d.nextSlot u = (x * len - r.phase, x % ((d.streamBasis u).rate / 40)))
  ∧ ∀ (d : Device) (u : UnitId),
    let r := d.units.get u
    let key : TrackKey := { unit := u, cyl := r.cylinder, head := if r.side = true then 1 else 0 }
    let carries := r.motor = true ∧ r.atSpeed = true ∧ d.banks.offline = false ∧ d.lines.wgate = false
      ∧ ∃ i, d.streamBuffer u = some i
    (∀ i, d.streamBuffer u = some i ↔
      d.images.get u ≠ none ∧ i < 8 ∧ (d.buf i).key = some key
        ∧ ((d.buf i).state = .clean ∨ (d.buf i).state = .dirty ∨ (d.buf i).state = .flushing)
        ∧ ∀ j < i, (d.buf j).state = .free ∨ (d.buf j).key ≠ some key)
    ∧ (d.streamMode u = .silent ↔ d.selected ≠ some u)
    ∧ (d.streamMode u = .track ↔ d.selected = some u ∧ carries)
    ∧ (d.streamMode u = .filler ↔ d.selected = some u ∧ ¬ carries)
    ∧ (d.images.get u = none → d.streamBasis u = { enc := .mfm, rate := 250000 })
    ∧ ∀ m, d.images.get u = some m →
      (∀ i l, d.streamBuffer u = some i → (d.buf i).layout = some l →
        d.streamBasis u = { enc := l.enc, rate := l.rate })
      ∧ (d.streamBuffer u = none →
        (∀ f, m.geometry.formatOf key.cyl key.head = some f →
          d.streamBasis u = { enc := f.enc, rate := f.rate })
        ∧ (m.geometry.formatOf key.cyl key.head = none →
          d.streamBasis u = { enc := m.geometry.base.enc, rate := m.geometry.base.rate }))

/-- R83, R101 to R105, R10: the first slot of the INDEX section, and of the ID or DATA section of a visible sector, opens
that section, with its ID or data decision; the first slot of a section of a sector that is not visible carries filler and
leaves no section open; the data mark slot of a PRESENT field takes the latch, with the sector's data, mark and CRC as they
then stand, and moves the buffer to the head of the LRU order, or makes the decision ABSENT. At every other slot of the
open section the command delivers what the section carries there, and the section closes after its last slot; outside the
open section it delivers filler. The sections carry, in MFM and in FM, the sync run and the mark, C, H, R, N and the CRC of
the ID decision, and the data and the CRC of the latch; the sync run of a PRESENT DATA section comes before the latch, and
is carried without one. An ABSENT field carries filler. The model's choice: the command
lets time run to the next slot, and notes that slot's end (notes/assumptions/10.md); and a slot that began in FILLER and is
delivered when the mode has become TRACK opens the section whose first slot it is (notes/assumptions/41.md). When the mode
is TRACK, and which buffer the stream reads, is stated with FillerIsDelivered. -/
def Obligations.AnIdSectionIsDelivered : Prop :=
  let marked : Encoding → Byte → Byte → List (Byte × Bool) := fun e special mark =>
    match e with
    | .mfm => [(special, true), (special, true), (special, true), (mark, false)]
    | .fm => [(mark, true)]
  let sync : Encoding → List (Byte × Bool)
    | .mfm => List.replicate 12 (0x00, false)
    | .fm => List.replicate 6 (0x00, false)
  let plain : List Byte → List (Byte × Bool) := fun bs => bs.map (fun b => (b, false))
  let check : Encoding → Byte → List Byte → Bool → BitVec 16 := fun e mark bs bad =>
    let c := match e with
      | .mfm => crc ([0xA1, 0xA1, 0xA1, mark] ++ bs)
      | .fm => crc (mark :: bs)
    if bad then ~~~c else c
  let fill : Encoding → Byte × Bool
    | .mfm => (0x4E, false)
    | .fm => (0xFF, false)
  let indexAt : Encoding → Nat
    | .mfm => 64
    | .fm => 32
  let dataAt : Encoding → Nat
    | .mfm => 44
    | .fm => 24
  let latchAt : Encoding → Nat
    | .mfm => 56
    | .fm => 30
  let delivered : State → UnitId → Layout → Delivery → Byte × Bool → Device := fun s u l x b =>
    let d := s.dev.advance (s.dev.nextSlot u).1
    let len := 8000000 / l.rate
    { d with
      delivery := d.delivery.set u { x with slotEnd := some (d.now - (d.units.get u).phase % len + len) }
      readData := some { value := b.1, basis := { enc := l.enc, rate := l.rate }, broken := b.2 } }
  let opened : StreamSection → Option IdDecision → Option DataDecision → Delivery := fun sec i t =>
    { openSection := some sec, idDecision := i, dataDecision := t, latch := none, slotEnd := none }
  let closed : Delivery :=
    { openSection := none, idDecision := none, dataDecision := none, latch := none, slotEnd := none }
  let idLen : Encoding → Nat
    | .mfm => 22
    | .fm => 13
  let first : Layout → StreamSection → Nat := fun l => fun
    | .index => indexAt l.enc
    | .ident k => l.start k
    | .data k => l.start k + dataAt l.enc
  let last : Layout → StreamSection → Nat := fun l => fun
    | .index => indexAt l.enc + (sync l.enc ++ marked l.enc 0xC2 0xFC).length - 1
    | .ident k => l.start k + idLen l.enc - 1
    | .data k => l.start k + latchAt l.enc + (marked l.enc 0xA1 0xFB).length + l.dataLen + 1
  (∀ (s : State) (u : UnitId) (i : Nat) (l : Layout),
    s.dev.selected = some u → s.dev.streamMode u = .track → s.dev.streamBuffer u = some i →
    (s.dev.buf i).layout = some l →
    ((s.dev.nextSlot u).2 = indexAt l.enc →
      Answers .readSlot s (delivered s u l (opened .index none none) (0x00, false)))
    ∧ ∀ (k : Nat) (x : Sector) (key : TrackKey), (s.dev.buf i).key = some key → k < l.sectors →
      (s.dev.buf i).sectorAt k = some x →
      ((s.dev.buf i).visible l k = true →
        ((s.dev.nextSlot u).2 = l.start k → Answers .readSlot s
          (delivered s u l (opened (.ident k) (some
            { c := key.cyl, h := key.head, r := x.number, n := l.sizeCode
              complemented := x.flags.idCrcBad }) none) (0x00, false)))
        ∧ ((s.dev.nextSlot u).2 = l.start k + dataAt l.enc →
          (x.flags.noData = false → Answers .readSlot s
            (delivered s u l (opened (.data k) none (some .present)) (0x00, false)))
          ∧ (x.flags.noData = true → Answers .readSlot s
            (delivered s u l (opened (.data k) none (some .absent)) (fill l.enc)))))
      ∧ ((s.dev.delivery.get u).openSection = some (.data k) →
        (s.dev.delivery.get u).dataDecision = some .present →
        (s.dev.nextSlot u).2 = l.start k + latchAt l.enc → (∀ j < 8, j ∈ s.dev.pool.lru) →
        (x.flags.noData = true → Answers .readSlot s
          (delivered s u l { s.dev.delivery.get u with dataDecision := some .absent } (fill l.enc)))
        ∧ (x.flags.noData = false →
          let data := (s.dev.buf i).data.readRange (x.logical * l.dataLen) l.dataLen
          let mark : Byte := if x.flags.deleted then 0xF8 else 0xFB
          let y : DataLatch :=
            { data := data, mark := mark
              crc := check l.enc mark data (x.flags.dataCrcBad || x.flags.unreadable) }
          Answers .readSlot s
            { delivered s u l { s.dev.delivery.get u with latch := some y }
                ((marked l.enc 0xA1 mark).headD (0x00, false)) with
              pool := { s.dev.pool with lru := i :: s.dev.pool.lru.filter (fun j => j != i) } })))
  ∧ (∀ (s : State) (u : UnitId) (i : Nat) (l : Layout),
    s.dev.selected = some u → s.dev.streamMode u = .track → s.dev.streamBuffer u = some i →
    (s.dev.buf i).layout = some l →
    let n := (s.dev.nextSlot u).2
    let x := s.dev.delivery.get u
    (∀ k < l.sectors, (s.dev.buf i).visible l k = false → n = l.start k ∨ n = l.start k + dataAt l.enc →
      Answers .readSlot s (delivered s u l closed (fill l.enc)))
    ∧ (n ≠ indexAt l.enc → (∀ k < l.sectors, n ≠ l.start k ∧ n ≠ l.start k + dataAt l.enc) →
      (x.openSection = none → Answers .readSlot s (delivered s u l x (fill l.enc)))
      ∧ ∀ sec, x.openSection = some sec →
        (n < first l sec ∨ last l sec < n → Answers .readSlot s (delivered s u l closed (fill l.enc)))
        ∧ (n = last l sec → Answers .readSlot s (delivered s u l closed (x.byteAt l n)))
        ∧ (first l sec ≤ n → n < last l sec →
          (∀ k, sec = .data k → x.dataDecision = some .present → n ≠ l.start k + latchAt l.enc) →
          Answers .readSlot s (delivered s u l x (x.byteAt l n)))))
  ∧ ∀ (x : Delivery) (l : Layout) (o : Nat),
    (x.openSection = some .index →
      let bs := sync l.enc ++ marked l.enc 0xC2 0xFC
      o < bs.length → bs[o]? = some (x.byteAt l (indexAt l.enc + o)))
    ∧ (∀ k i, x.openSection = some (.ident k) → x.idDecision = some i →
      let ids := [BitVec.ofNat 8 i.c, BitVec.ofNat 8 i.h, BitVec.ofNat 8 i.r, BitVec.ofNat 8 i.n]
      let bs := sync l.enc ++ marked l.enc 0xA1 0xFE
        ++ plain (ids ++ crcBytes (check l.enc 0xFE ids i.complemented))
      o < bs.length → bs[o]? = some (x.byteAt l (l.start k + o)))
    ∧ (∀ k y, x.openSection = some (.data k) → x.dataDecision = some .present → x.latch = some y →
      let bs := sync l.enc ++ marked l.enc 0xA1 y.mark ++ plain (y.data ++ crcBytes y.crc)
      o < bs.length → bs[o]? = some (x.byteAt l (l.start k + dataAt l.enc + o)))
    ∧ (∀ k, x.openSection = some (.data k) → x.dataDecision = some .present → o < (sync l.enc).length →
      x.byteAt l (l.start k + dataAt l.enc + o) = (0x00, false))
    ∧ (∀ k, x.openSection = some (.data k) → x.dataDecision = some .absent → x.byteAt l o = fill l.enc)
    ∧ (x.openSection = none → x.byteAt l o = fill l.enc)
    ∧ ∀ (b : TrackBuffer) (k : Nat), b.visible l k = true ↔
      ∀ p, b.completion = some p → p ≤ l.start k * (8000000 / l.rate)

/-! ### The card and the arbiter (chapter 7) -/

/-- R135: a card that is inserted begins its initialization. The model's choice: an assertion in another state, which R135
says does not occur, or of a line asserted already, changes the line alone (notes/assumptions/1.md). That requests still
in the set are emptied is notes/assumptions/12.md. -/
def Obligations.AnInsertedCardIsInitialized : Prop :=
  ∀ s : State,
    let d := { s.dev with lines := { s.dev.lines with cardDetect := true } }
    let e := { d with card := { d.card with
      state := .initializing, capacity := none, initTime := some 0, requests := [], resetWaits := false } }
    (s.dev.card.state = .absent → s.dev.lines.cardDetect = false →
      Reaches .cardDetectAssert s e ∧ (s.dev.card.requests = [] → Answers .cardDetectAssert s e))
    ∧ (s.dev.card.state ≠ .absent ∨ s.dev.lines.cardDetect = true → Answers .cardDetectAssert s d)

/-- R135, R136, R149: the ends of an initialization: READY on a capacity of 1 block or more, FAILED with INIT_FAIL on
a capacity of 0 or after 1,000,000 µs; a CARD_RESET ends with it. The model's choices: the time-out lets time run to
its moment (notes/assumptions/6.md), an answer after it is not taken (notes/assumptions/11.md), and outside an
initialization both commands change nothing (notes/assumptions/1.md). -/
def Obligations.AnInitializationEnds : Prop :=
  let told : Device → TermClass → Detail → Device := fun d cls detail =>
    if d.port.engine = .executing .cardReset then
      { d with port := { d.port with
        engine := .result { cls := cls, detail := detail, code := 0x42, bytes := [] } } }
    else d
  let failed : Device → Device := fun d =>
    told (Device.report { d with card := { d.card with state := .failed, capacity := none, initTime := none } }
      { cls := .uncorrected, cause := .initFail, op := .init, unit := none, track := none, block := none })
      .failed .cardError
  (∀ (s : State) (t : Nat) (n : BitVec 32), s.dev.card.state = .initializing →
    s.dev.card.initTime = some t → t < 1000000 →
    (n ≠ 0 → Answers (.cardInitAnswer n) s
      (told { s.dev with card :=
        { s.dev.card with state := .ready, capacity := some n.toNat, initTime := none, grants := 0 } }
        .done .none))
    ∧ (n = 0 → Leads (.cardInitAnswer n) s (failed s.dev)))
  ∧ (∀ (s : State) (t : Nat) (n : BitVec 32), s.dev.card.state = .initializing →
    s.dev.card.initTime = some t → 1000000 ≤ t → Answers (.cardInitAnswer n) s s.dev)
  ∧ (∀ (s : State) (t : Nat), s.dev.card.state = .initializing → s.dev.card.initTime = some t →
    Leads .cardInitTimeout s (failed (s.dev.advance (1000000 - t))))
  ∧ ∀ (s : State) (n : BitVec 32), s.dev.card.state ≠ .initializing ∨ s.dev.card.initTime = none →
    Answers (.cardInitAnswer n) s s.dev ∧ Answers .cardInitTimeout s s.dev

/-- R96, R132, R146, R147, R148, R162: a card that is taken out takes the images and the contents of their Extent Windows,
the buffers, the captures, the changes and the command that waits on it, and is reported when a unit carried an image or
a change, with the unit whose buffers were unsaved, if it is one alone; in ABSENT only the line changes. The model's
choice: the continuation point of a window with no image is block, group and descriptor 0 (notes/assumptions/43.md). -/
def Obligations.ARemovedCardTakesEverything : Prop :=
  (∀ s : State, s.dev.card.state = .absent → Answers .cardDetectRelease s
    { s.dev with lines := { s.dev.lines with cardDetect := false } })
  ∧ ∀ s : State, s.dev.card.state ≠ .absent →
    ∃ t, exec .cardDetectRelease s = .next t ∧ t.pending = s.pending
      ∧ t.dev.now = s.dev.now ∧ t.dev.lines = { s.dev.lines with cardDetect := false }
      ∧ t.dev.card = CardRecord.reset ∧ t.dev.images = ⟨none, none⟩ ∧ t.dev.captures = ⟨none, none⟩
      ∧ (∀ i < 8, (t.dev.buf i).state = .free) ∧ t.dev.pool.queue = [] ∧ t.dev.pool.waits = []
      ∧ t.dev.seq.pending = ⟨none, none⟩
      ∧ t.dev.seq.group = s.dev.seq.group.map (fun _ => ⟨Change.empty, Change.empty⟩)
      ∧ (∀ u, t.dev.units.get u =
        let r := s.dev.units.get u
        let carried := s.dev.mounted u || (s.dev.seq.pending.get u).isSome
        { r with
          latch := r.latch || s.dev.mounted u, protect := r.protect && !s.dev.mounted u
          lost := r.lost || carried })
      ∧ ((∀ i < 8, (s.dev.buf i).state = .free → (s.dev.buf i).work = none) →
        let carried : Prop := ∃ u, s.dev.mounted u = true ∨ s.dev.seq.pending.get u ≠ none
        let unsaved : UnitId → Prop := fun u => ∃ i < 8, s.dev.ownedBy i u = true
          ∧ ((s.dev.buf i).state = .dirty ∨ (s.dev.buf i).state = .flushing)
        let reported : Option UnitId → Prop := fun unit => t.dev.banks =
          { (s.dev.report { cls := .uncorrected, cause := .cardRemoved, op := .flush, unit := unit, track := none
                            block := none }).banks with entryOwed := false }
        t.dev.windows = ⟨ExtentWindow.empty ⟨0, 0, 0⟩, ExtentWindow.empty ⟨0, 0, 0⟩⟩
        ∧ (¬ carried → t.dev.banks = { s.dev.banks with entryOwed := false })
        ∧ (carried → (∀ u, unsaved u → ¬ unsaved u.other → reported (some u))
          ∧ ((∀ u, unsaved u ↔ unsaved u.other) → reported none)))
      ∧ t.dev.port = { s.dev.port with engine :=
        match s.dev.port.engine with
        | .executing (.mount _) => .result ⟨.failed, .cardAbsent, 0x20, []⟩
        | .executing (.readBlocks _ _) => .result ⟨.failed, .cardAbsent, 0x40, []⟩
        | .executing (.writeBlocks _ _) => .result ⟨.failed, .cardAbsent, 0x41, []⟩
        | .executing .cardReset => .result ⟨.failed, .cardAbsent, 0x42, []⟩
        | .executing (.sectors c) =>
          .result ⟨.displaced, .cardAbsent,
            match c.op with
            | .read => 0x30
            | .write _ => 0x31
            | .verify => 0x32, []⟩
        | .executing (.flush _) => .result ⟨.displaced, .cardAbsent, 0x33, []⟩
        | e => e }

/-- R138, R139, R142: a grant goes to the retry that is owed, else at the starvation bound to the oldest request of
class D, else to the oldest request of the highest class; the consecutive-grant count follows. R67, R92, R176: the bytes
that a WRITE run takes at its grant, of the header, of a flush's blocks as the buffer then holds them, or of the Data
Window; the header becomes WRITING. R137, R139 a: a request joins the set with its time, or fails at once outside READY.
R138: when a grant can be made. R62, R75, R94, R137: the class of each request: a group fetch is A; a fill is B while its
track is current (R72), else D while a sector command waits on it, else E; the Command Engine's is D; a flush and a header
write are C with six or more buffers DIRTY or FLUSHING, a flush also with the eviction mark, and F else; R158: a pending
change does not raise a class.
The model's choice: without the conditions of a grant the command changes nothing (notes/assumptions/1.md). -/
def Obligations.AGrantGoesByClassAndAge : Prop :=
  (∀ s : State, s.dev.canGrant = false → Answers .runGrant s s.dev)
  ∧ (∀ s : State, s.dev.card.state = .ready → s.dev.card.run = none →
    (∀ run cause, s.dev.card.retry = some (run, cause) →
      Answers .runGrant s { s.dev with card :=
        { s.dev.card with
          retry := none
          run := some { req := run.req, cls := run.cls, firstCause := some cause, granted := s.dev.now
                        bytes := s.dev.runBytes run.req, withdrawn := false } } })
    ∧ ∀ cls : ArbClass, s.dev.card.retry = none →
      let waits : ArbClass → Prop := fun k => ∃ q ∈ s.dev.card.requests, s.dev.requestClass q = k
      (8 ≤ s.dev.card.grants ∧ waits .d ∧ cls = .d
        ∨ ¬ (8 ≤ s.dev.card.grants ∧ waits .d) ∧ waits cls ∧ ∀ k, k.rank < cls.rank → ¬ waits k) →
      ∃ r n, r ∈ s.dev.card.requests ∧ s.dev.requestClass r = cls
        ∧ (∀ q ∈ s.dev.card.requests, s.dev.requestClass q = cls → r.time ≤ q.time)
        ∧ Answers .runGrant s (Device.markWriting
          { s.dev with
            freeCount := n
            card :=
              { s.dev.card with
                requests := s.dev.card.requests.filter (fun x => x.who != r.who)
                grants :=
                  if cls = .d then 0
                  else if s.dev.waitsD = true ∧ (cls = .a ∨ cls = .b ∨ cls = .c) then
                    s.dev.card.grants + 1
                  else s.dev.card.grants
                run := some { req := r, cls := cls, firstCause := none, granted := s.dev.now
                              bytes := s.dev.runBytes r, withdrawn := false } } } r))
  ∧ (∀ (d : Device) (q : Request), (q.kind = .read → d.runBytes q = [])
    ∧ (q.kind = .write →
      (∀ u m, q.who = .header u → d.images.get u = some m → d.runBytes q = m.headerBytes)
      ∧ (q.who = .engine → d.runBytes q = (List.range (q.count * 512)).map d.port.window.read)
      ∧ ∀ i k m w card n, q.who = .buffer i → (d.buf i).key = some k → d.images.get k.unit = some m →
        (d.buf i).work = some w → w.stage = .writing card n →
        d.runBytes q = ((w.todo.take n).zipIdx.map (fun b =>
          flushBlockBytes m k (d.buf i) b.1 (bytesAt w.taken (b.2 * 512) 512))).flatten)
    ∧ (∀ u m, q.who = .header u → d.images.get u = some m →
      d.markWriting q = { d with images := d.images.set u (some { m with headerState := .writing }) })
    ∧ ((∀ u, q.who ≠ .header u) → d.markWriting q = d))
  ∧ (∀ (d : Device) (q : Request),
    let asked : Request := { q with time := d.now }
    (d.card.state = .ready → d.request q = { d with card := { d.card with
      requests := d.card.requests ++ [asked]
      grants :=
        if d.requestClass asked = .d ∧ ∀ x ∈ d.card.requests, d.requestClass x ≠ .d then 0 else d.card.grants } })
    ∧ (d.card.state ≠ .ready →
      d.request q = { d with news := d.news ++ [{ who := q.who, ok := false, data := [] }] }))
  ∧ ∀ d : Device,
    let many := 6 ≤ ((List.range 8).filter
      (fun j => (d.buf j).state = .dirty ∨ (d.buf j).state = .flushing)).length
    let current : TrackKey → Prop := fun k =>
      d.images.get k.unit ≠ none ∧ (d.units.get k.unit).motor = true ∧ k.cyl = (d.units.get k.unit).cylinder
          ∧ k.head = (if (d.units.get k.unit).side = true then 1 else 0)
        ∨ ∃ c, d.captures.get k.unit = some c ∧ c.state = .pending ∧ c.key = k
    let commanded : TrackKey → Prop := fun k => ∃ c, d.port.engine = .executing (.sectors c) ∧ c.key = k
    (d.canGrant = true ↔ d.card.state = .ready ∧ d.card.run = none
      ∧ (d.card.retry ≠ none ∨ d.card.requests ≠ []))
    ∧ ∀ q : Request,
      (∀ u, q.who = .window u → d.requestClass q = .a)
      ∧ (q.who = .engine → d.requestClass q = .d)
      ∧ (∀ u, q.who = .header u → d.requestClass q = if many then .c else .f)
      ∧ (∀ i, q.who = .buffer i →
        (∀ k, (d.buf i).state = .filling → (d.buf i).key = some k →
          (current k → d.requestClass q = .b)
          ∧ (¬ current k → commanded k → d.requestClass q = .d)
          ∧ (¬ current k → ¬ commanded k → d.requestClass q = .e))
        ∧ ((d.buf i).state = .flushing →
          d.requestClass q = if many ∨ (d.buf i).evict = true then .c else .f))
      ∧ (∀ p, Device.requestClass { d with seq := { d.seq with pending := p } } q = d.requestClass q)
      ∧ (∀ k, (d.purpose k = .current ↔ current k) ∧ (d.purpose k = .loader ↔ ¬ current k ∧ commanded k)
        ∧ (d.purpose k = .prefetch ↔ ¬ current k ∧ ¬ commanded k))
      ∧ ∀ i, d.bufCurrent i = true ↔ (d.buf i).state ≠ .free ∧ ∃ k, (d.buf i).key = some k ∧ current k

/-- R140, R141, R142, R145, R149: the card answers the run in flight. A good answer ends it and tells its requester; after
a retry it is reported CORRECTED; a first failure owes a retry; a failure of the retry, or of a run whose requester
withdrew, is UNCORRECTED. A run that does not lie below the capacity fails as rejected. A CARD_RESET that waits for the run
begins the initialization when the run has ended, and not while a retry is owed (notes/assumptions/27.md, an inference), and
the requests still in the set fail then (notes/assumptions/12.md).
The model's choices: the report of the run comes before its effects on the requester (notes/assumptions/15.md), the
requesters of requests that fail together hear of it in their order (notes/assumptions/42.md), an answer with no run, or 250,000 µs after the grant, changes nothing (notes/assumptions/1.md and
11.md), and the bytes of a READ are cut or filled with 00 to the run's length (notes/assumptions/11.md). -/
def Obligations.TheCardAnswersARun : Prop :=
  (∀ (s : State) (a : CardAnswer),
    (s.dev.card.run = none ∨ ∃ r, s.dev.card.run = some r ∧ r.granted + 250000 ≤ s.dev.now) →
    Answers (.runEnd a) s s.dev)
  ∧ ∀ (s : State) (r : Run), s.dev.card.run = some r → s.dev.now < r.granted + 250000 →
    let d := { s.dev with card := { s.dev.card with run := none } }
    let told : Device → Bool → List Byte → Device := fun x ok data =>
      if r.withdrawn then x else { x with news := x.news ++ [{ who := r.req.who, ok := ok, data := data }] }
    let ended : Device → Device := fun x =>
      if s.dev.card.resetWaits = true then
        { x with
          news := x.news ++ x.card.requests.map (fun q => { who := q.who, ok := false, data := [] })
          card := { x.card with state := .initializing, capacity := none, initTime := some 0, requests := []
                                resetWaits := false } }
      else x
    let report : ReportClass → RunCause → Report := fun cls c =>
      { cls := cls
        cause := match c with
          | .crc => .cardCrc
          | .reject => .cardReject
          | .timeout => .cardTimeout
        op := r.req.op, unit := r.req.unit, track := r.req.track, block := some r.req.block }
    let within := r.req.block + r.req.count ≤ s.dev.card.capacity.getD 0
    (within → ∀ data, let data' := if r.req.kind = .read then bytesAt data 0 (r.req.count * 512) else []
      (r.firstCause = none → Leads (.runEnd (.complete data)) s (ended (told d true data')))
      ∧ ∀ c, r.firstCause = some c →
        Leads (.runEnd (.complete data)) s (ended (told (d.report (report .corrected c)) true data')))
    ∧ ∀ (a : CardAnswer) (c : RunCause),
      (a = .badCheck ∧ c = .crc ∨ a = .error ∧ c = .reject
        ∨ ¬ within ∧ (∃ data, a = .complete data) ∧ c = .reject) →
      (r.firstCause = none → r.withdrawn = false → Answers (.runEnd a) s
        { d with card := { d.card with retry := some (r, c) } })
      ∧ (r.firstCause.isSome = true ∨ r.withdrawn = true →
        Leads (.runEnd a) s (ended ((told d false []).report (report .uncorrected c))))

/-- R141 c, R142, R144, R145, R149: a run times out 250,000 µs after its grant. A first failure owes a retry; a failure of
the retry, or of a run whose requester withdrew, is told to the requester and reported UNCORRECTED CARD_TIMEOUT. Two
time-outs of one run take the card to FAILED: every request in the set fails, the capacity goes and the grant count is 0. A
CARD_RESET that waits for the run begins the initialization when the run has ended, and not while a retry is owed
(notes/assumptions/27.md, an inference; requests still in the set: notes/assumptions/12.md). The model's choices: the
command lets time run to the time-out (notes/assumptions/6.md), the report of the run comes before its effects on the
requester (notes/assumptions/15.md), the requesters of requests that fail together hear of it in their order
(notes/assumptions/42.md), and with no run the command changes nothing (notes/assumptions/1.md). -/
def Obligations.ARunTimesOut : Prop :=
  (∀ s : State, s.dev.card.run = none → Answers .runTimeout s s.dev)
  ∧ ∀ (s : State) (r : Run), s.dev.card.run = some r →
    let d0 := s.dev.advance (r.granted + 250000 - s.dev.now)
    let d := { d0 with card := { d0.card with run := none } }
    let lost : Device :=
      Device.report
        (if r.withdrawn then d
          else { d with news := d.news ++ [{ who := r.req.who, ok := false, data := [] }] })
        { cls := .uncorrected, cause := .cardTimeout, op := r.req.op, unit := r.req.unit, track := r.req.track
          block := some r.req.block }
    let failAll : Device → Device := fun x =>
      { x with
        news := x.news ++ x.card.requests.map (fun q => { who := q.who, ok := false, data := [] })
        card := { x.card with requests := [] } }
    let ended : Device → Device := fun x =>
      if s.dev.card.resetWaits = true then
        { failAll x with card :=
          { x.card with state := .initializing, capacity := none, initTime := some 0, requests := []
                        resetWaits := false } }
      else x
    let failed : Device :=
      { failAll lost with card :=
        { lost.card with state := .failed, capacity := none, requests := [], grants := 0 } }
    (r.firstCause = none → r.withdrawn = false → Answers .runTimeout s
      { d with card := { d.card with retry := some (r, .timeout) } })
    ∧ (r.firstCause = some .timeout → r.withdrawn = false → Leads .runTimeout s (ended failed))
    ∧ (r.firstCause.isSome = true ∧ r.firstCause ≠ some .timeout ∨ r.withdrawn = true →
      Leads .runTimeout s (ended lost))

/-! ### Write-back and pending changes (chapters 4 and 8) -/

/-- R90, R91: a flush starts for a unit: the entry with the eviction mark, or the unit's first, leaves the queue; its
buffer becomes FLUSHING with its dirty sectors in-flush, and its data as it was. R91: which blocks it writes, whole and
partial, and that the flush starts with them; the READ of a partial run is followed by its WRITE, a WRITE that ends well has
done with its blocks, and a run that fails counts its blocks as failed (R93 a). R71, R92: every byte of a block: of the buffer where a stored sector or its flag byte lies, of the card elsewhere, so that
the data of an UNREADABLE sector is never written. R93:
the end of a flush, CLEAN, DIRTY as re-dirtied, or DIRTY with the sectors that failed blocks carried, which ends a FLUSH
that names the unit FAILED. R51, R79: the blocks that carry a sector. Where the data and the flag byte of a sector lie (R51)
is in AValidatedImageIsStagedOrPending, and the bits of its flag byte are in SectorsAreWritten. The model's choices: without its conditions the command changes nothing
(notes/assumptions/1.md); a block at an offset that is no multiple of 512 is tested byte by byte (notes/assumptions/35.md);
only sectors in-flush take dirty again (notes/assumptions/19.md); of two buffers whose flush goes on at one event the one
with the lower number goes on first (notes/assumptions/42.md). -/
def Obligations.AFlushStarts : Prop :=
  (∀ (s : State) (u : UnitId), (s.dev.card.state ≠ .ready ∨ s.dev.flushing u = true
      ∨ ∀ i ∈ s.dev.pool.queue, s.dev.ownedBy i u = false) →
    Answers (.flushStart u) s s.dev)
  ∧ (∀ (s : State) (u : UnitId) (i : Nat) (k : TrackKey) (m : MountRecord), s.dev.card.state = .ready →
    s.dev.flushing u = false → (s.dev.buf i).key = some k → s.dev.images.get u = some m →
    (let mine := s.dev.pool.queue.filter (fun j => s.dev.ownedBy j u);
      mine.find? (fun j => (s.dev.buf j).evict) = some i
      ∨ mine.find? (fun j => (s.dev.buf j).evict) = none ∧ mine.head? = some i) →
    k.unit = u ∧
    Leads (.flushStart u) s (Device.requestHeader
      { s.dev with pool :=
        { s.dev.pool with
          buffers := s.dev.pool.buffers.set i ((s.dev.buf i).snapshot m k)
          queue := s.dev.pool.queue.filter (fun j => j != i) } } u))
  ∧ (∀ (x : TrackBuffer) (m : MountRecord) (k : TrackKey),
    let taken : TrackBuffer := { x with
      state := .flushing, reDirtied := false, dirtySince := none
      sectors := x.sectors.map (fun (s : Sector) => { s with dirty := false, inFlush := s.dirty || s.inFlush }) }
    x.snapshot m k = { taken with
      work := some { todo := flushBlocks m k taken, stage := .next, taken := [], failed := [] } })
  ∧ (∀ (d : Device) (i : Nat) (k : TrackKey) (m : MountRecord) (w : Work) (card n : Nat), (d.buf i).state = .flushing →
    (d.buf i).key = some k → (d.buf i).work = some w → d.images.get k.unit = some m →
    let put : Work → Device := fun v =>
      { d with pool := { d.pool with buffers := d.pool.buffers.set i { d.buf i with work := some v } } }
    let rest : Work := { w with todo := w.todo.drop n, stage := .next, taken := [] }
    let lost : Work := { rest with failed := w.failed ++ (w.todo.take n).map WorkBlock.image }
    (w.stage = .reading card n →
      (∀ data, d.deliver { who := .buffer i, ok := true, data := data } =
        (put { w with stage := .writing card n, taken := data }).request
          { who := .buffer i, kind := .write, block := card, count := n, time := 0, op := .flush
            unit := some k.unit, track := some { cyl := k.cyl, head := k.head, r := none } })
      ∧ d.deliver { who := .buffer i, ok := false, data := [] } = put lost)
    ∧ (w.stage = .writing card n →
      (∀ data, d.deliver { who := .buffer i, ok := true, data := data } = put rest)
      ∧ d.deliver { who := .buffer i, ok := false, data := [] } = put lost))
  ∧ (∀ (m : MountRecord) (k : TrackKey) (x : TrackBuffer) (b : Nat), (∀ t ∈ x.sectors, t.logical < x.sectors.length) →
    let stores : Sector → Prop := fun t => t.inFlush = true ∧ t.flags.unreadable = false
    let isData : Sector → Nat → Prop := fun t o =>
      m.dataOffset k.cyl k.head t.logical x.dataLen ≤ o
        ∧ o < m.dataOffset k.cyl k.head t.logical x.dataLen + x.dataLen
    let isFlag : Sector → Nat → Prop := fun t o =>
      m.hasFlagMap = true ∧ m.flagOffset k.cyl k.head t.logical = o
    let carries : Prop := ∃ t ∈ x.sectors, stores t ∧ ∃ j < 512, isData t (b * 512 + j)
    let whole : Prop :=
      512 ≤ x.dataLen ∧ ∀ j < 512, ∃ t ∈ x.sectors, stores t ∧ isData t (b * 512 + j)
    (⟨b, .whole⟩ ∈ flushBlocks m k x ↔ carries ∧ whole)
    ∧ (⟨b, .partialBlock⟩ ∈ flushBlocks m k x ↔
      carries ∧ ¬ whole ∨ ∃ t ∈ x.sectors, stores t ∧ ∃ j < 512, isFlag t (b * 512 + j))
    ∧ ∀ (read : List Byte) (j : Nat), j < 512 →
      (flushBlockBytes m k x ⟨b, .whole⟩ read)[j]?
        = some (x.data.read (b * 512 - m.offsetOf k.cyl k.head + j))
      ∧ ((∃ t ∈ x.sectors, stores t ∧ isData t (b * 512 + j)) →
        (flushBlockBytes m k x ⟨b, .partialBlock⟩ read)[j]?
          = some (x.data.read (b * 512 + j - m.offsetOf k.cyl k.head)))
      ∧ ((¬ ∃ t ∈ x.sectors, stores t ∧ isData t (b * 512 + j)) →
        (∀ t ∈ x.sectors, stores t → isFlag t (b * 512 + j) → (x.sectors.map Sector.logical).Nodup →
          (flushBlockBytes m k x ⟨b, .partialBlock⟩ read)[j]? = some t.flags.stored)
        ∧ ((¬ ∃ t ∈ x.sectors, stores t ∧ isFlag t (b * 512 + j)) →
          (flushBlockBytes m k x ⟨b, .partialBlock⟩ read)[j]? = some (byteAt read j))))
  ∧ (∀ (m : MountRecord) (k : TrackKey) (size : Nat) (t : Sector) (b : Nat),
    (m.dataTouches k size t b = true ↔ ∃ j < size, (m.dataOffset k.cyl k.head t.logical size + j) / 512 = b)
    ∧ (m.flagTouches k t b = true ↔ m.hasFlagMap = true ∧ m.flagOffset k.cyl k.head t.logical / 512 = b))
  ∧ ∀ (d : Device) (i : Nat) (k : TrackKey) (m : MountRecord) (w : Work), (d.buf i).key = some k →
    (d.buf i).work = some w → d.images.get k.unit = some m →
    let x := d.buf i
    let ended : BufferState → Option Nat → Device := fun state since =>
      let y : TrackBuffer :=
        { x with
          state := state, dirtySince := since, reDirtied := false, evict := false, work := none
          sectors := x.sectors.map (fun t =>
            { t with
              dirty := t.dirty || (t.inFlush
                && w.failed.any (fun b => m.dataTouches k x.dataLen t b || m.flagTouches k t b))
              inFlush := false }) }
      { d with pool := { d.pool with buffers := d.pool.buffers.set i y } }
    (d.banks.entryOwed = false → d.news = [] → bufferIds.find? d.workIdle = some i → w.todo = [] →
      x.state ≠ .filling → d.micro = some (d.endFlush i))
    ∧ (w.failed = [] → x.reDirtied = false → d.endFlush i = ended .clean none)
    ∧ (w.failed = [] → x.reDirtied = true →
      let e := ended .dirty x.dirtySince
      let joins := e.bufCurrent i = false ∨ (d.seq.pending.get k.unit).isSome = true ∨ d.flushNames k.unit = true
        ∨ ∃ t, x.dirtySince = some t ∧ t + 2000000 ≤ d.now
      (joins → i ∉ d.pool.queue →
        d.endFlush i = { e with pool := { e.pool with queue := d.pool.queue ++ [i] } })
      ∧ (¬ joins ∨ i ∈ d.pool.queue → d.endFlush i = e))
    ∧ (w.failed ≠ [] →
      (d.flushNames k.unit = false → d.endFlush i = ended .dirty (some d.now))
      ∧ (d.flushNames k.unit = true → d.endFlush i =
        { ended .dirty (some d.now) with port := { d.port with
          engine := .result { cls := .failed, detail := .cardError, code := 0x33, bytes := [] } } }))

/-- R88 c, R89: at the dirty-since expiry a DIRTY buffer that is not queued joins the queue at its tail; another
buffer does not. The model's choices: the command lets time run to the expiry (notes/assumptions/6.md), and of a buffer
with no dirty-since time it changes nothing (notes/assumptions/1.md). -/
def Obligations.AnExpiryQueuesItsBuffer : Prop :=
  (∀ (s : State) (i : Fin 8) (t : Nat), (s.dev.buf i).dirtySince = some t →
    let d := s.dev.advance (t + 2000000 - s.dev.now)
    ((s.dev.buf i).state = .dirty → i.val ∉ s.dev.pool.queue →
      Answers (.dirtySinceExpiry i) s { d with pool := { d.pool with queue := d.pool.queue ++ [i.val] } })
    ∧ ((s.dev.buf i).state ≠ .dirty ∨ i.val ∈ s.dev.pool.queue → Answers (.dirtySinceExpiry i) s d))
  ∧ ∀ (s : State) (i : Fin 8), (s.dev.buf i).dirtySince = none → Answers (.dirtySinceExpiry i) s s.dev

/-- R159, R160, R161: a pending change applies to a clear unit at its moment; when a unit is clear (R159 a) and which
moments those are (R159 b) is stated last. A protect part alone changes protect and
APPLIED. An image part frees the unit's buffers and drops their requests, mounts its own record or removes the image,
sets protect by steps 2 and 3, empties the Extent Window at the new chain start, sets the latch and APPLIED, and
displaces a sector command that waits on the unit; its notice (R37) and the clearing of the pending change follow.
With nothing owed before, the record stands and the change is gone when the command ends, whatever the engine does.
Otherwise nothing changes. The model's choice: the command is this application ahead of a due REVOLUTION_START, which
the mark `startUsed` then says is used, or with the motor off (notes/assumptions/8.md); in another state it changes
nothing (notes/assumptions/1.md); the window of a unit whose image an EJECT removed has block, group and descriptor 0 for
its continuation point (notes/assumptions/43.md); with the motor off the PREFETCH of the notice is given its buffer before
the wait list is served (notes/assumptions/40.md); and an EJECT makes protect off whatever SET_PROTECT set before, by R160 step 2 against
R154's last words on a change without a MOUNT or a protect part (notes/assumptions/45.md). R159, while the motor is not
running: the test that ends every event, in which a change
that is pending on a clear unit applies, with what follows; the order of the units is the model's
(notes/assumptions/30.md). -/
def Obligations.APendingChangeApplies : Prop :=
  let step3 : Change → Bool → Bool → Bool := fun c readOnly p =>
    match c.protect with
    | some v => if v = false ∧ readOnly = true then p else v
    | none => p
  let record : UnitRecord → Change → ImagePart → UnitRecord := fun r c part =>
    { r with
      protect := match part with
        | .mount m p => step3 c m.readOnly p
        | .eject => step3 c false false
      latch := true, applied := true }
  let image : ImagePart → Option MountRecord := fun
    | .mount m _ => some m
    | .eject => none
  (∀ (s : State) (u : UnitId),
    s.dev.seq.pending.get u = none ∨ s.dev.unitClear u = false ∨ (s.dev.units.get u).applyMoment = false →
    Answers (.pendingChangeApply u) s s.dev)
  ∧ (∀ (s : State) (u : UnitId) (c : Change), s.dev.seq.pending.get u = some c →
    s.dev.unitClear u = true → (s.dev.units.get u).applyMoment = true →
    let r := s.dev.units.get u
    let applied : Device := (s.dev.applyChange u c).modUnit u (fun x => { x with startUsed := r.motor })
    Leads (.pendingChangeApply u) s applied
    ∧ (c.image = none → Answers (.pendingChangeApply u) s applied)
    ∧ ∀ part, c.image = some part →
      ∃ (t : State) (x : Device), exec (.pendingChangeApply u) s = .next t ∧ t.dev = Device.tested x
        ∧ (x.now = s.dev.now ∧ x.lines = s.dev.lines
          ∧ x.units = s.dev.units.set u { record r c part with startUsed := r.motor }
          ∧ (x.images.get u).map MountRecord.core = (image part).map MountRecord.core
          ∧ x.mounted u.other = s.dev.mounted u.other
          ∧ (s.dev.port.engine.busy = false → x.port = s.dev.port
            ∧ x.seq = { s.dev.seq with pending := s.dev.seq.pending.set u none }))
        ∧ (s.dev.AtRest → s.dev.card.resetWaits = false →
          (∀ c, s.dev.captures.get u.other = some c → c.key.unit = u.other) →
          x.images.get u = image part ∧ x.seq = { s.dev.seq with pending := s.dev.seq.pending.set u none }))
  ∧ (∀ (d : Device) (u : UnitId) (c : Change),
    let r := d.units.get u
    (c.image = none → d.applyChange u c =
      { d with
        units := d.units.set u { r with
          protect := step3 c ((d.images.get u).any (fun m => m.readOnly)) r.protect, applied := true }
        seq := { d.seq with pending := d.seq.pending.set u none } })
    ∧ ∀ part, c.image = some part →
      ∃ e : Device, d.applyChange u c = (Device.withNotice d u true e).setPending u none
        ∧ (e.now = d.now ∧ e.lines = d.lines ∧ e.units = d.units.set u (record r c part)
          ∧ e.images = d.images.set u (image part) ∧ e.captures = d.captures ∧ e.seq = d.seq
          ∧ e.windows = d.windows.set u
            { entries := [], base := 0, endSeen := false, groupBuf := none, lookups := [], fetching := false
              next := match image part with
                | some m => m.chainStart
                | none => ⟨0, 0, 0⟩ })
        ∧ ((∀ i < 8, d.ownedBy i u = true → (d.buf i).state ≠ .free → e.buf i = TrackBuffer.free)
          ∧ (∀ i, d.ownedBy i u = false → e.buf i = d.buf i)
          ∧ e.pool.waits = d.pool.waits.filter (fun k => k.unit != u)
          ∧ ∀ i < 8, i ∈ e.pool.queue ↔
            i ∈ d.pool.queue ∧ ¬ (d.ownedBy i u = true ∧ (d.buf i).state ≠ .free))
        ∧ (d.card.resetWaits = false → ∀ q, q ∈ e.card.requests ↔
          q ∈ d.card.requests ∧ q.who ≠ .window u ∧ ∀ i < 8, d.ownedBy i u = true → q.who ≠ .buffer i)
        ∧ e.port =
          (match d.port.engine with
            | .executing (.sectors x) =>
              if x.key.unit = u then
                { d.port with
                  engine := .result ⟨.displaced, .imageChanged, Command.code (.sectors x), []⟩ }
              else d.port
            | _ => d.port))
  ∧ (∀ (d : Device) (u : UnitId),
    (∀ c, d.seq.pending.get u = some c → (d.units.get u).motor = false → d.unitClear u = true →
      d.testUnit u = (d.applyChange u c).settled)
    ∧ (d.seq.pending.get u = none ∨ (d.units.get u).motor = true ∨ d.unitClear u = false → d.testUnit u = d))
  ∧ ∀ d : Device, d.tested = ((d.testUnit .u0).testUnit .u1).testUnit .u0
    ∧ ((∀ u, d.seq.pending.get u = none ∨ (d.units.get u).motor = true ∨ d.unitClear u = false) → d.tested = d)
    ∧ (∀ u, d.unitClear u = true ↔
      ¬ (d.lines.wgate = true ∧ d.selected = some u) ∧ d.captures.get u = none
      ∧ (∀ i < 8, ∀ k, (d.buf i).key = some k → k.unit = u →
        (d.buf i).state ≠ .dirty ∧ (d.buf i).state ≠ .flushing)
      ∧ ∀ m, d.images.get u = some m → m.headerState = .clean)
    ∧ ∀ r : UnitRecord, r.applyMoment = true ↔
      r.motor = false ∨ 0 < r.revDue ∧ r.phase = 0 ∧ r.startUsed = false

/-! ### Frames (chapter 9) -/

/-- R168: a RESULT frame delivers the result from its first byte, then 00; read in full it ends the result, cut short
it does not; in IDLE and in EXECUTING it delivers 00, changes no engine state and sets no frame fault. The
result is its class, its detail, its command code, the number of its result bytes and those bytes, in the codes of R180. -/
def Obligations.AResultFrameDeliversTheResult : Prop :=
  ∀ (s : State) (n : Nat),
    let cls : TermClass → Byte
      | .done => 0
      | .failed => 1
      | .refused => 2
      | .displaced => 3
    let detail : Detail → Byte
      | .none => 0x00
      | .staged => 0x01
      | .pending => 0x02
      | .equal => 0x03
      | .differ => 0x04
      | .invalidCommand => 0x05
      | .range => 0x06
      | .mounted => 0x07
      | .unitDisabled => 0x08
      | .offline => 0x09
      | .cardState => 0x0A
      | .notMounted => 0x0B
      | .readOnly => 0x0C
      | .overlap => 0x0E
      | .chainLimit => 0x0F
      | .chainShort => 0x10
      | .headerBad => 0x11
      | .geometry => 0x12
      | .protectedArea => 0x13
      | .noSector => 0x14
      | .cardError => 0x15
      | .cardAbsent => 0x16
      | .imageChanged => 0x17
      | .groupState => 0x18
    (∀ r, s.dev.port.engine = .result r →
      let frame : List Byte := [cls r.cls, detail r.detail, r.code, BitVec.ofNat 8 r.bytes.length] ++ r.bytes
      let sent := (frame ++ List.replicate (n - frame.length) 0).take n
      (frame.length ≤ n → Answers (.resultFrame n) s
        { s.dev with port := { s.dev.port with
          engine := .idle, frameOut := s.dev.portStatus :: sent, frameFault := false } })
      ∧ (n < frame.length → Answers (.resultFrame n) s
        { s.dev with port := { s.dev.port with
          frameOut := s.dev.portStatus :: sent, frameFault := false } }))
    ∧ ((∀ r, s.dev.port.engine ≠ .result r) → Answers (.resultFrame n) s
      { s.dev with port := { s.dev.port with
        frameOut := s.dev.portStatus :: List.replicate n 0, frameFault := false } })

/-- R169: a CURSOR frame in every engine state. -/
def Obligations.ACursorFrameSetsTheCursor : Prop :=
  (∀ (s : State) (hi lo : Byte) (rest : List Byte),
    let v := hi.toNat * 256 + lo.toNat
    Answers (.cursorFrame (hi :: lo :: rest)) s
      { s.dev with port := { s.dev.port with
        cursor := min v 8192, frameOut := [s.dev.portStatus], frameFault := decide (8192 < v) } })
  ∧ ∀ (s : State) (bs : List Byte), bs.length < 2 → Answers (.cursorFrame bs) s (s.dev.faulted [])

/-- R170: a DATA_IN frame in IDLE and in RESULT writes its bytes at the cursor, as far as the window goes, and no other
byte; in EXECUTING it is dropped with a frame fault. -/
def Obligations.ADataInFrameFillsTheWindow : Prop :=
  (∀ (s : State) (bs : List Byte), s.dev.port.engine.busy = true →
    Answers (.dataInFrame bs) s (s.dev.faulted []))
  ∧ ∀ (s : State) (bs : List Byte), s.dev.port.engine.busy = false → s.dev.port.cursor ≤ 8192 →
    let n := min bs.length (8192 - s.dev.port.cursor)
    ∃ w : Mem, (s.dev.port.window.wf = true → w.wf = true)
      ∧ (∀ i, i < n → w.read (s.dev.port.cursor + i) = bs.getD i 0)
      ∧ (∀ a, a < s.dev.port.cursor ∨ s.dev.port.cursor + n ≤ a → w.read a = s.dev.port.window.read a)
      ∧ Answers (.dataInFrame bs) s
        { s.dev with port := { s.dev.port with
          window := w, cursor := s.dev.port.cursor + n, frameOut := [s.dev.portStatus]
          frameFault := decide (8192 - s.dev.port.cursor < bs.length) } }

/-- R170: a DATA_OUT frame in IDLE and in RESULT delivers the window from the cursor, and 00 past its end; in EXECUTING
it is dropped with a frame fault. -/
def Obligations.ADataOutFrameReadsTheWindow : Prop :=
  (∀ (s : State) (n : Nat), s.dev.port.engine.busy = true →
    Answers (.dataOutFrame n) s (s.dev.faulted (List.replicate n 0)))
  ∧ ∀ (s : State) (n : Nat), s.dev.port.engine.busy = false → s.dev.port.cursor ≤ 8192 →
    let room := 8192 - s.dev.port.cursor
    Answers (.dataOutFrame n) s
      { s.dev with port := { s.dev.port with
        cursor := s.dev.port.cursor + min n room
        frameOut := s.dev.portStatus :: (List.range n).map (fun i =>
          if i < room then s.dev.port.window.read (s.dev.port.cursor + i) else 0)
        frameFault := decide (room < n) } }

/-- R171: a PORT_RESET frame enters IDLE, sets the cursor to 0, clears the frame fault and discards an OPEN group; the
request of a command in execution is withdrawn, and a run of it on the card goes on without it. -/
def Obligations.APortResetEndsTheCommand : Prop :=
  ∀ s : State,
    let runs := match s.dev.port.engine with
      | .executing (.mount _) | .executing (.readBlocks _ _) | .executing (.writeBlocks _ _) => true
      | _ => false
    let clear : Device → Device := fun d =>
      { d with
        port := { d.port with engine := .idle, cursor := 0, frameFault := false
                              frameOut := [s.dev.portStatus] }
        seq := { d.seq with group := none } }
    (runs = false → s.dev.port.engine.busy = false → Answers .portReset s (clear s.dev))
    ∧ (runs = false → Leads .portReset s (clear s.dev))
    ∧ (runs = true → Leads .portReset s (clear (s.dev.withdraw .engine)))
    ∧ (s.dev.card.resetWaits = false →
      (s.dev.withdraw .engine).card.requests = s.dev.card.requests.filter (fun r => r.who != .engine)
      ∧ (s.dev.withdraw .engine).card.run = s.dev.card.run.map (fun r =>
        if r.req.who = .engine then { r with withdrawn := true } else r))

/-- R164 c, R166 a to c: frames that name no type and COMMAND frames without all their parameters are dropped with a
frame fault; in IDLE a code that names no command is refused with INVALID_COMMAND. -/
def Obligations.BadFramesAreDropped : Prop :=
  (∀ (s : State) (t : Byte) (n : Nat), t ∉ frameTypes →
    Answers (.unknownFrameType t n) s (s.dev.faulted (List.replicate n 0)))
  ∧ (∀ s : State, Answers .commandFrameDropped s (s.dev.faulted []))
  ∧ ∀ (s : State) (c : Byte), c ∉ commandCodes → s.dev.port.engine = .idle →
    Answers (.invalidCommand c) s (s.dev.answered c .refused .invalidCommand [])

/-- R166 a: in EXECUTING and in RESULT every COMMAND frame is dropped with a frame fault. -/
def Obligations.ABusyEngineDropsCommands : Prop :=
  ∀ (s : State) (i : Instr) (bs : List Byte), i.wf = true → encodeFrame i = some (0xC1 :: bs) →
    s.dev.port.engine ≠ .idle → Answers i s (s.dev.faulted [])

/-- R166 d, R180: in IDLE a parameter outside the values of its field is refused with RANGE before any other test. -/
def Obligations.ParametersOutOfRangeAreRefused : Prop :=
  ∀ s : State, s.dev.port.engine = .idle →
    (∀ u e l m k : Byte, 1 < u.toNat ∨ 1 < e.toNat ∨ 3 < l.toNat ∨ 2 < m.toNat ∨ 1 < k.toNat →
      Answers (.configureUnit u e l m k) s (s.dev.answered 0x10 .refused .range []))
    ∧ (∀ m : Byte, 7 < m.toNat → Answers (.setInterruptMask m) s (s.dev.answered 0x11 .refused .range []))
    ∧ (∀ (u p : Byte) (h : BitVec 32), 1 < u.toNat ∨ 1 < p.toNat →
      Answers (.mount u h p) s (s.dev.answered 0x20 .refused .range []))
    ∧ (∀ u : Byte, 1 < u.toNat → Answers (.eject u) s (s.dev.answered 0x21 .refused .range []))
    ∧ (∀ u v : Byte, 1 < u.toNat ∨ 1 < v.toNat →
      Answers (.setProtect u v) s (s.dev.answered 0x22 .refused .range []))
    ∧ (∀ u c h r n m : Byte,
      (1 < u.toNat ∨ 83 < c.toNat ∨ 1 < h.toNat ∨ n.toNat = 0 ∨ 64 < n.toNat ∨ 255 < r.toNat + n.toNat - 1 →
        Answers (.readSectors u c h r n) s (s.dev.answered 0x30 .refused .range [])
        ∧ Answers (.verifySectors u c h r n) s (s.dev.answered 0x32 .refused .range []))
      ∧ (1 < u.toNat ∨ 83 < c.toNat ∨ 1 < h.toNat ∨ n.toNat = 0 ∨ 64 < n.toNat ∨ 1 < m.toNat
          ∨ 255 < r.toNat + n.toNat - 1 →
        Answers (.writeSectors u c h r n m) s (s.dev.answered 0x31 .refused .range [])))
    ∧ (∀ u : Byte, 1 < u.toNat → u ≠ 0xFF → Answers (.flush u) s (s.dev.answered 0x33 .refused .range []))
    ∧ (∀ (b : BitVec 32) (n : Byte), n.toNat = 0 ∨ 16 < n.toNat →
      Answers (.readBlocks b n) s (s.dev.answered 0x40 .refused .range [])
      ∧ Answers (.writeBlocks b n) s (s.dev.answered 0x41 .refused .range []))
    ∧ (∀ u : Byte, 1 < u.toNat → Answers (.unitStatus u) s (s.dev.answered 0x50 .refused .range []))
    ∧ (∀ b : Byte, 3 < b.toNat →
      Answers (.readBank b) s (s.dev.answered 0x60 .refused .range [])
      ∧ (b ≠ 0xFF → Answers (.clearBank b) s (s.dev.answered 0x61 .refused .range [])))
    ∧ ∀ b c e : Byte,
      (3 < b.toNat ∨ 1 < e.toNat ∨ c = 0 ∨ (b = 0 ∧ 6 < c.toNat) ∨ (b = 1 ∧ 11 < c.toNat)
        ∨ (b = 2 ∧ 4 < c.toNat) ∨ (b = 3 ∧ 5 < c.toNat)) →
      Answers (.setBankEnable b c e) s (s.dev.answered 0x62 .refused .range [])

/-! ### Commands of the units and of the Mount Sequencer (chapters 2 and 8) -/

/-- R22, R23: CONFIGURE_UNIT is refused on a unit that carries something and on a select line that the other enabled
unit holds; otherwise the four fields take their values and the unit is evaluated again, as a change of the lines is
(SelectAndMotorLinesAreFollowed says what follows, and which revolution starts are handed ahead: the model's choice,
notes/assumptions/6.md). -/
def Obligations.AUnitIsConfigured : Prop :=
  ∀ (s : State) (unit e l m k : Byte) (u : UnitId) (c : UnitConfig), s.dev.port.engine = .idle →
    unitParam unit = some u → configParams e l m k = some c →
    let carries := s.dev.mounted u = true ∨ (s.dev.seq.pending.get u).isSome = true
      ∨ (∃ g, s.dev.seq.group = some g ∧ g.get u ≠ Change.empty)
    let taken := c.enabled = true ∧ (s.dev.units.get u.other).enabled = true
      ∧ (s.dev.units.get u.other).selectLine = c.select
    let change : Device → Device := fun x => x.modUnit u (fun r => { r with
      enabled := c.enabled, selectLine := c.select, motorSource := c.motor, lineMode := c.mode })
    let b := Device.startsBefore { s.dev with port := { s.dev.port with
      frameOut := [s.dev.portStatus], frameFault := false } } change
    (carries → Answers (.configureUnit unit e l m k) s (s.dev.answered 0x10 .refused .mounted []))
    ∧ (¬ carries → taken →
      Answers (.configureUnit unit e l m k) s (s.dev.answered 0x10 .refused .range []))
    ∧ (¬ carries → ¬ taken →
      Reaches (.configureUnit unit e l m k) s
        { b.evaluatedPart (change b) with port := (s.dev.answered 0x10 .done .none []).port }
      ∧ Leads (.configureUnit unit e l m k) s
        { b.evaluate (change b) with port := (s.dev.answered 0x10 .done .none []).port })

/-- R152, R53: MOUNT is judged in its order, and a MOUNT that is taken reads its header in one run of class D. -/
def Obligations.AMountIsJudged : Prop :=
  ∀ (s : State) (unit protect : Byte) (h : BitVec 32) (u : UnitId) (p : Bool), s.dev.port.engine = .idle →
    unitParam unit = some u → flagParam protect = some p →
    let refused : Detail → Prop := fun x =>
      Answers (.mount unit h protect) s (s.dev.answered 0x20 .refused x [])
    let enabled := (s.dev.units.get u).enabled
    let pending := (s.dev.seq.pending.get u).isSome
    (enabled = false → refused .unitDisabled)
    ∧ (enabled = true → s.dev.banks.offline = true → refused .offline)
    ∧ (enabled = true → s.dev.banks.offline = false → s.dev.card.state ≠ .ready → refused .cardState)
    ∧ (enabled = true → s.dev.banks.offline = false → s.dev.card.state = .ready → pending = true →
      refused .pending)
    ∧ (enabled = true → s.dev.banks.offline = false → s.dev.card.state = .ready → pending = false →
      (s.dev.card.capacity.getD 0 ≤ h.toNat + 3 → refused .range)
      ∧ (h.toNat + 3 < s.dev.card.capacity.getD 0 → Answers (.mount unit h protect) s
        { s.dev.executing (.mount
            { unit := u, header := h.toNat, protect := p
              walk := { draft := none, buffer := none, fetches := 0, pos := ⟨0, 0, 0⟩, sum := 0
                        dataHigh := 0 } }) with
          card :=
            { s.dev.card with
              requests := s.dev.card.requests ++ [
                { who := .engine, kind := .read, block := h.toNat, count := 4, time := s.dev.now
                  op := .mount, unit := some u, track := none }]
              grants :=
                if ∃ q ∈ s.dev.card.requests, s.dev.requestClass q = .d then s.dev.card.grants else 0 } }))

/-- R152 f, g, R55 d, R56, R151: what a walk that met END leads to: CHAIN_SHORT, RANGE or OVERLAP; else the record is
staged while the group is OPEN, and a pending change of its unit while it is CLOSED, with protect forced on
for a read-only image. R53 c, R54, R55: what lies between the taking of the MOUNT and that end. A run of the MOUNT that
ends well hands its header or its block of descriptors to the validation: HEADER_BAD, GEOMETRY (what a header must hold for
it not to be GEOMETRY stands in a clause of its own), or the walk from the extent-table start with the record of R50. The
walk takes a DATA into its sum and its span, leaves its block by a JUMP, reads a block it does not hold, unless the block
is not below the capacity (RANGE) or would be the 257th (CHAIN_LIMIT), and ends at END. R57 a: a run that fails for good
ends the MOUNT FAILED. What a descriptor reads as (R52, R180) is in ALookupStaysInItsExtent. R158 a, b: a change that is
placed has the unit's DIRTY buffers join the queue, in a free order (notes/assumptions/4.md), and asks for the header write
(AFlushWaitsForItsUnits says what that request is). Which records the test of OVERLAP meets is stated with
BlockCommandsWaitForOneRun. R50, R58, R180: every field of the record, the read-only and the flag-map bit of header byte 5 and
the chain start of bytes 8 to 12 among them, and the bytes of a format and of an override entry. R51: the places of a
sector's data and of its flag byte, from the tables of the record. The model's choice: the bytes
of a READ are cut or filled with 00 to the run's length (notes/assumptions/11.md). An inference of the model, which R180 does
not give: an encoding-and-rate code above 3 reads as MFM at rate 0, and an R list length above 64 as a list of that length, a
format that is INVALID (notes/assumptions/32.md). -/
def Obligations.AValidatedImageIsStagedOrPending : Prop :=
  (∀ (d : Device) (c : MountCmd) (w : Walk) (m : MountRecord),
    let refused : Detail → Device := fun x =>
      { d with port := { d.port with
        engine := .result { cls := .refused, detail := x, code := 0x20, bytes := [] } } }
    let overlap := ∃ x ∈ d.recordsOf c.unit.other, x.spanLow ≤ m.spanHigh ∧ m.spanLow ≤ x.spanHigh
    let part := ImagePart.mount m (c.protect || m.readOnly)
    (w.sum < m.blocksNeeded → d.walkDone c w m = refused .chainShort)
    ∧ (m.blocksNeeded ≤ w.sum → d.card.capacity.getD 0 ≤ w.dataHigh → d.walkDone c w m = refused .range)
    ∧ (m.blocksNeeded ≤ w.sum → w.dataHigh < d.card.capacity.getD 0 → overlap →
      d.walkDone c w m = refused .overlap)
    ∧ (m.blocksNeeded ≤ w.sum → w.dataHigh < d.card.capacity.getD 0 → ¬ overlap →
      (∀ g, d.seq.group = some g → d.walkDone c w m =
        { d with
          seq := { d.seq with group := some (g.set c.unit { g.get c.unit with image := some part }) }
          port := { d.port with
            engine := .result { cls := .done, detail := .staged, code := 0x20, bytes := [] } } })
      ∧ (d.seq.group = none →
        (d.walkDone c w m).seq =
          { d.seq with pending := d.seq.pending.set c.unit (some { image := some part, protect := none }) }
        ∧ (d.walkDone c w m).port.engine
          = .result { cls := .done, detail := .pending, code := 0x20, bytes := [] }
        ∧ (∀ i, i < 8 → d.ownedBy i c.unit = true → (d.buf i).state = .dirty →
          i ∈ (d.walkDone c w m).pool.queue)
        ∧ ∃ (n : Nat) (joined : List Nat), joined.Nodup
          ∧ (∀ i, i ∈ joined ↔
            i < 8 ∧ d.ownedBy i c.unit = true ∧ (d.buf i).state = .dirty ∧ i ∉ d.pool.queue)
          ∧ d.walkDone c w m = Device.requestHeader
            { d with
              freeCount := n
              pool := { d.pool with queue := d.pool.queue ++ joined }
              seq :=
                { d.seq with pending := d.seq.pending.set c.unit (some { image := some part, protect := none }) }
              port := { d.port with
                engine := .result { cls := .done, detail := .pending, code := 0x20, bytes := [] } } } c.unit)))
  ∧ (∀ (s : State) (c : MountCmd) (r : Run) (data : List Byte), s.dev.AtRest →
    s.dev.port.engine = .executing (.mount c) → s.dev.card.state = .ready → s.dev.card.run = some r →
    r.req.who = .engine → r.req.kind = .read → r.firstCause = none → r.withdrawn = false →
    s.dev.card.resetWaits = false → s.dev.now < r.granted + 250000 →
    r.req.block + r.req.count ≤ s.dev.card.capacity.getD 0 →
    let d := { s.dev with card := { s.dev.card with run := none } }
    let bs := bytesAt data 0 (r.req.count * 512)
    let leads := Answers (.runEnd (.complete data)) s
    let refused : Detail → Device := fun x =>
      { d with port := { d.port with
        engine := .result { cls := .refused, detail := x, code := 0x20, bytes := [] } } }
    let good := bytesAt bs 0 4 = [0x44, 0x45, 0x49, 0x31] ∧ byteAt bs 4 = 1
      ∧ bytesAt bs 2046 2 = crcBytes (crc (bytesAt bs 0 2046))
    (c.walk.draft = none →
      (¬ good → leads (refused .headerBad))
      ∧ (good → headerGeometry bs = none → leads (refused .geometry))
      ∧ ∀ g, good → headerGeometry bs = some g →
        let m := buildRecord c.header bs g
        leads (d.walkOn c
          { draft := some m, buffer := none, fetches := 0, pos := m.chainStart, sum := 0, dataHigh := 0 }))
    ∧ (c.walk.draft ≠ none → leads (d.walkOn c { c.walk with buffer := some (c.walk.pos.block, bs) })))
  ∧ (∀ (bs : List Byte) (g : Geometry), headerGeometry bs = some g ↔
    (1 ≤ g.cylinders ∧ g.cylinders ≤ 84 ∧ 1 ≤ g.heads ∧ g.heads ≤ 2 ∧ g.overrides.length ≤ 16)
    ∧ g.cylinders = (byteAt bs 6).toNat ∧ g.heads = (byteAt bs 7).toNat
    ∧ g.overrides.length = (byteAt bs 13).toNat ∧ g.base = parseFormat bs 16
    ∧ (∀ i < g.overrides.length, parseEntry bs i = g.overrides[i]?)
    ∧ (∀ e ∈ g.overrides, e.firstCyl ≤ e.lastCyl ∧ e.lastCyl ≤ 83)
    ∧ ∀ f, (f = g.base ∨ ∃ e ∈ g.overrides, e.format = f) → ∃ l, layoutOf f 0 0 g.heads = .fit l)
  ∧ (∀ (header : Nat) (bs : List Byte) (g : Geometry),
    let m := buildRecord header bs g
    let size : Nat → Nat := fun t => ((g.formatOf (t / 2) (t % 2)).map TrackFormat.dataSize).getD 0
    let count : Nat → Nat := fun t => ((g.formatOf (t / 2) (t % 2)).map TrackFormat.sectors).getD 0
    (∀ t < 168, m.trackOffset[t]? = some ((List.range t).map size).sum
      ∧ m.sectorBase[t]? = some ((List.range t).map count).sum)
    ∧ m.totalData = ((List.range 168).map size).sum ∧ m.sectorCount = ((List.range 168).map count).sum
    ∧ m.flagMapLen = (if m.hasFlagMap = true then m.sectorCount else 0)
    ∧ m.blocksNeeded = (m.totalData + m.flagMapLen + 511) / 512
    ∧ m.spanLow = header ∧ m.spanHigh = header + 3
    ∧ m.headerBlock = header ∧ m.headerCopy = bs ∧ m.geometry = g
    ∧ (m.readOnly = true ↔ (byteAt bs 5).toNat % 2 = 1)
    ∧ (m.hasFlagMap = true ↔ (byteAt bs 5).toNat / 2 % 2 = 1)
    ∧ m.chainStart.block = (((byteAt bs 8).toNat * 256 + (byteAt bs 9).toNat) * 256 + (byteAt bs 10).toNat) * 256
      + (byteAt bs 11).toNat
    ∧ m.chainStart.group = (byteAt bs 12).toNat ∧ m.chainStart.desc = 0
    ∧ m.headerState = .clean ∧ m.reDirtied = false)
  ∧ (∀ (m : MountRecord) (c h j D : Nat),
    (∀ o, m.trackOffset[c * 2 + h]? = some o →
      m.offsetOf c h = o ∧ m.dataOffset c h j D = o + j * D)
    ∧ ∀ o, m.sectorBase[c * 2 + h]? = some o → m.flagOffset c h j = m.totalData + o + j)
  ∧ (∀ (bs : List Byte) (o : Nat),
    let f := parseFormat bs o
    let at' : Nat → Nat := fun j => (byteAt bs (o + j)).toNat
    f.enc = (if at' 0 ≤ 1 then .fm else .mfm)
    ∧ f.rate = (match at' 0 with
      | 0 => 125000
      | 1 => 250000
      | 2 => 250000
      | 3 => 500000
      | _ => 0)
    ∧ f.sectors = at' 1 ∧ f.sizeCode = at' 2 ∧ f.firstR = at' 3 ∧ f.gap3 = at' 4 ∧ f.interleave = at' 5
    ∧ f.skew = at' 6 ∧ (at' 7 = 0 → f.rList = none)
    ∧ (at' 7 ≠ 0 → at' 7 ≤ 64 → f.rList = some ((List.range (at' 7)).map (fun j => at' (8 + j))))
    ∧ (64 < at' 7 → f.valid = false))
  ∧ (∀ (bs : List Byte) (j : Nat),
    let o := 88 + j * 76
    (2 < (byteAt bs (o + 2)).toNat → parseEntry bs j = none)
    ∧ ((byteAt bs (o + 2)).toNat ≤ 2 → parseEntry bs j = some
      { firstCyl := (byteAt bs o).toNat, lastCyl := (byteAt bs (o + 1)).toNat
        heads := match (byteAt bs (o + 2)).toNat with
          | 0 => .head0
          | 1 => .head1
          | _ => .both
        format := parseFormat bs (o + 4) }))
  ∧ (∀ (d : Device) (c : MountCmd) (w : Walk), d.card.state = .ready →
    let refused : Detail → Device := fun x =>
      { d with port := { d.port with
        engine := .result { cls := .refused, detail := x, code := 0x20, bytes := [] } } }
    let fetch : Walk → Device := fun (v : Walk) =>
      if d.card.capacity.getD 0 ≤ v.pos.block then refused .range
      else if 256 < v.fetches + 1 then refused .chainLimit
      else
        let e : Device := { d with port := { d.port with engine := .executing (.mount
          { c with walk :=
            { v with fetches := v.fetches + 1
                     draft := v.draft.map (fun (m : MountRecord) =>
                      { m with spanLow := min m.spanLow v.pos.block
                               spanHigh := max m.spanHigh v.pos.block }) } }) } }
        { e with card :=
          { d.card with
            requests := d.card.requests ++ [
              { who := .engine, kind := .read, block := v.pos.block, count := 1, time := d.now
                op := .mount, unit := some c.unit, track := none }]
            grants := if e.waitsD = true then d.card.grants else 0 } }
    (w.buffer.map Prod.fst ≠ some w.pos.block → d.walkOn c w = fetch w)
    ∧ ∀ bs, w.buffer = some (w.pos.block, bs) →
      (∀ e, readDescriptor bs w.pos = .data e → d.walkOn c w = d.walkOn c
        { w with
          draft := w.draft.map (fun (m : MountRecord) =>
            { m with spanLow := min m.spanLow e.start
                     spanHigh := max m.spanHigh (e.start + e.count - 1) })
          sum := w.sum + e.count, dataHigh := max w.dataHigh (e.start + e.count - 1)
          pos :=
            if w.pos.desc < 7 then { w.pos with desc := w.pos.desc + 1 }
            else if w.pos.group < 7 then ⟨w.pos.block, w.pos.group + 1, 0⟩
            else ⟨w.pos.block + 1, 0, 0⟩ })
      ∧ (∀ b g, readDescriptor bs w.pos = .jump b g →
        d.walkOn c w = fetch { w with buffer := none, pos := ⟨b, g, 0⟩ })
      ∧ (readDescriptor bs w.pos = .fin → ∀ m, w.draft = some m → d.walkOn c w = d.walkDone c w m))
  ∧ ∀ (d : Device) (c : MountCmd), d.port.engine = .executing (.mount c) →
    d.deliver { who := .engine, ok := false, data := [] } = { d with port := { d.port with
      engine := .result { cls := .failed, detail := .cardError, code := 0x20, bytes := [] } } }

/-- R153, R158: EJECT. At the placement of its change the DIRTY buffers of the unit that are not queued join the queue, in
a free order, the model's choice (notes/assumptions/4.md), and the header write of a DIRTY header is requested
(AFlushWaitsForItsUnits says what that request is). A change that it places on a unit whose motor is not running meets the
test of R159 within the same step (APendingChangeApplies). -/
def Obligations.AnEjectIsJudged : Prop :=
  ∀ (s : State) (unit : Byte) (u : UnitId), s.dev.port.engine = .idle → unitParam unit = some u →
    let a := s.dev.answered 0x21
    (s.dev.seq.pending.get u ≠ none → Answers (.eject unit) s (a .refused .pending []))
    ∧ (s.dev.seq.pending.get u = none →
      (s.dev.seq.group = none →
        (s.dev.mounted u = false → Answers (.eject unit) s (a .refused .notMounted []))
        ∧ (s.dev.mounted u = true → Reaches (.eject unit) s
          { a .done .pending [] with seq :=
            { s.dev.seq with
              pending := s.dev.seq.pending.set u (some { image := some .eject, protect := none }) } })
        ∧ (s.dev.mounted u = true →
          ∃ (n : Nat) (joined : List Nat), joined.Nodup
            ∧ (∀ i, i ∈ joined ↔
              i < 8 ∧ s.dev.ownedBy i u = true ∧ (s.dev.buf i).state = .dirty ∧ i ∉ s.dev.pool.queue)
            ∧ Leads (.eject unit) s (Device.requestHeader
              { a .done .pending [] with
                freeCount := n
                pool := { s.dev.pool with queue := s.dev.pool.queue ++ joined }
                seq := { s.dev.seq with
                  pending := s.dev.seq.pending.set u (some { image := some .eject, protect := none }) } } u)))
      ∧ ∀ g, s.dev.seq.group = some g →
        let staged : Change → Device := fun c =>
          { a .done .staged [] with seq := { s.dev.seq with group := some (g.set u c) } }
        (s.dev.mounted u = true →
          Answers (.eject unit) s (staged { g.get u with image := some .eject }))
        ∧ (s.dev.mounted u = false →
          ((∃ m p, (g.get u).image = some (.mount m p)) →
            Answers (.eject unit) s (staged { image := none, protect := none }))
          ∧ ((¬ ∃ m p, (g.get u).image = some (.mount m p)) →
            Answers (.eject unit) s (a .refused .notMounted []))))

/-- R154: SET_PROTECT is judged against the mounted image with the group CLOSED, and against the image that the unit
will have with the group OPEN. -/
def Obligations.ProtectIsSetOrStaged : Prop :=
  ∀ (s : State) (unit value : Byte) (u : UnitId) (v : Bool), s.dev.port.engine = .idle →
    unitParam unit = some u → flagParam value = some v →
    let a := s.dev.answered 0x22
    let judged : Option MountRecord → Device → Prop := fun image e =>
      (image = none → Answers (.setProtect unit value) s (a .refused .notMounted []))
      ∧ ∀ m, image = some m →
        (v = false → m.readOnly = true → Answers (.setProtect unit value) s (a .refused .readOnly []))
        ∧ (v = true ∨ m.readOnly = false → Answers (.setProtect unit value) s e)
    (s.dev.seq.group = none → judged (s.dev.images.get u)
      { a .done .none [] with units := s.dev.units.set u { s.dev.units.get u with protect := v } })
    ∧ ∀ g, s.dev.seq.group = some g → judged
      (match (g.get u).image with
        | some (.mount m _) => some m
        | some .eject => none
        | none => s.dev.images.get u)
      { a .done .staged [] with seq :=
        { s.dev.seq with group := some (g.set u { g.get u with protect := some v }) } }

/-- R155, R156, R157, R158: HOLD opens the group with both records empty; DISCARD drops it; RELEASE places the records that
are not empty as pending changes, unless one meets a pending change, and closes the group. At each placement the DIRTY
buffers of the unit that are not queued join the queue and the header write of a DIRTY header is requested
(AFlushWaitsForItsUnits says what that request is). A change that it places on a unit whose motor is not running meets the
test of R159 within the same step (APendingChangeApplies). The model's choices: the order in which the buffers of a unit join
(notes/assumptions/4.md), and the placement on Unit 0 comes first (notes/assumptions/30.md). -/
def Obligations.TheGroupIsHeldReleasedOrDiscarded : Prop :=
  ∀ s : State, s.dev.port.engine = .idle →
    (s.dev.seq.group = none →
      Answers .hold s { s.dev.answered 0x23 .done .none [] with
        seq := { s.dev.seq with group := some ⟨⟨none, none⟩, ⟨none, none⟩⟩ } }
      ∧ Answers .release s (s.dev.answered 0x24 .refused .groupState [])
      ∧ Answers .discard s (s.dev.answered 0x25 .refused .groupState []))
    ∧ ∀ g, s.dev.seq.group = some g →
      Answers .hold s (s.dev.answered 0x23 .refused .groupState [])
      ∧ Answers .discard s { s.dev.answered 0x25 .done .none [] with seq := { s.dev.seq with group := none } }
      ∧ ((∃ u, g.get u ≠ ⟨none, none⟩ ∧ s.dev.seq.pending.get u ≠ none) →
        Answers .release s (s.dev.answered 0x24 .refused .pending []))
      ∧ ((∀ u, g.get u = ⟨none, none⟩ ∨ s.dev.seq.pending.get u = none) →
        let place : UnitId → Option Change := fun u =>
          if g.get u = ⟨none, none⟩ then s.dev.seq.pending.get u else some (g.get u)
        Reaches .release s { s.dev.answered 0x24 .done .none [] with
          seq := { pending := ⟨place .u0, place .u1⟩, group := none } })
      ∧ ((∀ u, g.get u = ⟨none, none⟩ ∨ s.dev.seq.pending.get u = none) →
        let placed : UnitId → Device → Device → Prop := fun u x y =>
          (g.get u = ⟨none, none⟩ → y = x)
          ∧ (g.get u ≠ ⟨none, none⟩ → ∃ (n : Nat) (joined : List Nat), joined.Nodup
            ∧ (∀ i, i ∈ joined ↔
              i < 8 ∧ x.ownedBy i u = true ∧ (x.buf i).state = .dirty ∧ i ∉ x.pool.queue)
            ∧ y = Device.requestHeader
              { x with
                freeCount := n
                pool := { x.pool with queue := x.pool.queue ++ joined }
                seq := { x.seq with pending := x.seq.pending.set u (some (g.get u)) } } u)
        ∃ y z, placed .u0 (s.dev.answered 0x24 .done .none []) y ∧ placed .u1 y z
          ∧ Leads .release s { z with seq := { z.seq with group := none } })

/-! ### Sector and block commands, FLUSH, UNIT_STATUS, CARD_RESET (chapters 4, 7 and 9) -/

/-- R173, R86: what the three sector commands meet before their track: OFFLINE, no image, more data than the window
holds, an unformatted track; on a formatted track that is not readable the command waits on a fill. R72, R74, R77: which
fills are requested, and which wait; R76: the buffer that a fill is given, the buffer as it then is, and its blocks in the
order of R78; R77: the wait list's first entry is served, or a buffer is marked for eviction; R78, R79: what the fill takes
of a block, its data bytes and its flag bytes, and what a failed run leaves of its blocks; R82: the end of the fill, the decode
and the command that wait on it (R87), and the prefetch of the other head; the command is applied there also when a report of
the decode has just taken the part OFFLINE (R112, R119, an inference, notes/assumptions/46.md). The model's choices: in one event nothing else is owed when the wait list is
served (notes/assumptions/15.md); the prefetch is asked for ahead of that (notes/assumptions/39.md); and an entry that stops
being CURRENT while a command waits on its key stays, as a LOADER entry, so PREFETCH entries alone are dropped
(notes/assumptions/18.md, an inference); of two buffers whose fill goes on at one event the one with the lower number
goes on first (notes/assumptions/42.md); that a WRITE_SECTORS which comes while OFFLINE is none of the writes from the loader
that R112 lets go on, and is refused by R173 b, is an inference (notes/assumptions/46.md); and of a block that holds data and flag bytes, and so is
read twice, a failed run makes the data bytes 00 also when the other run read them (notes/assumptions/48.md). The bytes of a track lie
where R51 a puts them at every track offset, a multiple of the sector size or not (notes/assumptions/35.md); the places themselves
are in AValidatedImageIsStagedOrPending. What a sector command does at its application, at once or after the fill, is in
SectorsAreRead, SectorsAreWritten and SectorsAreVerified; it asks nothing of OFFLINE there. -/
def Obligations.SectorCommandsAreJudged : Prop :=
  (∀ (s : State) (i : Instr) (code : Byte) (c : SectorCmd) (ub cb hb r n m : Byte),
    s.dev.port.engine = .idle →
    (i = .readSectors ub cb hb r n ∧ code = 0x30 ∧ sectorParams .read ub cb hb r n = some c
      ∨ i = .verifySectors ub cb hb r n ∧ code = 0x32 ∧ sectorParams .verify ub cb hb r n = some c
      ∨ ∃ del, i = .writeSectors ub cb hb r n m ∧ code = 0x31 ∧ flagParam m = some del
        ∧ sectorParams (.write del) ub cb hb r n = some c
        ∧ ∀ q, s.dev.images.get c.key.unit = some q → q.readOnly = false) →
    c.first + c.count ≤ 256 →
    (s.dev.banks.offline = true → Answers i s (s.dev.answered code .refused .offline []))
    ∧ (s.dev.banks.offline = false → s.dev.mounted c.key.unit = false →
      Answers i s (s.dev.answered code .refused .notMounted []))
    ∧ (s.dev.banks.offline = false → s.dev.mounted c.key.unit = true →
      (s.dev.formatOf c.key = none → Answers i s (s.dev.answered code .failed .noSector []))
      ∧ ∀ f, s.dev.formatOf c.key = some f →
        (8192 < c.count * sizeLen f.sizeCode → Answers i s (s.dev.answered code .refused .range []))
        ∧ (c.count * sizeLen f.sizeCode ≤ 8192 → s.dev.readableHolder c.key = none →
          Leads i s ((s.dev.executing (.sectors c)).requestFill c.key))))
  ∧ (∀ (d : Device) (k : TrackKey),
    let goes := d.layoutFor k ≠ none ∧ (∀ i < 8, (d.buf i).state ≠ .free → (d.buf i).key ≠ some k)
      ∧ k ∉ d.pool.waits
    (¬ goes → d.requestFill k = d)
    ∧ (goes → d.purpose k ≠ .prefetch →
      d.requestFill k = { d with pool := { d.pool with waits := d.pool.waits ++ [k] } })
    ∧ (goes → d.purpose k = .prefetch →
      (∀ i, d.allocatable = some i → d.requestFill k = d.startFill i k)
      ∧ (d.allocatable = none → d.requestFill k = d)))
  ∧ (∀ d : Device,
    let spare : Nat → Prop := fun j => (d.buf j).state = .clean ∧ d.bufCurrent j = false
    (∀ a i b, d.pool.lru = a ++ i :: b →
      ((d.buf i).state = .free → (∀ j ∈ b, (d.buf j).state ≠ .free) → d.allocatable = some i)
      ∧ ((∀ j ∈ d.pool.lru, (d.buf j).state ≠ .free) → spare i → (∀ j ∈ b, ¬ spare j) →
        d.allocatable = some i))
    ∧ ((∀ j ∈ d.pool.lru, (d.buf j).state ≠ .free ∧ ¬ spare j) → d.allocatable = none))
  ∧ (∀ (d : Device) (i : Nat) (k : TrackKey) (m : MountRecord) (l : Layout), d.images.get k.unit = some m →
    d.layoutFor k = some l →
    let given : TrackBuffer :=
      { state := .filling, key := some k, layout := some l
        sectors := l.table.zipIdx.map (fun x =>
          { number := x.1.number, position := x.2, logical := x.1.logical
            flags := ⟨false, false, false, false, false⟩, dirty := false, inFlush := false })
        data := [], completion := none, dirtySince := none, reDirtied := false, evict := false
        work := some
          { todo :=
              (blocksOf (m.offsetOf k.cyl k.head) (l.sectors * sizeLen l.sizeCode)).map (fun b => ⟨b, .data⟩)
              ++ (if m.hasFlagMap = true then
                  blocksOf (m.flagOffset k.cyl k.head 0) l.sectors else []).map (fun b => ⟨b, .flagMap⟩)
            stage := .next, taken := [], failed := [] } }
    d.startFill i k = { d with pool := { d.pool with buffers := d.pool.buffers.set i given } })
  ∧ (∀ o n b, (b ∈ blocksOf o n ↔ n ≠ 0 ∧ o / 512 ≤ b ∧ b ≤ (o + n - 1) / 512)
    ∧ (blocksOf o n).Pairwise (· < ·))
  ∧ (∀ d : Device, d.banks.entryOwed = false → d.news = [] → bufferIds.find? d.workIdle = none →
    d.serveLookup .u0 = none → d.serveLookup .u1 = none →
    let waits := d.pool.waits
    ((∃ q ∈ waits, d.purpose q = .prefetch) → d.micro = some { d with pool := { d.pool with
      waits := waits.filter (fun q => d.purpose q != .prefetch) } })
    ∧ ∀ k, (∀ q ∈ waits, d.purpose q ≠ .prefetch) →
      ((∃ a b, waits = a ++ k :: b ∧ d.purpose k = .current ∧ ∀ q ∈ a, d.purpose q ≠ .current)
        ∨ (∀ q ∈ waits, d.purpose q ≠ .current) ∧ waits.head? = some k) →
      let victim : Nat → Prop := fun j => (d.buf j).state = .dirty ∧ d.bufCurrent j = false
      (∀ i, d.allocatable = some i → d.micro = some
        (Device.startFill { d with pool := { d.pool with waits := waits.filter (fun x => x != k) } } i k))
      ∧ (d.allocatable = none → (∀ i < 8, (d.buf i).evict = false) →
        ∀ a i b, d.pool.lru = a ++ i :: b → victim i → (∀ j ∈ b, ¬ victim j) → d.micro = some
          { d with pool := { d.pool with
            buffers := d.pool.buffers.set i { d.buf i with evict := true }
            queue := if i ∈ d.pool.queue then d.pool.queue else d.pool.queue ++ [i] } })
      ∧ (d.allocatable = none → ((∃ i < 8, (d.buf i).evict = true) ∨ ∀ j ∈ d.pool.lru, ¬ victim j) →
        d.micro = d.flushDone))
  ∧ (∀ (d : Device) (i : Nat) (k : TrackKey) (m : MountRecord) (w : Work) (card n : Nat),
    (d.buf i).state = .filling → (d.buf i).key = some k → (d.buf i).work = some w →
    w.stage = .reading card n → d.images.get k.unit = some m →
    let put : TrackBuffer → Device := fun x => { d with pool := { d.pool with buffers := d.pool.buffers.set i x } }
    let left : Work := { w with todo := w.todo.drop n, stage := .next }
    (∀ data, d.deliver { who := .buffer i, ok := true, data := data } =
      put { (d.buf i).takeBlocks m k (w.todo.take n) data with work := some left })
    ∧ d.deliver { who := .buffer i, ok := false, data := [] } =
      put { (d.buf i).degrade m k ((w.todo.take n).map WorkBlock.image) with
        work := some { left with taken := [] } })
  ∧ (∀ (x : TrackBuffer) (m : MountRecord) (k : TrackKey),
    let start := m.offsetOf k.cyl k.head
    let inBlock : Sector → Nat → Prop := fun t b =>
      (∃ j < x.dataLen, (m.dataOffset k.cyl k.head t.logical x.dataLen + j) / 512 = b)
        ∨ m.hasFlagMap = true ∧ m.flagOffset k.cyl k.head t.logical / 512 = b
    (∀ bs, x.takeBlocks m k [] bs = x)
    ∧ (∀ w ws bs, x.takeBlocks m k (w :: ws) bs
      = (x.takeBlock m k w.image (bytesAt bs 0 512)).takeBlocks m k ws (bs.drop 512))
    ∧ (∀ b bs, (∀ o < x.sectors.length * x.dataLen, (x.takeBlock m k b bs).data.read o
        = if (start + o) / 512 = b then byteAt bs ((start + o) % 512) else x.data.read o)
      ∧ (x.takeBlock m k b bs).sectors = x.sectors.map (fun t =>
        let f := byteAt bs (m.flagOffset k.cyl k.head t.logical % 512)
        if m.hasFlagMap = true ∧ m.flagOffset k.cyl k.head t.logical / 512 = b then
          { t with flags := ⟨f.getLsbD 0, f.getLsbD 1, f.getLsbD 2, f.getLsbD 3, t.flags.unreadable⟩ }
        else t))
    ∧ ∀ lost : List Nat,
      (∀ o < x.sectors.length * x.dataLen, (x.degrade m k lost).data.read o
        = if (start + o) / 512 ∈ lost then 0 else x.data.read o)
      ∧ (x.degrade m k lost).sectors.length = x.sectors.length
      ∧ ∀ (p : Nat) (t : Sector), x.sectors[p]? = some t →
        ((∃ b ∈ lost, inBlock t b) → (x.degrade m k lost).sectors[p]?
          = some { t with flags := { t.flags with unreadable := true } })
        ∧ ((∀ b ∈ lost, ¬ inBlock t b) → (x.degrade m k lost).sectors[p]? = some t))
  ∧ (∀ (d : Device) (i : Nat) (k : TrackKey) (u : UnitId),
    (∀ c, d.port.engine = .executing (.sectors c) → c.key = k → d.applyWaiting i k = d.applySectors i c)
    ∧ ((∀ c, d.port.engine = .executing (.sectors c) → c.key ≠ k) → d.applyWaiting i k = d)
    ∧ ∀ c, d.captures.get u = some c → c.state = .pending → (d.buf i).key = some c.key →
      let e := (d.decode (some i) c).setCapture u none
      ∃ (n : Nat) (joined : List Nat), joined.Nodup
        ∧ (∀ j, j ∈ joined ↔ j < 8 ∧ d.bufCurrent j = true ∧ e.bufCurrent j = false ∧ (e.buf j).state = .dirty
          ∧ j ∉ e.pool.queue)
        ∧ d.decodePending i u = { e with freeCount := n, pool := { e.pool with queue := e.pool.queue ++ joined } })
  ∧ ∀ (d : Device) (i : Nat) (k : TrackKey) (w : Work), d.banks.entryOwed = false → d.news = [] →
    bufferIds.find? d.workIdle = some i → (d.buf i).state = .filling → (d.buf i).key = some k →
    (d.buf i).work = some w → w.todo = [] →
    let r := d.units.get k.unit
    let e := { d with pool := { d.pool with
      buffers := d.pool.buffers.set i
        { d.buf i with
          state := .clean, work := none
          completion := if r.motor = true ∧ r.atSpeed = true then some r.phase else none }
      lru := i :: d.pool.lru.filter (fun j => j != i) } }
    let asks : Device → Device := fun x =>
      if d.purpose k = .current then x.requestFill { k with head := 1 - k.head } else x
    let captured := ∃ c, d.captures.get k.unit = some c ∧ c.state = .pending ∧ c.key = k
    let commanded : SectorCmd → Prop := fun c => d.port.engine = .executing (.sectors c) ∧ c.key = k
    (¬ captured → (∀ c, ¬ commanded c) → d.micro = some (asks e))
    ∧ (∀ c, ¬ captured → commanded c → d.micro = some (asks (e.applySectors i c)))
    ∧ (captured → (∀ c, ¬ commanded c) →
      d.micro = some (asks (e.decodePending i k.unit)))
    ∧ (captured → (∃ c, commanded c) → ∃ n,
      let x := { e with freeCount := n }
      d.micro = some (asks ((x.decodePending i k.unit).applyWaiting i k))
      ∨ d.micro = some (asks ((x.applyWaiting i k).decodePending i k.unit)))

/-- R173, R174, R86: READ_SECTORS of a readable track copies the named sectors, in ascending number, into the window
from offset 0, and returns their numbers and flags; a sector that is not there gives NO_SECTOR (R173 f), and else more data
by the layout of the buffer than the window holds gives RANGE (R173 g). The same holds of the application after a fill.
R180: the bits of a flag byte of the result. -/
def Obligations.SectorsAreRead : Prop :=
  (∀ (s : State) (ub cb hb r n : Byte) (c : SectorCmd) (f : TrackFormat) (i : Nat),
    s.dev.port.engine = .idle → (∀ j < 8, j ∈ s.dev.pool.lru) →
    sectorParams .read ub cb hb r n = some c → c.first + c.count ≤ 256 → s.dev.banks.offline = false →
    s.dev.mounted c.key.unit = true → s.dev.formatOf c.key = some f →
    c.count * sizeLen f.sizeCode ≤ 8192 → s.dev.readableHolder c.key = some i →
    let x := s.dev.buf i
    let names := (List.range c.count).map (fun j => c.first + j)
    ((∃ q ∈ names, x.sector? q = none) → Answers (.readSectors ub cb hb r n) s
      (s.dev.answered 0x30 .failed .noSector []))
    ∧ ((∀ q ∈ names, (x.sector? q).isSome = true) → 8192 < c.count * x.dataLen →
      Answers (.readSectors ub cb hb r n) s (s.dev.answered 0x30 .failed .range []))
    ∧ ∀ ss : List Sector, names.map x.sector? = ss.map some → c.count * x.dataLen ≤ 8192 →
      Answers (.readSectors ub cb hb r n) s
        { s.dev.answered 0x30 .done .none
            (ss.flatMap (fun t => [BitVec.ofNat 8 t.number, t.flags.reported])) with
          pool := { s.dev.pool with lru := i :: s.dev.pool.lru.filter (fun j => j != i) }
          port :=
            { (s.dev.answered 0x30 .done .none
                (ss.flatMap (fun t => [BitVec.ofNat 8 t.number, t.flags.reported]))).port with
              window := s.dev.port.window.write 0 (ss.flatMap (fun t =>
                x.data.readRange (t.logical * x.dataLen) x.dataLen)) } })
  ∧ (∀ (d : Device) (i : Nat) (c : SectorCmd), c.op = .read →
    let x := d.buf i
    let names := (List.range c.count).map (fun j => c.first + j)
    let ends : TermClass → Detail → List Byte → LoaderPort := fun cls detail bytes =>
      { d.port with engine := .result { cls := cls, detail := detail, code := 0x30, bytes := bytes } }
    ((∃ q ∈ names, x.sector? q = none) → d.applySectors i c = { d with port := ends .failed .noSector [] })
    ∧ ((∀ q ∈ names, (x.sector? q).isSome = true) → 8192 < c.count * x.dataLen →
      d.applySectors i c = { d with port := ends .failed .range [] })
    ∧ ∀ ss : List Sector, names.map x.sector? = ss.map some → c.count * x.dataLen ≤ 8192 →
      d.applySectors i c =
        { d with
          pool := { d.pool with lru := i :: d.pool.lru.filter (fun j => j != i) }
          port := { ends .done .none (ss.flatMap (fun t => [BitVec.ofNat 8 t.number, t.flags.reported])) with
            window := d.port.window.write 0 (ss.flatMap (fun t =>
              x.data.readRange (t.logical * x.dataLen) x.dataLen)) } })
  ∧ ∀ f : SectorFlags, f.reported.toNat = (if f.deleted = true then 1 else 0) + (if f.dataCrcBad = true then 2 else 0)
    + (if f.idCrcBad = true then 4 else 0) + (if f.noData = true then 8 else 0)
    + (if f.unreadable = true then 16 else 0)

/-- R173, R175, R86, R85: WRITE_SECTORS to a readable track: DONE at its application; each named sector takes its bytes
of the window, whole, with its flags cleared but for ID_CRC_BAD and DELETED set by the mark option, and is
dirty; no other sector changes. On an image without a flag map a change of a stored flag is reported; that DELETED
written over DELETED is no change is notes/assumptions/20.md. A sector that is not there gives NO_SECTOR (R173 f), and else
more data by the layout of the buffer than the window holds gives RANGE (R173 g); on a read-only image the command is
refused. The application after a fill does the same, and asks nothing of OFFLINE (R112); which commands come to it while
OFFLINE, and which are turned away, is in SectorCommandsAreJudged (an inference, notes/assumptions/46.md). R49, R180: the bits of the flag byte of a flag map. R85, R73, R88: what an application of any writer does with the buffer: it takes the
changed contents and the head of the LRU order; when dirty is set, CLEAN becomes DIRTY, with dirty-since now, and joins the
queue where a trigger holds, and FLUSHING is re-dirtied, with dirty-since kept or set; no other buffer changes. -/
def Obligations.SectorsAreWritten : Prop :=
  (∀ (s : State) (ub cb hb r n m : Byte) (del : Bool) (c : SectorCmd), s.dev.port.engine = .idle →
    flagParam m = some del → sectorParams (.write del) ub cb hb r n = some c → c.first + c.count ≤ 256 →
    s.dev.banks.offline = false →
    (∀ q, s.dev.images.get c.key.unit = some q → q.readOnly = true →
      Answers (.writeSectors ub cb hb r n m) s (s.dev.answered 0x31 .refused .readOnly []))
    ∧ ∀ q f i, s.dev.images.get c.key.unit = some q → q.readOnly = false →
      s.dev.formatOf c.key = some f → c.count * sizeLen f.sizeCode ≤ 8192 →
      s.dev.readableHolder c.key = some i →
      let x := s.dev.buf i
      let names := (List.range c.count).map (fun j => c.first + j)
      let lost := ∃ t ∈ x.sectors, t.number ∈ names ∧ t.flags.stored
        ≠ SectorFlags.stored { t.flags with deleted := del, dataCrcBad := false, noData := false }
      ((∃ y ∈ names, x.sector? y = none) →
        Answers (.writeSectors ub cb hb r n m) s (s.dev.answered 0x31 .failed .noSector []))
      ∧ ((∀ y ∈ names, (x.sector? y).isSome = true) → 8192 < c.count * x.dataLen →
        Answers (.writeSectors ub cb hb r n m) s (s.dev.answered 0x31 .failed .range []))
      ∧ ((∀ y ∈ names, (x.sector? y).isSome = true) → c.count * x.dataLen ≤ 8192 →
      (x.sectors.map Sector.number).Nodup →
      let d := s.dev.storeWrite i (x.loaderWrite s.dev.port.window del names) true
      let e := if q.hasFlagMap = false ∧ lost then
          d.report { cls := .corrected, cause := .flagLost, op := .loader, unit := some c.key.unit
                     track := some { cyl := c.key.cyl, head := c.key.head, r := none }, block := none }
        else d
      Leads (.writeSectors ub cb hb r n m) s
        { e with port := (s.dev.answered 0x31 .done .none []).port }))
  ∧ (∀ (d : Device) (i : Nat) (c : SectorCmd) (del : Bool), c.op = .write del →
    let x := d.buf i
    let names := (List.range c.count).map (fun j => c.first + j)
    let ends : TermClass → Detail → List Byte → LoaderPort := fun cls detail bytes =>
      { d.port with engine := .result { cls := cls, detail := detail, code := 0x31, bytes := bytes } }
    ((∃ q ∈ names, x.sector? q = none) → d.applySectors i c = { d with port := ends .failed .noSector [] })
    ∧ ((∀ q ∈ names, (x.sector? q).isSome = true) → 8192 < c.count * x.dataLen →
      d.applySectors i c = { d with port := ends .failed .range [] })
    ∧ ((∀ q ∈ names, (x.sector? q).isSome = true) → c.count * x.dataLen ≤ 8192 →
      (x.sectors.map Sector.number).Nodup → ∀ q, d.images.get c.key.unit = some q →
      let lost := ∃ t ∈ x.sectors, t.number ∈ names ∧ t.flags.stored
        ≠ SectorFlags.stored { t.flags with deleted := del, dataCrcBad := false, noData := false }
      let stored := d.storeWrite i (x.loaderWrite d.port.window del names) true
      let e := if q.hasFlagMap = false ∧ lost then
          stored.report
            { cls := .corrected, cause := .flagLost, op := .loader, unit := some c.key.unit
              track := some { cyl := c.key.cyl, head := c.key.head, r := none }, block := none }
        else stored
      d.applySectors i c = { e with port := ends .done .none [] }))
  ∧ (∀ f : SectorFlags, f.stored.toNat = (if f.deleted = true then 1 else 0)
    + (if f.dataCrcBad = true then 2 else 0) + (if f.idCrcBad = true then 4 else 0) + (if f.noData = true then 8 else 0))
  ∧ (∀ (x : TrackBuffer) (w : Mem) (del : Bool) (names : List Nat), x.data.wf = true →
    (x.sectors.map Sector.logical).Nodup →
    (x.loaderWrite w del names).sectors = x.sectors.map (fun t =>
      if t.number ∈ names then
        { t with
          flags := { deleted := del, dataCrcBad := false, idCrcBad := t.flags.idCrcBad, noData := false
                     unreadable := false }
          dirty := true }
      else t)
    ∧ ∀ t ∈ x.sectors, ∀ j < x.dataLen,
      (x.loaderWrite w del names).data.read (t.logical * x.dataLen + j) =
        if t.number ∈ names then w.read (names.idxOf t.number * x.dataLen + j)
        else x.data.read (t.logical * x.dataLen + j))
  ∧ ∀ (d : Device) (i : Nat) (x : TrackBuffer) (setsDirty : Bool), i < d.pool.buffers.length →
    let put : TrackBuffer → Device := fun y =>
      { d with pool := { d.pool with
        buffers := d.pool.buffers.set i y, lru := i :: d.pool.lru.filter (fun j => j != i) } }
    (setsDirty = false ∨ x.state ≠ .clean ∧ x.state ≠ .flushing → d.storeWrite i x setsDirty = put x)
    ∧ (setsDirty = true → x.state = .clean →
      let e := put { x with state := .dirty, dirtySince := some d.now }
      let current := ∃ k, x.key = some k ∧
        (d.currentTrack k.unit = some k ∧ (d.units.get k.unit).motor = true
          ∨ ∃ c, d.captures.get k.unit = some c ∧ c.state = .pending ∧ c.key = k)
      let joins := ¬ current ∨ ∃ k, x.key = some k
        ∧ ((d.seq.pending.get k.unit).isSome = true ∨ d.flushNames k.unit = true)
      (joins → i ∉ d.pool.queue →
        d.storeWrite i x setsDirty = { e with pool := { e.pool with queue := d.pool.queue ++ [i] } })
      ∧ (¬ joins ∨ i ∈ d.pool.queue → d.storeWrite i x setsDirty = e))
    ∧ (setsDirty = true → x.state = .flushing → d.storeWrite i x setsDirty =
      put { x with reDirtied := true, dirtySince := some (x.dirtySince.getD d.now) })

/-- R173, R174: VERIFY_SECTORS of a readable track ends EQUAL, or DIFFER with the first sector and offset that differ; a
sector that is not there gives NO_SECTOR (R173 f), and else more data by the layout of the buffer than the window holds gives
RANGE (R173 g). The same holds of the application after a fill. -/
def Obligations.SectorsAreVerified : Prop :=
  (∀ (s : State) (ub cb hb r n : Byte) (c : SectorCmd) (f : TrackFormat) (i : Nat),
    s.dev.port.engine = .idle → (∀ j < 8, j ∈ s.dev.pool.lru) →
    sectorParams .verify ub cb hb r n = some c → c.first + c.count ≤ 256 → s.dev.banks.offline = false →
    s.dev.mounted c.key.unit = true → s.dev.formatOf c.key = some f →
    c.count * sizeLen f.sizeCode ≤ 8192 → s.dev.readableHolder c.key = some i →
    let names := (List.range c.count).map (fun j => c.first + j)
    ((∃ q ∈ names, (s.dev.buf i).sector? q = none) →
      Answers (.verifySectors ub cb hb r n) s (s.dev.answered 0x32 .failed .noSector []))
    ∧ ((∀ q ∈ names, ((s.dev.buf i).sector? q).isSome = true) → 8192 < c.count * (s.dev.buf i).dataLen →
      Answers (.verifySectors ub cb hb r n) s (s.dev.answered 0x32 .failed .range []))
    ∧ ∀ ss : List Sector, names.map (s.dev.buf i).sector? = ss.map some → c.count * (s.dev.buf i).dataLen ≤ 8192 →
      let x := s.dev.buf i
      let same : Nat → Nat → Sector → Prop := fun k j t =>
        s.dev.port.window.read (k * x.dataLen + j) = x.data.read (t.logical * x.dataLen + j)
      let pool := { s.dev.pool with lru := i :: s.dev.pool.lru.filter (fun j => j != i) }
      ((∀ k t, ss[k]? = some t → ∀ j < x.dataLen, same k j t) →
        Answers (.verifySectors ub cb hb r n) s
          { s.dev.answered 0x32 .done .equal [] with pool := pool })
      ∧ ∀ k t j, ss[k]? = some t → j < x.dataLen → ¬ same k j t → (∀ j' < j, same k j' t) →
        (∀ k' < k, ∀ t', ss[k']? = some t' → ∀ j' < x.dataLen, same k' j' t') →
        Answers (.verifySectors ub cb hb r n) s
          { s.dev.answered 0x32 .done .differ
              [BitVec.ofNat 8 t.number, BitVec.ofNat 8 (j / 256), BitVec.ofNat 8 j] with pool := pool })
  ∧ ∀ (d : Device) (i : Nat) (c : SectorCmd), c.op = .verify →
    let x := d.buf i
    let names := (List.range c.count).map (fun j => c.first + j)
    let ends : TermClass → Detail → List Byte → LoaderPort := fun cls detail bytes =>
      { d.port with engine := .result { cls := cls, detail := detail, code := 0x32, bytes := bytes } }
    ((∃ q ∈ names, x.sector? q = none) → d.applySectors i c = { d with port := ends .failed .noSector [] })
    ∧ ((∀ q ∈ names, (x.sector? q).isSome = true) → 8192 < c.count * x.dataLen →
      d.applySectors i c = { d with port := ends .failed .range [] })
    ∧ ∀ ss : List Sector, names.map x.sector? = ss.map some → c.count * x.dataLen ≤ 8192 →
      let same : Nat → Nat → Sector → Prop := fun k j t =>
        d.port.window.read (k * x.dataLen + j) = x.data.read (t.logical * x.dataLen + j)
      let pool := { d.pool with lru := i :: d.pool.lru.filter (fun j => j != i) }
      ((∀ k t, ss[k]? = some t → ∀ j < x.dataLen, same k j t) →
        d.applySectors i c = { d with pool := pool, port := ends .done .equal [] })
      ∧ ∀ k t j, ss[k]? = some t → j < x.dataLen → ¬ same k j t → (∀ j' < j, same k j' t) →
        (∀ k' < k, ∀ t', ss[k']? = some t' → ∀ j' < x.dataLen, same k' j' t') →
        d.applySectors i c =
          { d with
            pool := pool
            port := ends .done .differ [BitVec.ofNat 8 t.number, BitVec.ofNat 8 (j / 256), BitVec.ofNat 8 j] }

/-- R176: READ_BLOCKS and WRITE_BLOCKS are judged in their order, wait for one run of class D, and end with it. R56, R151,
R176: the records whose spans PROTECTED_AREA and OVERLAP meet: of each unit the one mounted, the one in its pending change
and the one in its staged record. -/
def Obligations.BlockCommandsWaitForOneRun : Prop :=
  (∀ (s : State) (b : BitVec 32) (n : Byte), s.dev.port.engine = .idle → 1 ≤ n.toNat → n.toNat ≤ 16 →
    let cap := s.dev.card.capacity.getD 0
    let guarded := ∃ u, ∃ m ∈ s.dev.recordsOf u, ∃ i < n.toNat,
      m.spanLow ≤ b.toNat + i ∧ b.toNat + i ≤ m.spanHigh
    let waits : Command → RunKind → Device := fun c kind =>
      { s.dev.executing c with
        card :=
          { s.dev.card with
            requests := s.dev.card.requests ++ [
              { who := .engine, kind := kind, block := b.toNat, count := n.toNat, time := s.dev.now
                op := .loader, unit := none, track := none }]
            grants :=
              if ∃ q ∈ s.dev.card.requests, s.dev.requestClass q = .d then s.dev.card.grants else 0 } }
    (s.dev.card.state ≠ .ready →
      Answers (.readBlocks b n) s (s.dev.answered 0x40 .refused .cardState [])
      ∧ Answers (.writeBlocks b n) s (s.dev.answered 0x41 .refused .cardState []))
    ∧ (s.dev.card.state = .ready → cap ≤ b.toNat + n.toNat - 1 →
      Answers (.readBlocks b n) s (s.dev.answered 0x40 .refused .range [])
      ∧ Answers (.writeBlocks b n) s (s.dev.answered 0x41 .refused .range []))
    ∧ (s.dev.card.state = .ready → b.toNat + n.toNat - 1 < cap →
      Answers (.readBlocks b n) s (waits (.readBlocks b.toNat n.toNat) .read)
      ∧ (guarded → Answers (.writeBlocks b n) s (s.dev.answered 0x41 .refused .protectedArea []))
      ∧ (¬ guarded → Answers (.writeBlocks b n) s (waits (.writeBlocks b.toNat n.toNat) .write))))
  ∧ (∀ (d : Device) (b n : Nat) (data : List Byte),
    let ended : Byte → TermClass → Detail → Device := fun code cls x =>
      { d with port := { d.port with
        engine := .result { cls := cls, detail := x, code := code, bytes := [] } } }
    (d.port.engine = .executing (.readBlocks b n) →
      d.engineNews true data =
        { ended 0x40 .done .none with port := { (ended 0x40 .done .none).port with
          window := d.port.window.write 0 data } }
      ∧ d.engineNews false data = ended 0x40 .failed .cardError)
    ∧ (d.port.engine = .executing (.writeBlocks b n) →
      d.engineNews true data = ended 0x41 .done .none
      ∧ d.engineNews false data = ended 0x41 .failed .cardError))
  ∧ ∀ (d : Device) (u : UnitId) (m : MountRecord), m ∈ d.recordsOf u ↔
    d.images.get u = some m
    ∨ (∃ x p, d.seq.pending.get u = some x ∧ x.image = some (.mount m p))
    ∨ ∃ g p, d.seq.group = some g ∧ (g.get u).image = some (.mount m p)

/-- R177: FLUSH ends DONE at once when its condition holds, is refused when it does not and the card is not READY, and
otherwise waits with every DIRTY buffer of the units it names in the queue, and the header write of each whose header is
DIRTY requested (R67). While it waits, it ends DONE when its condition holds (R177 d), and FAILED with CARD_ERROR when a
header write of a unit that it names fails (R177 e; a flush that fails is in AFlushStarts). R68: the end of a header write
leaves the header CLEAN, or DIRTY when it was re-dirtied, which asks for the next write; a failure is reported. The model's choices: the
buffers of Unit 0 join before those of Unit 1, which R88 leaves open (notes/assumptions/30.md), and a failed header write
ends the FLUSH FAILED although its condition may hold at that same event (R177 d, notes/assumptions/47.md). -/
def Obligations.AFlushWaitsForItsUnits : Prop :=
  (∀ (s : State) (b : Byte) (sel : FlushSel), s.dev.port.engine = .idle → flushParam b = some sel →
    let saved := ∀ u, sel.names u = true →
      (∀ i < 8, s.dev.ownedBy i u = true → (s.dev.buf i).state ≠ .dirty ∧ (s.dev.buf i).state ≠ .flushing)
      ∧ ∀ m, s.dev.images.get u = some m → m.headerState = .clean
    (saved → Answers (.flush b) s (s.dev.answered 0x33 .done .none []))
    ∧ (¬ saved → s.dev.card.state ≠ .ready →
      Answers (.flush b) s (s.dev.answered 0x33 .refused .cardState []))
    ∧ (¬ saved → s.dev.card.state = .ready → Answers (.flush b) s
      (((s.dev.executing (.flush sel)).flushUnit sel .u0).flushUnit sel .u1)))
  ∧ (∀ (d : Device) (sel : FlushSel) (u : UnitId) (i : Nat), sel.names u = true → i < 8 →
    d.ownedBy i u = true → (d.buf i).state = .dirty → i ∈ (d.flushUnit sel u).pool.queue)
  ∧ (∀ (d : Device) (sel : FlushSel) (u : UnitId),
    (sel.names u = false → d.flushUnit sel u = d)
    ∧ (sel.names u = true → ∃ n l,
      let x := { d with freeCount := n, pool := { d.pool with queue := d.pool.queue ++ l } }
      d.flushUnit sel u = x.requestHeader u))
  ∧ (∀ (d : Device) (u : UnitId),
    ((∀ m, d.images.get u = some m → m.headerState ≠ .dirty) → d.requestHeader u = d)
    ∧ ∀ m, d.images.get u = some m → m.headerState = .dirty →
      ((∃ q ∈ d.card.requests, q.who = .header u) → d.requestHeader u = d)
      ∧ ((∀ q ∈ d.card.requests, q.who ≠ .header u) → (∀ q ∈ d.news, q.who ≠ .header u) →
        d.card.state = .ready → d.requestHeader u =
          { d with card := { d.card with requests := d.card.requests ++ [
            { who := .header u, kind := .write, block := m.headerBlock, count := 4, time := d.now, op := .flush
              unit := some u, track := none }] } }))
  ∧ (∀ (d : Device) (sel : FlushSel), d.port.engine = .executing (.flush sel) →
    let saved := ∀ u, sel.names u = true →
      (∀ i < 8, d.ownedBy i u = true → (d.buf i).state ≠ .dirty ∧ (d.buf i).state ≠ .flushing)
      ∧ ∀ m, d.images.get u = some m → m.headerState = .clean
    let next : Option Device → Prop := fun x => d.flushDone = x
      ∧ (d.banks.entryOwed = false → d.news = [] → bufferIds.find? d.workIdle = none →
        d.serveLookup .u0 = none → d.serveLookup .u1 = none → d.pool.waits = [] → d.micro = x)
    (saved → next (some { d with port := { d.port with
      engine := .result { cls := .done, detail := .none, code := 0x33, bytes := [] } } }))
    ∧ (¬ saved → next none))
  ∧ ∀ (d : Device) (u : UnitId) (m : MountRecord) (data : List Byte), d.images.get u = some m →
    let e := { d with images := d.images.set u (some
      { m with headerState := if m.reDirtied then .dirty else .clean, reDirtied := false }) }
    let f := e.report
      { cls := .uncorrected, cause := .headerWrite, op := .flush, unit := some u, track := none
        block := some m.headerBlock }
    d.deliver { who := .header u, ok := true, data := data } = e.requestHeader u
    ∧ (d.flushNames u = false → d.deliver { who := .header u, ok := false, data := data } = f.requestHeader u)
    ∧ (d.flushNames u = true → d.deliver { who := .header u, ok := false, data := data } =
      Device.requestHeader { f with port := { f.port with
        engine := .result { cls := .failed, detail := .cardError, code := 0x33, bytes := [] } } } u)

/-- R43, R46, R180: UNIT_STATUS returns the unit's state in eight bytes and clears its events. -/
def Obligations.UnitStatusReadsAndClearsTheEvents : Prop :=
  ∀ (s : State) (unit : Byte) (u : UnitId), s.dev.port.engine = .idle → unitParam unit = some u →
    let r := s.dev.units.get u
    let bit : Bool → Nat → Nat := fun b n => if b then n else 0
    let header := match s.dev.images.get u with
      | some m => m.headerBlock
      | none => 0xFFFFFFFF
    Answers (.unitStatus unit) s
      { s.dev.answered 0x50 .done .none
          [ BitVec.ofNat 8 (bit r.enabled 1 + 2 * selectLineCode r.selectLine + 8 * r.motorSource.code
              + 32 * r.lineMode.code),
            BitVec.ofNat 8 r.cylinder,
            BitVec.ofNat 8 (bit r.side 1 + bit r.motor 2 + bit r.atSpeed 4 + bit r.protect 8 + bit r.latch 16
              + bit (s.dev.seq.pending.get u).isSome 32 + bit r.applied 64 + bit r.lost 128),
            BitVec.ofNat 8 (header / 16777216), BitVec.ofNat 8 (header / 65536),
            BitVec.ofNat 8 (header / 256), BitVec.ofNat 8 header,
            BitVec.ofNat 8 ((List.range 8).filter (fun i => s.dev.ownedBy i u
              && ((s.dev.buf i).state == .dirty || (s.dev.buf i).state == .flushing))).length ] with
        units := s.dev.units.set u { r with applied := false, lost := false } }

/-- R149, R145 c: CARD_RESET is refused while a unit carries an image or a change, and in ABSENT and INITIALIZING; it
waits for a run on the card, and begins the initialization otherwise. Inferences of the model: it waits for a retry that
is owed as well (notes/assumptions/27.md), and the set of requests is empty once the initialization begins
(notes/assumptions/12.md). -/
def Obligations.ACardResetInitializesAgain : Prop :=
  ∀ s : State, s.dev.port.engine = .idle →
    let carries := ∃ u, s.dev.mounted u = true ∨ s.dev.seq.pending.get u ≠ none
    let idle := s.dev.card.run = none ∧ s.dev.card.retry = none
    let ready := s.dev.card.state = .ready ∨ s.dev.card.state = .failed
    (carries → Answers .cardReset s (s.dev.answered 0x42 .refused .mounted []))
    ∧ (¬ carries → ¬ ready → Answers .cardReset s (s.dev.answered 0x42 .refused .cardState []))
    ∧ (¬ carries → ready → ¬ idle → Answers .cardReset s
      { s.dev.executing .cardReset with card := { s.dev.card with resetWaits := true } })
    ∧ (¬ carries → ready → idle →
      let e := { s.dev.executing .cardReset with card :=
        { s.dev.card with state := .initializing, capacity := none, initTime := some 0, requests := []
                          resetWaits := false } }
      Reaches .cardReset s e ∧ (s.dev.card.requests = [] → Answers .cardReset s e))

/-! ### The Fault Report Banks (chapter 10) -/

/-- R172, R178, R183, R189, R190: SET_INTERRUPT_MASK, READ_BANK, CLEAR_BANK, SET_BANK_ENABLE and RESUME. R180: the fourteen
bytes of READ_BANK: VALID, OVERFLOW and ENABLED, class, cause, operation, the present parts, the parts, the count. That a
bank with no record returns thirteen 00 and its count is an inference of the model (notes/assumptions/34.md). -/
def Obligations.TheBankCommandsActOnTheBanks : Prop :=
  ∀ s : State, s.dev.port.engine = .idle →
    (∀ m : Byte, m.toNat < 8 → Answers (.setInterruptMask m) s
      { s.dev with port :=
        { (s.dev.answered 0x11 .done .none []).port with
          mask := { result := m.toNat % 2 == 1, bank := m.toNat / 2 % 2 == 1, unit := m.toNat / 4 == 1 } } })
    ∧ (∀ b i, bankParam b = some i →
      let x := s.dev.banks.get i
      let bit : Bool → Nat → Nat := fun b n => if b then n else 0
      let causes : BankId → List Cause := fun
        | .drive => [.doubleSelect, .stepLimit, .writeNoDisk, .stepDuringWrite, .writeProtected, .writeNoTrack]
        | .track => [.writeCrc, .overlongWrite, .idMismatch, .trackNotReady, .partialWrite, .flagLost, .strayWrite,
            .formatMixed, .formatSize, .formatFit, .formatTableFull]
        | .map => [.chainLimit, .chainShort, .fetchFail, .headerWrite]
        | .card => [.cardCrc, .cardReject, .cardTimeout, .cardRemoved, .initFail]
      (x.record = none → Answers (.readBank b) s
        (s.dev.answered 0x60 .done .none [0, 0, 0, 0, 0, 0, 0, 0, 0, 0, 0, 0, 0, BitVec.ofNat 8 x.count]))
      ∧ ∀ r, x.record = some r →
        let block := r.block.getD 0
        let loc := r.track.getD { cyl := 0, head := 0, r := none }
        Answers (.readBank b) s (s.dev.answered 0x60 .done .none
          [ BitVec.ofNat 8 (1 + bit x.overflow 2 + bit (x.enabled r.cause) 4),
            (match r.cls with
              | .note => 0
              | .corrected => 1
              | .uncorrected => 2),
            BitVec.ofNat 8 ((causes r.cause.bank).idxOf r.cause + 1),
            BitVec.ofNat 8 (([.fill, .flush, .fetch, .capture, .mount, .loader, .init, .drive] :
              List Operation).idxOf r.op + 1),
            BitVec.ofNat 8 (bit r.unit.isSome 1 + bit r.track.isSome 2 + bit loc.r.isSome 4
              + bit r.block.isSome 8),
            (if r.unit = some .u1 then 1 else 0), BitVec.ofNat 8 loc.cyl, BitVec.ofNat 8 loc.head,
            BitVec.ofNat 8 (loc.r.getD 0), BitVec.ofNat 8 (block / 16777216),
            BitVec.ofNat 8 (block / 65536), BitVec.ofNat 8 (block / 256), BitVec.ofNat 8 block,
            BitVec.ofNat 8 x.count ]))
    ∧ (∀ b i, bankParam b = some i → Answers (.clearBank b) s
      { s.dev.answered 0x61 .done .none [] with
        banks := s.dev.banks.set i
          { s.dev.banks.get i with record := none, overflow := false, count := 0 } })
    ∧ Answers (.clearBank 0xFF) s
      { s.dev.answered 0x61 .done .none [] with
        banks :=
          { s.dev.banks with
            drive := { s.dev.banks.drive with record := none, overflow := false, count := 0 }
            track := { s.dev.banks.track with record := none, overflow := false, count := 0 }
            map := { s.dev.banks.map with record := none, overflow := false, count := 0 }
            card := { s.dev.banks.card with record := none, overflow := false, count := 0 } } }
    ∧ (∀ b c e i x v, bankParam b = some i → causeParam i c = some x → flagParam e = some v →
      Answers (.setBankEnable b c e) s
        { s.dev.answered 0x62 .done .none [] with
          banks := s.dev.banks.set i
            { s.dev.banks.get i with enables := (s.dev.banks.get i).enables.set (c.toNat - 1) v } })
    ∧ Answers .resume s
      { s.dev.answered 0x63 .done .none [] with
        units := ⟨{ s.dev.units.u0 with latch := true }, { s.dev.units.u1 with latch := true }⟩
        banks := { s.dev.banks with fip := false, offline := false } }

/-- R181, R184 to R186: a report reaches its bank: the count rises by 1 and stays at 255; a disabled cause changes
nothing more; an enabled one replaces an absent record, one whose cause is disabled and one of lower class, and
is lost to another, which OVERFLOW shows; an enabled UNCORRECTED report sets FIP, and with FIP set takes the
part OFFLINE (R186). No other bank changes, and nothing outside the banks. R187, R112, R118, R167 g: the entry to OFFLINE:
the captures of both units end with their decode, the open sections close, and a sector command in execution, which waits on
a fill, is displaced.
The model's choices: the entry comes before all else that follows the report (notes/assumptions/15.md), and the capture of
Unit 0 ends before that of Unit 1 (notes/assumptions/30.md). An inference: a WRITE_SECTORS that waits is displaced by R187 d
and is none of the writes from the loader that R112 lets go on, and one whose fill completes at the same event is applied
ahead of the entry (SectorCommandsAreJudged, notes/assumptions/46.md). -/
def Obligations.AReportReachesItsBank : Prop :=
  (∀ (d : Device) (r : Report),
    let i := r.cause.bank
    let b := d.banks.get i
    let b' := (d.report r).banks.get i
    let rank : ReportClass → Nat := fun
      | .note => 0
      | .corrected => 1
      | .uncorrected => 2
    b'.count = min 255 (b.count + 1) ∧ b'.enables = b.enables
    ∧ (b.enabled r.cause = false →
      b'.record = b.record ∧ b'.overflow = b.overflow ∧ (d.report r).banks.fip = d.banks.fip
      ∧ (d.report r).banks.offline = d.banks.offline)
    ∧ (b.enabled r.cause = true →
      (b.record = none → b'.record = some r ∧ b'.overflow = b.overflow)
      ∧ (∀ x, b.record = some x → b'.overflow = true
        ∧ (b'.record = if b.enabled x.cause = false ∨ rank x.cls < rank r.cls then some r else some x))
      ∧ (r.cls ≠ .uncorrected → (d.report r).banks.fip = d.banks.fip
        ∧ (d.report r).banks.offline = d.banks.offline)
      ∧ (r.cls = .uncorrected → (d.report r).banks.fip = true
        ∧ (d.report r).banks.offline = (d.banks.offline || d.banks.fip)
        ∧ (d.report r).banks.entryOwed = (d.banks.entryOwed || (d.banks.fip && !d.banks.offline))))
    ∧ (∀ j, j ≠ i → (d.report r).banks.get j = d.banks.get j)
    ∧ { d.report r with banks := d.banks } = d)
  ∧ ∀ d : Device, d.banks.entryOwed = true →
    let e := Device.captureEnd (Device.captureEnd { d with banks := { d.banks with entryOwed := false } } .u0) .u1
    let close : Delivery → Delivery := fun x =>
      { x with openSection := none, idDecision := none, dataDecision := none, latch := none }
    let f := { e with delivery := ⟨close e.delivery.u0, close e.delivery.u1⟩ }
    e.port = d.port
    ∧ ((∀ c, d.port.engine ≠ .executing (.sectors c)) → d.micro = some f)
    ∧ ∀ c, d.port.engine = .executing (.sectors c) → d.micro = some { f with port := { d.port with
      engine := .result { cls := .displaced, detail := .offline, code := Command.code (.sectors c), bytes := [] } } }

/-! ### Layouts, lookups and headers (chapters 1 and 3) -/

/-- R7, R11, R13 to R16: a layout that fits fills the revolution exactly, keeps gap 4b at its minimum or more, never
takes a gap 3 above the requested one, holds its data in a buffer, and has its sectors one after the other, with the slots
of their fields at fixed offsets. R2, R14, R15: which formats are INVALID, which fit, and gap 3 in effect. R5, R18 to R20: the
sector numbers in physical order, of an R list or placed by the interleave and turned by the skew, and each sector's logical
index, the rank of its number. R4: the format of a track. -/
def Obligations.ALayoutFillsItsRevolution : Prop :=
  (∀ (f : TrackFormat) (c h heads : Nat) (l : Layout), layoutOf f c h heads = .fit l →
    let O := match f.enc with
      | .mfm => 62
      | .fm => 33
    let P := match f.enc with
      | .mfm => 128
      | .fm => 64
    let M := match f.enc with
      | .mfm => 16
      | .fm => 8
    let D := 128 * 2 ^ f.sizeCode
    l.enc = f.enc ∧ l.rate = f.rate ∧ l.sectors = f.sectors ∧ l.sizeCode = f.sizeCode
    ∧ P + f.sectors * (O + D + l.gap3) + l.gap4b = f.rate / 40 ∧ M ≤ l.gap4b ∧ l.gap3 ≤ f.gap3
    ∧ f.sectors * D ≤ 12288 ∧ l.table.length = f.sectors
    ∧ (∀ k t, l.table[k]? = some t → t.start = P + k * (O + D + l.gap3))
    ∧ ∀ k, l.start k = P + k * (O + D + l.gap3))
  ∧ (∀ (f : TrackFormat) (c h heads : Nat),
    let S := f.sectors
    let O := match f.enc with
      | .mfm => 62
      | .fm => 33
    let P := match f.enc with
      | .mfm => 128
      | .fm => 64
    let M := match f.enc with
      | .mfm => 16
      | .fm => 8
    let G : Nat := match f.enc with
      | .mfm => 8
      | .fm => 4
    let D := 128 * 2 ^ f.sizeCode
    let valid := (match f.enc with
        | .mfm => f.rate = 250000 ∨ f.rate = 500000
        | .fm => f.rate = 125000 ∨ f.rate = 250000)
      ∧ 1 ≤ S ∧ S ≤ 64 ∧ f.sizeCode ≤ 6 ∧ 1 ≤ f.gap3 ∧ f.gap3 ≤ 255
      ∧ (f.rList = none → f.firstR + S ≤ 256 ∧ 1 ≤ f.interleave ∧ f.interleave ≤ S ∧ f.skew + 1 ≤ S)
      ∧ ∀ list, f.rList = some list → list.length = S ∧ list.Nodup
    let room := P + S * (O + D + f.gap3) + M ≤ f.rate / 40
    let shrunk : Int := ((f.rate / 40 : Nat) - M - P - S * (O + D) : Int) / S
    (layoutOf f c h heads = .invalid ↔ ¬ valid)
    ∧ ((∃ l, layoutOf f c h heads = .fit l) ↔ valid ∧ (room ∨ G ≤ shrunk) ∧ S * D ≤ 12288)
    ∧ ∀ l, layoutOf f c h heads = .fit l →
      (room → l.gap3 = f.gap3) ∧ (¬ room → (l.gap3 : Int) = shrunk))
  ∧ (∀ (f : TrackFormat) (c h heads : Nat) (l : Layout), layoutOf f c h heads = .fit l →
    ∀ t ∈ l.table, match f.enc with
      | .mfm => t.idMark = t.start + 12 ∧ t.idEnd = t.start + 22 ∧ t.dataMark = t.start + 56
        ∧ t.firstData = t.start + 60 ∧ t.dataCrc = t.start + 60 + 128 * 2 ^ f.sizeCode
      | .fm => t.idMark = t.start + 6 ∧ t.idEnd = t.start + 13 ∧ t.dataMark = t.start + 30
        ∧ t.firstData = t.start + 31 ∧ t.dataCrc = t.start + 31 + 128 * 2 ^ f.sizeCode)
  ∧ (∀ (f : TrackFormat) (c h heads : Nat) (l : Layout), layoutOf f c h heads = .fit l →
    (∀ t ∈ l.table, t.logical = (l.table.filter (fun y => y.number < t.number)).length)
    ∧ (l.table.map LayoutSector.number).Nodup
    ∧ (∀ list, f.rList = some list → l.table.map LayoutSector.number = list)
    ∧ (f.rList = none → ∃ place : List Nat, place.length = f.sectors ∧ place.Nodup
      ∧ ∀ j p, place[j]? = some p →
        (∃ e, p = (j * f.interleave + e) % f.sectors
          ∧ p ∉ place.take j ∧ ∀ e' < e, (j * f.interleave + e') % f.sectors ∈ place.take j)
        ∧ ∃ t, l.table[(p + (c * heads + h) * f.skew) % f.sectors]? = some t
          ∧ t.number = f.firstR + j ∧ t.logical = j))
  ∧ ∀ (g : Geometry) (c h : Nat),
    (g.cylinders ≤ c ∨ g.heads ≤ h → g.formatOf c h = none)
    ∧ (c < g.cylinders → h < g.heads →
      let hits : OverrideEntry → Prop := fun e => e.firstCyl ≤ c ∧ c ≤ e.lastCyl
        ∧ (e.heads = .both ∨ e.heads = .head0 ∧ h = 0 ∨ e.heads = .head1 ∧ h = 1)
      (∀ a e b, g.overrides = a ++ e :: b → hits e → (∀ y ∈ b, ¬ hits y) → g.formatOf c h = some e.format)
      ∧ ((∀ e ∈ g.overrides, ¬ hits e) → g.formatOf c h = some g.base))

/-- R6: equality of two formats on a track. -/
def Obligations.FormatsAreEqualPerTrack : Prop :=
  ∀ (a b : TrackFormat) (c h heads : Nat), a.equalOn b c h heads = true ↔
    a.enc = b.enc ∧ a.rate = b.rate ∧ a.sectors = b.sectors ∧ a.sizeCode = b.sizeCode ∧ a.gap3 = b.gap3
      ∧ a.order c h heads = b.order c h heads

/-- R60: a block that the window covers is answered, with a card block of one extent of the window and a length that stays
within it. R60, R61: a lookup is asked for and joins its unit's list, and the first of the list is served: rewound when its
block lies below the base (R63), then slid. R62: one step of a slide, on a DATA (the first of four entries is dropped), a
JUMP, an END, or a descriptor whose block is not held. R60 to R64: what the slide leads to: the answer, the group fetch, or
a failure, with CHAIN_LIMIT at the 257th fetch, CHAIN_SHORT at END, and FETCH_FAIL when the fetch failed, its one report
and the loss of the blocks asked for. R52, R180: what a descriptor reads as. R60, R78, R91: the run that an answered lookup
requests; R79, R93: what the loss of blocks does to a fill and to a flush. The model's choices: a slide that goes round without end stays unanswered
(notes/assumptions/13.md), a descriptor of a group above 7 reads as END (notes/assumptions/14.md), Unit 0's lookup comes before Unit 1's (notes/assumptions/30.md), and of two buffers of a unit
that ask at one event the one with the lower number asks first (notes/assumptions/42.md). -/
def Obligations.ALookupStaysInItsExtent : Prop :=
  (∀ (es : List Extent) (base b card n : Nat), base ≤ b → locate es base b = some (card, n) →
    ∃ (before : List Extent) (e : Extent) (after : List Extent), es = before ++ e :: after
      ∧ base + (before.map Extent.count).sum ≤ b
      ∧ b < base + (before.map Extent.count).sum + e.count
      ∧ card = e.start + (b - (base + (before.map Extent.count).sum))
      ∧ card + n = e.start + e.count)
  ∧ (∀ (es : List Extent) (base b : Nat), base ≤ b → b < base + (es.map Extent.count).sum →
    ∃ card n, 1 ≤ n ∧ locate es base b = some (card, n))
  ∧ (∀ (d : Device) (i : Nat) (k : TrackKey) (w : Work) (b : WorkBlock) (rest : List WorkBlock),
    d.banks.entryOwed = false → d.news = [] → bufferIds.find? d.workIdle = some i → (d.buf i).key = some k →
    (d.buf i).work = some w → w.todo = b :: rest →
    let n := min 16 (stretch w.todo)
    let x := d.windows.get k.unit
    d.micro = some
      { d with
        pool := { d.pool with
          buffers := d.pool.buffers.set i { d.buf i with work := some { w with stage := .lookup n } } }
        windows := d.windows.set k.unit
          { x with lookups := x.lookups ++ [{ buffer := i, block := b.image, count := n, fetches := 0 }] } })
  ∧ (∀ d : Device, d.banks.entryOwed = false → d.news = [] → bufferIds.find? d.workIdle = none →
    (∀ e, d.serveLookup .u0 = some e → d.micro = some e)
    ∧ ∀ e, d.serveLookup .u0 = none → d.serveLookup .u1 = some e → d.micro = some e)
  ∧ (∀ (fuel : Nat) (w : ExtentWindow) (b : Nat),
    let covered := w.base ≤ b ∧ b < w.base + (w.entries.map Extent.count).sum
    (covered → slide (fuel + 1) w b = (w, .covered))
    ∧ (¬ covered → w.endSeen = true → slide (fuel + 1) w b = (w, .short))
    ∧ (¬ covered → w.endSeen = false → w.groupBuf.map Prod.fst ≠ some w.next.block →
      slide (fuel + 1) w b = (w, .fetch))
    ∧ ∀ bs, ¬ covered → w.endSeen = false → w.groupBuf = some (w.next.block, bs) →
      (∀ e, readDescriptor bs w.next = .data e →
        let next : ChainPos :=
          if w.next.desc < 7 then { w.next with desc := w.next.desc + 1 }
          else if w.next.group < 7 then ⟨w.next.block, w.next.group + 1, 0⟩
          else ⟨w.next.block + 1, 0, 0⟩
        (w.entries.length < 4 →
          slide (fuel + 1) w b = slide fuel { w with entries := w.entries ++ [e], next := next } b)
        ∧ (∀ x xs, w.entries = x :: xs → 3 ≤ xs.length → slide (fuel + 1) w b
          = slide fuel { w with entries := xs ++ [e], base := w.base + x.count, next := next } b))
      ∧ (∀ blk g, readDescriptor bs w.next = .jump blk g →
        slide (fuel + 1) w b = slide fuel { w with next := ⟨blk, g, 0⟩ } b)
      ∧ (readDescriptor bs w.next = .fin → slide (fuel + 1) w b = ({ w with endSeen := true }, .short)))
  ∧ (∀ (bs : List Byte) (p : ChainPos),
    let o := p.group * 64 + p.desc * 8
    let byte : Nat → Nat := fun j => (byteAt bs (o + j)).toNat
    let count := byte 2 * 256 + byte 3
    let block := ((byte 4 * 256 + byte 5) * 256 + byte 6) * 256 + byte 7
    (p.group ≤ 7 → byte 0 = 1 → count ≠ 0 → readDescriptor bs p = .data { start := block, count := count })
    ∧ (p.group ≤ 7 → byte 0 = 2 → byte 1 ≤ 7 → readDescriptor bs p = .jump block (byte 1))
    ∧ (7 < p.group ∨ byte 0 ≠ 1 ∧ byte 0 ≠ 2 ∨ byte 0 = 1 ∧ count = 0 ∨ byte 0 = 2 ∧ 7 < byte 1 →
      readDescriptor bs p = .fin))
  ∧ (∀ (d : Device) (i : Nat) (k : TrackKey) (w : Work), (d.buf i).key = some k → (d.buf i).work = some w →
    let x := d.buf i
    let put : TrackBuffer → Device := fun y => { d with pool := { d.pool with buffers := d.pool.buffers.set i y } }
    (∀ b rest card n, w.todo = b :: rest →
      let run : RunKind → WorkStage → Device := fun kind stage =>
        (put { x with work := some { w with stage := stage } }).request
          { who := .buffer i, kind := kind, block := card, count := n, time := 0
            op := if x.state = .filling then .fill else .flush
            unit := some k.unit, track := some { cyl := k.cyl, head := k.head, r := none } }
      (b.kind = .whole → d.lookupAnswered i card n = run .write (.writing card n))
      ∧ (b.kind ≠ .whole → d.lookupAnswered i card n = run .read (.reading card n)))
    ∧ ∀ m n, d.images.get k.unit = some m →
      let lost := (w.todo.take n).map WorkBlock.image
      let rest : Work := { w with todo := w.todo.drop n, stage := .next, taken := [] }
      (x.state = .filling → d.loseBlocks i n = put { x.degrade m k lost with work := some rest })
      ∧ (x.state ≠ .filling →
        d.loseBlocks i n = put { x with work := some { rest with failed := w.failed ++ lost } }))
  ∧ ∀ (d : Device) (u : UnitId),
    let w := d.windows.get u
    let slid : ExtentWindow → Device := fun x => { d with windows := d.windows.set u x }
    let lost : ExtentWindow → Lookup → Cause → Option Nat → Device := fun x l cause block =>
      Device.loseBlocks
        ((slid x).report
          { cls := .uncorrected, cause := cause
            op := if (d.buf l.buffer).state = .filling then .fill else .flush
            unit := some u, track := (d.buf l.buffer).key.map TrackKey.loc, block := block })
        l.buffer l.count
    (∀ l rest, w.lookups = l :: rest → w.fetching = false →
      let w1 : ExtentWindow :=
        if l.block < w.base then
          { w with entries := [], base := 0, next := d.chainStart u, endSeen := false }
        else w
      ∀ w2,
        (slide (slideFuel l.block) w1 l.block = (w2, .covered) →
          ∃ card n, locate w2.entries w2.base l.block = some (card, n) ∧ d.serveLookup u = some
            ((slid { w2 with lookups := rest }).lookupAnswered l.buffer card (min l.count n)))
        ∧ (slide (slideFuel l.block) w1 l.block = (w2, .fetch) →
          (l.fetches < 256 → d.serveLookup u = some
            ((slid { w2 with lookups := { l with fetches := l.fetches + 1 } :: rest, fetching := true }).request
            { who := .window u, kind := .read, block := w2.next.block, count := 1, time := 0, op := .fetch
              unit := some u, track := (d.buf l.buffer).key.map TrackKey.loc }))
          ∧ (256 ≤ l.fetches →
            d.serveLookup u = some (lost { w2 with lookups := rest } l .chainLimit none)))
        ∧ (slide (slideFuel l.block) w1 l.block = (w2, .short) →
          d.serveLookup u = some (lost { w2 with lookups := rest } l .chainShort none))
        ∧ (slide (slideFuel l.block) w1 l.block = (w2, .endless) → d.serveLookup u = none))
    ∧ (w.fetching = true →
      (∀ data, d.deliver { who := .window u, ok := true, data := data } =
        slid { w with fetching := false, groupBuf := some (w.next.block, data) })
      ∧ ∀ l rest, w.lookups = l :: rest → d.deliver { who := .window u, ok := false, data := [] } =
        lost { w with fetching := false, groupBuf := none, lookups := rest } l .fetchFail (some w.next.block))

/-- R48, R67, R180: the header that is written carries the override count, 00 in the slots after the entries, a CRC that
passes, and every other byte as the header copy holds it. R66, R180: an override change in the header copy: the entries that
are kept move up, each with its bytes, the new entry stands in the next slot in the bytes of R180 and reads back as the new
override, the count follows, and no other byte changes. The model's choice: byte 3 of the new entry, and the bytes of its R
list that are not in use, are 00 (notes/assumptions/38.md). -/
def Obligations.AWrittenHeaderIsGood : Prop :=
  (∀ m : MountRecord, m.headerCopy.length = 2048 → m.geometry.overrides.length ≤ 16 →
    let n := m.geometry.overrides.length
    let bs := m.headerBytes
    bs.length = 2048
    ∧ bytesAt bs 2046 2 = crcBytes (crc (bytesAt bs 0 2046))
    ∧ byteAt bs 13 = BitVec.ofNat 8 n
    ∧ (∀ i, 88 + n * 76 ≤ i → i < 1304 → byteAt bs i = 0)
    ∧ ∀ i, i < 2046 → i ≠ 13 → (i < 88 + n * 76 ∨ 1304 ≤ i) → byteAt bs i = byteAt m.headerCopy i)
  ∧ ∀ (m m1 : MountRecord) (c h : Nat) (new : Option TrackFormat), m.headerCopy.length = 2048 →
    m.geometry.overrides.length ≤ 16 → m.changeOverride c h new = .changed m1 →
    let slot : List Byte → Nat → List Byte := fun bs i => bytesAt bs (88 + i * 76) 76
    let single : OverrideEntry → Bool := fun o =>
      decide (o.firstCyl = c ∧ o.lastCyl = c ∧ o.heads = if h = 0 then .head0 else .head1)
    let kept := (List.range m.geometry.overrides.length).filter (fun i =>
      m.geometry.overrides[i]?.map single = some false)
    let num : Nat → Byte := BitVec.ofNat 8
    m1.headerCopy.length = 2048
    ∧ byteAt m1.headerCopy 13 = num m1.geometry.overrides.length
    ∧ (∀ j i, kept[j]? = some i → slot m1.headerCopy j = slot m.headerCopy i
      ∧ m1.geometry.overrides[j]? = m.geometry.overrides[i]?)
    ∧ (∀ i, i < 2048 → i ≠ 13 → i < 88 ∨ 88 + m1.geometry.overrides.length * 76 ≤ i →
      byteAt m1.headerCopy i = byteAt m.headerCopy i)
    ∧ (new = none → m1.geometry.overrides.length = kept.length)
    ∧ ∀ f, new = some f →
      m1.geometry.overrides.length = kept.length + 1
      ∧ (let list := f.rList.getD []
        let code : Nat := match f.enc with
          | .fm => if f.rate = 125000 then 0 else 1
          | .mfm => if f.rate = 500000 then 3 else 2
        slot m1.headerCopy kept.length
          = [num c, num c, if h = 0 then 0 else 1, 0, num code, num f.sectors, num f.sizeCode, num f.firstR,
              num f.gap3, num f.interleave, num f.skew, num list.length]
            ++ (List.range 64).map (fun i => num (list.getD i 0)))
      ∧ (f.valid = true → c < 256 → f.firstR < 256 → f.interleave < 256 → f.skew < 256 →
        (∀ r ∈ f.rList.getD [], r < 256) →
        parseEntry m1.headerCopy kept.length = some
          { firstCyl := c, lastCyl := c, heads := if h = 0 then .head0 else .head1, format := f })
end

