-- ==== Sys2Proof/Laws/State.lean ====
section
/-!
SUPPORT. One lemma for each field and each update of the state, true by unfolding, so that no later proof unfolds
a record update.
-/

namespace Sys2Proof.Machine

/-! ### A pair of units -/

@[simp] theorem PerUnit.get_set_self {α : Type} (p : PerUnit α) (u : UnitId) (a : α) :
    (p.set u a).get u = a := by cases u <;> rfl

@[simp] theorem PerUnit.get_set_other {α : Type} (p : PerUnit α) (u : UnitId) (a : α) :
    (p.set u a).get u.other = p.get u.other := by cases u <;> rfl

theorem PerUnit.get_set_ne {α : Type} (p : PerUnit α) {u v : UnitId} (a : α) (h : v ≠ u) :
    (p.set u a).get v = p.get v := by cases u <;> cases v <;> first | rfl | exact absurd rfl h

theorem PerUnit.ext_get {α : Type} {p q : PerUnit α} (h : ∀ u, p.get u = q.get u) : p = q := by
  cases p; cases q
  have h0 := h .u0
  have h1 := h .u1
  simp only [PerUnit.get] at h0 h1
  subst h0; subst h1; rfl

/-! ### modUnit -/

@[simp] theorem Device.modUnit_now (d : Device) (u : UnitId) (f : UnitRecord → UnitRecord) :
    (d.modUnit u f).now = d.now := rfl

@[simp] theorem Device.modUnit_freeCount (d : Device) (u : UnitId) (f : UnitRecord → UnitRecord) :
    (d.modUnit u f).freeCount = d.freeCount := rfl

@[simp] theorem Device.modUnit_lines (d : Device) (u : UnitId) (f : UnitRecord → UnitRecord) :
    (d.modUnit u f).lines = d.lines := rfl

@[simp] theorem Device.modUnit_images (d : Device) (u : UnitId) (f : UnitRecord → UnitRecord) :
    (d.modUnit u f).images = d.images := rfl

@[simp] theorem Device.modUnit_windows (d : Device) (u : UnitId) (f : UnitRecord → UnitRecord) :
    (d.modUnit u f).windows = d.windows := rfl

@[simp] theorem Device.modUnit_pool (d : Device) (u : UnitId) (f : UnitRecord → UnitRecord) :
    (d.modUnit u f).pool = d.pool := rfl

@[simp] theorem Device.modUnit_delivery (d : Device) (u : UnitId) (f : UnitRecord → UnitRecord) :
    (d.modUnit u f).delivery = d.delivery := rfl

@[simp] theorem Device.modUnit_readData (d : Device) (u : UnitId) (f : UnitRecord → UnitRecord) :
    (d.modUnit u f).readData = d.readData := rfl

@[simp] theorem Device.modUnit_captures (d : Device) (u : UnitId) (f : UnitRecord → UnitRecord) :
    (d.modUnit u f).captures = d.captures := rfl

@[simp] theorem Device.modUnit_card (d : Device) (u : UnitId) (f : UnitRecord → UnitRecord) :
    (d.modUnit u f).card = d.card := rfl

@[simp] theorem Device.modUnit_news (d : Device) (u : UnitId) (f : UnitRecord → UnitRecord) :
    (d.modUnit u f).news = d.news := rfl

@[simp] theorem Device.modUnit_seq (d : Device) (u : UnitId) (f : UnitRecord → UnitRecord) :
    (d.modUnit u f).seq = d.seq := rfl

@[simp] theorem Device.modUnit_port (d : Device) (u : UnitId) (f : UnitRecord → UnitRecord) :
    (d.modUnit u f).port = d.port := rfl

@[simp] theorem Device.modUnit_banks (d : Device) (u : UnitId) (f : UnitRecord → UnitRecord) :
    (d.modUnit u f).banks = d.banks := rfl

/-! ### setImage -/

@[simp] theorem Device.setImage_now (d : Device) (u : UnitId) (m : Option MountRecord) :
    (d.setImage u m).now = d.now := rfl

@[simp] theorem Device.setImage_freeCount (d : Device) (u : UnitId) (m : Option MountRecord) :
    (d.setImage u m).freeCount = d.freeCount := rfl

@[simp] theorem Device.setImage_lines (d : Device) (u : UnitId) (m : Option MountRecord) :
    (d.setImage u m).lines = d.lines := rfl

@[simp] theorem Device.setImage_units (d : Device) (u : UnitId) (m : Option MountRecord) :
    (d.setImage u m).units = d.units := rfl

@[simp] theorem Device.setImage_windows (d : Device) (u : UnitId) (m : Option MountRecord) :
    (d.setImage u m).windows = d.windows := rfl

@[simp] theorem Device.setImage_pool (d : Device) (u : UnitId) (m : Option MountRecord) :
    (d.setImage u m).pool = d.pool := rfl

@[simp] theorem Device.setImage_delivery (d : Device) (u : UnitId) (m : Option MountRecord) :
    (d.setImage u m).delivery = d.delivery := rfl

@[simp] theorem Device.setImage_readData (d : Device) (u : UnitId) (m : Option MountRecord) :
    (d.setImage u m).readData = d.readData := rfl

@[simp] theorem Device.setImage_captures (d : Device) (u : UnitId) (m : Option MountRecord) :
    (d.setImage u m).captures = d.captures := rfl

@[simp] theorem Device.setImage_card (d : Device) (u : UnitId) (m : Option MountRecord) :
    (d.setImage u m).card = d.card := rfl

@[simp] theorem Device.setImage_news (d : Device) (u : UnitId) (m : Option MountRecord) :
    (d.setImage u m).news = d.news := rfl

@[simp] theorem Device.setImage_seq (d : Device) (u : UnitId) (m : Option MountRecord) :
    (d.setImage u m).seq = d.seq := rfl

@[simp] theorem Device.setImage_port (d : Device) (u : UnitId) (m : Option MountRecord) :
    (d.setImage u m).port = d.port := rfl

@[simp] theorem Device.setImage_banks (d : Device) (u : UnitId) (m : Option MountRecord) :
    (d.setImage u m).banks = d.banks := rfl

/-! ### modWindow -/

@[simp] theorem Device.modWindow_now (d : Device) (u : UnitId) (f : ExtentWindow → ExtentWindow) :
    (d.modWindow u f).now = d.now := rfl

@[simp] theorem Device.modWindow_freeCount (d : Device) (u : UnitId) (f : ExtentWindow → ExtentWindow) :
    (d.modWindow u f).freeCount = d.freeCount := rfl

@[simp] theorem Device.modWindow_lines (d : Device) (u : UnitId) (f : ExtentWindow → ExtentWindow) :
    (d.modWindow u f).lines = d.lines := rfl

@[simp] theorem Device.modWindow_units (d : Device) (u : UnitId) (f : ExtentWindow → ExtentWindow) :
    (d.modWindow u f).units = d.units := rfl

@[simp] theorem Device.modWindow_images (d : Device) (u : UnitId) (f : ExtentWindow → ExtentWindow) :
    (d.modWindow u f).images = d.images := rfl

@[simp] theorem Device.modWindow_pool (d : Device) (u : UnitId) (f : ExtentWindow → ExtentWindow) :
    (d.modWindow u f).pool = d.pool := rfl

@[simp] theorem Device.modWindow_delivery (d : Device) (u : UnitId) (f : ExtentWindow → ExtentWindow) :
    (d.modWindow u f).delivery = d.delivery := rfl

@[simp] theorem Device.modWindow_readData (d : Device) (u : UnitId) (f : ExtentWindow → ExtentWindow) :
    (d.modWindow u f).readData = d.readData := rfl

@[simp] theorem Device.modWindow_captures (d : Device) (u : UnitId) (f : ExtentWindow → ExtentWindow) :
    (d.modWindow u f).captures = d.captures := rfl

@[simp] theorem Device.modWindow_card (d : Device) (u : UnitId) (f : ExtentWindow → ExtentWindow) :
    (d.modWindow u f).card = d.card := rfl

@[simp] theorem Device.modWindow_news (d : Device) (u : UnitId) (f : ExtentWindow → ExtentWindow) :
    (d.modWindow u f).news = d.news := rfl

@[simp] theorem Device.modWindow_seq (d : Device) (u : UnitId) (f : ExtentWindow → ExtentWindow) :
    (d.modWindow u f).seq = d.seq := rfl

@[simp] theorem Device.modWindow_port (d : Device) (u : UnitId) (f : ExtentWindow → ExtentWindow) :
    (d.modWindow u f).port = d.port := rfl

@[simp] theorem Device.modWindow_banks (d : Device) (u : UnitId) (f : ExtentWindow → ExtentWindow) :
    (d.modWindow u f).banks = d.banks := rfl

/-! ### modDelivery -/

@[simp] theorem Device.modDelivery_now (d : Device) (u : UnitId) (f : Delivery → Delivery) :
    (d.modDelivery u f).now = d.now := rfl

@[simp] theorem Device.modDelivery_freeCount (d : Device) (u : UnitId) (f : Delivery → Delivery) :
    (d.modDelivery u f).freeCount = d.freeCount := rfl

@[simp] theorem Device.modDelivery_lines (d : Device) (u : UnitId) (f : Delivery → Delivery) :
    (d.modDelivery u f).lines = d.lines := rfl

@[simp] theorem Device.modDelivery_units (d : Device) (u : UnitId) (f : Delivery → Delivery) :
    (d.modDelivery u f).units = d.units := rfl

@[simp] theorem Device.modDelivery_images (d : Device) (u : UnitId) (f : Delivery → Delivery) :
    (d.modDelivery u f).images = d.images := rfl

@[simp] theorem Device.modDelivery_windows (d : Device) (u : UnitId) (f : Delivery → Delivery) :
    (d.modDelivery u f).windows = d.windows := rfl

@[simp] theorem Device.modDelivery_pool (d : Device) (u : UnitId) (f : Delivery → Delivery) :
    (d.modDelivery u f).pool = d.pool := rfl

@[simp] theorem Device.modDelivery_readData (d : Device) (u : UnitId) (f : Delivery → Delivery) :
    (d.modDelivery u f).readData = d.readData := rfl

@[simp] theorem Device.modDelivery_captures (d : Device) (u : UnitId) (f : Delivery → Delivery) :
    (d.modDelivery u f).captures = d.captures := rfl

@[simp] theorem Device.modDelivery_card (d : Device) (u : UnitId) (f : Delivery → Delivery) :
    (d.modDelivery u f).card = d.card := rfl

@[simp] theorem Device.modDelivery_news (d : Device) (u : UnitId) (f : Delivery → Delivery) :
    (d.modDelivery u f).news = d.news := rfl

@[simp] theorem Device.modDelivery_seq (d : Device) (u : UnitId) (f : Delivery → Delivery) :
    (d.modDelivery u f).seq = d.seq := rfl

@[simp] theorem Device.modDelivery_port (d : Device) (u : UnitId) (f : Delivery → Delivery) :
    (d.modDelivery u f).port = d.port := rfl

@[simp] theorem Device.modDelivery_banks (d : Device) (u : UnitId) (f : Delivery → Delivery) :
    (d.modDelivery u f).banks = d.banks := rfl

/-! ### closeSection -/

@[simp] theorem Device.closeSection_now (d : Device) (u : UnitId) :
    (d.closeSection u).now = d.now := rfl

@[simp] theorem Device.closeSection_freeCount (d : Device) (u : UnitId) :
    (d.closeSection u).freeCount = d.freeCount := rfl

@[simp] theorem Device.closeSection_lines (d : Device) (u : UnitId) :
    (d.closeSection u).lines = d.lines := rfl

@[simp] theorem Device.closeSection_units (d : Device) (u : UnitId) :
    (d.closeSection u).units = d.units := rfl

@[simp] theorem Device.closeSection_images (d : Device) (u : UnitId) :
    (d.closeSection u).images = d.images := rfl

@[simp] theorem Device.closeSection_windows (d : Device) (u : UnitId) :
    (d.closeSection u).windows = d.windows := rfl

@[simp] theorem Device.closeSection_pool (d : Device) (u : UnitId) :
    (d.closeSection u).pool = d.pool := rfl

@[simp] theorem Device.closeSection_readData (d : Device) (u : UnitId) :
    (d.closeSection u).readData = d.readData := rfl

@[simp] theorem Device.closeSection_captures (d : Device) (u : UnitId) :
    (d.closeSection u).captures = d.captures := rfl

@[simp] theorem Device.closeSection_card (d : Device) (u : UnitId) :
    (d.closeSection u).card = d.card := rfl

@[simp] theorem Device.closeSection_news (d : Device) (u : UnitId) :
    (d.closeSection u).news = d.news := rfl

@[simp] theorem Device.closeSection_seq (d : Device) (u : UnitId) :
    (d.closeSection u).seq = d.seq := rfl

@[simp] theorem Device.closeSection_port (d : Device) (u : UnitId) :
    (d.closeSection u).port = d.port := rfl

@[simp] theorem Device.closeSection_banks (d : Device) (u : UnitId) :
    (d.closeSection u).banks = d.banks := rfl

/-! ### setCapture -/

@[simp] theorem Device.setCapture_now (d : Device) (u : UnitId) (c : Option Capture) :
    (d.setCapture u c).now = d.now := rfl

@[simp] theorem Device.setCapture_freeCount (d : Device) (u : UnitId) (c : Option Capture) :
    (d.setCapture u c).freeCount = d.freeCount := rfl

@[simp] theorem Device.setCapture_lines (d : Device) (u : UnitId) (c : Option Capture) :
    (d.setCapture u c).lines = d.lines := rfl

@[simp] theorem Device.setCapture_units (d : Device) (u : UnitId) (c : Option Capture) :
    (d.setCapture u c).units = d.units := rfl

@[simp] theorem Device.setCapture_images (d : Device) (u : UnitId) (c : Option Capture) :
    (d.setCapture u c).images = d.images := rfl

@[simp] theorem Device.setCapture_windows (d : Device) (u : UnitId) (c : Option Capture) :
    (d.setCapture u c).windows = d.windows := rfl

@[simp] theorem Device.setCapture_pool (d : Device) (u : UnitId) (c : Option Capture) :
    (d.setCapture u c).pool = d.pool := rfl

@[simp] theorem Device.setCapture_delivery (d : Device) (u : UnitId) (c : Option Capture) :
    (d.setCapture u c).delivery = d.delivery := rfl

@[simp] theorem Device.setCapture_readData (d : Device) (u : UnitId) (c : Option Capture) :
    (d.setCapture u c).readData = d.readData := rfl

@[simp] theorem Device.setCapture_card (d : Device) (u : UnitId) (c : Option Capture) :
    (d.setCapture u c).card = d.card := rfl

@[simp] theorem Device.setCapture_news (d : Device) (u : UnitId) (c : Option Capture) :
    (d.setCapture u c).news = d.news := rfl

@[simp] theorem Device.setCapture_seq (d : Device) (u : UnitId) (c : Option Capture) :
    (d.setCapture u c).seq = d.seq := rfl

@[simp] theorem Device.setCapture_port (d : Device) (u : UnitId) (c : Option Capture) :
    (d.setCapture u c).port = d.port := rfl

@[simp] theorem Device.setCapture_banks (d : Device) (u : UnitId) (c : Option Capture) :
    (d.setCapture u c).banks = d.banks := rfl

/-! ### setPending -/

@[simp] theorem Device.setPending_now (d : Device) (u : UnitId) (c : Option Change) :
    (d.setPending u c).now = d.now := rfl

@[simp] theorem Device.setPending_freeCount (d : Device) (u : UnitId) (c : Option Change) :
    (d.setPending u c).freeCount = d.freeCount := rfl

@[simp] theorem Device.setPending_lines (d : Device) (u : UnitId) (c : Option Change) :
    (d.setPending u c).lines = d.lines := rfl

@[simp] theorem Device.setPending_units (d : Device) (u : UnitId) (c : Option Change) :
    (d.setPending u c).units = d.units := rfl

@[simp] theorem Device.setPending_images (d : Device) (u : UnitId) (c : Option Change) :
    (d.setPending u c).images = d.images := rfl

@[simp] theorem Device.setPending_windows (d : Device) (u : UnitId) (c : Option Change) :
    (d.setPending u c).windows = d.windows := rfl

@[simp] theorem Device.setPending_pool (d : Device) (u : UnitId) (c : Option Change) :
    (d.setPending u c).pool = d.pool := rfl

@[simp] theorem Device.setPending_delivery (d : Device) (u : UnitId) (c : Option Change) :
    (d.setPending u c).delivery = d.delivery := rfl

@[simp] theorem Device.setPending_readData (d : Device) (u : UnitId) (c : Option Change) :
    (d.setPending u c).readData = d.readData := rfl

@[simp] theorem Device.setPending_captures (d : Device) (u : UnitId) (c : Option Change) :
    (d.setPending u c).captures = d.captures := rfl

@[simp] theorem Device.setPending_card (d : Device) (u : UnitId) (c : Option Change) :
    (d.setPending u c).card = d.card := rfl

@[simp] theorem Device.setPending_news (d : Device) (u : UnitId) (c : Option Change) :
    (d.setPending u c).news = d.news := rfl

@[simp] theorem Device.setPending_port (d : Device) (u : UnitId) (c : Option Change) :
    (d.setPending u c).port = d.port := rfl

@[simp] theorem Device.setPending_banks (d : Device) (u : UnitId) (c : Option Change) :
    (d.setPending u c).banks = d.banks := rfl

/-! ### setGroup -/

@[simp] theorem Device.setGroup_now (d : Device) (g : Option (PerUnit Change)) :
    (d.setGroup g).now = d.now := rfl

@[simp] theorem Device.setGroup_freeCount (d : Device) (g : Option (PerUnit Change)) :
    (d.setGroup g).freeCount = d.freeCount := rfl

@[simp] theorem Device.setGroup_lines (d : Device) (g : Option (PerUnit Change)) :
    (d.setGroup g).lines = d.lines := rfl

@[simp] theorem Device.setGroup_units (d : Device) (g : Option (PerUnit Change)) :
    (d.setGroup g).units = d.units := rfl

@[simp] theorem Device.setGroup_images (d : Device) (g : Option (PerUnit Change)) :
    (d.setGroup g).images = d.images := rfl

@[simp] theorem Device.setGroup_windows (d : Device) (g : Option (PerUnit Change)) :
    (d.setGroup g).windows = d.windows := rfl

@[simp] theorem Device.setGroup_pool (d : Device) (g : Option (PerUnit Change)) :
    (d.setGroup g).pool = d.pool := rfl

@[simp] theorem Device.setGroup_delivery (d : Device) (g : Option (PerUnit Change)) :
    (d.setGroup g).delivery = d.delivery := rfl

@[simp] theorem Device.setGroup_readData (d : Device) (g : Option (PerUnit Change)) :
    (d.setGroup g).readData = d.readData := rfl

@[simp] theorem Device.setGroup_captures (d : Device) (g : Option (PerUnit Change)) :
    (d.setGroup g).captures = d.captures := rfl

@[simp] theorem Device.setGroup_card (d : Device) (g : Option (PerUnit Change)) :
    (d.setGroup g).card = d.card := rfl

@[simp] theorem Device.setGroup_news (d : Device) (g : Option (PerUnit Change)) :
    (d.setGroup g).news = d.news := rfl

@[simp] theorem Device.setGroup_port (d : Device) (g : Option (PerUnit Change)) :
    (d.setGroup g).port = d.port := rfl

@[simp] theorem Device.setGroup_banks (d : Device) (g : Option (PerUnit Change)) :
    (d.setGroup g).banks = d.banks := rfl

/-! ### setBuf -/

@[simp] theorem Device.setBuf_now (d : Device) (i : Nat) (b : TrackBuffer) :
    (d.setBuf i b).now = d.now := rfl

@[simp] theorem Device.setBuf_freeCount (d : Device) (i : Nat) (b : TrackBuffer) :
    (d.setBuf i b).freeCount = d.freeCount := rfl

@[simp] theorem Device.setBuf_lines (d : Device) (i : Nat) (b : TrackBuffer) :
    (d.setBuf i b).lines = d.lines := rfl

@[simp] theorem Device.setBuf_units (d : Device) (i : Nat) (b : TrackBuffer) :
    (d.setBuf i b).units = d.units := rfl

@[simp] theorem Device.setBuf_images (d : Device) (i : Nat) (b : TrackBuffer) :
    (d.setBuf i b).images = d.images := rfl

@[simp] theorem Device.setBuf_windows (d : Device) (i : Nat) (b : TrackBuffer) :
    (d.setBuf i b).windows = d.windows := rfl

@[simp] theorem Device.setBuf_delivery (d : Device) (i : Nat) (b : TrackBuffer) :
    (d.setBuf i b).delivery = d.delivery := rfl

@[simp] theorem Device.setBuf_readData (d : Device) (i : Nat) (b : TrackBuffer) :
    (d.setBuf i b).readData = d.readData := rfl

@[simp] theorem Device.setBuf_captures (d : Device) (i : Nat) (b : TrackBuffer) :
    (d.setBuf i b).captures = d.captures := rfl

@[simp] theorem Device.setBuf_card (d : Device) (i : Nat) (b : TrackBuffer) :
    (d.setBuf i b).card = d.card := rfl

@[simp] theorem Device.setBuf_news (d : Device) (i : Nat) (b : TrackBuffer) :
    (d.setBuf i b).news = d.news := rfl

@[simp] theorem Device.setBuf_seq (d : Device) (i : Nat) (b : TrackBuffer) :
    (d.setBuf i b).seq = d.seq := rfl

@[simp] theorem Device.setBuf_port (d : Device) (i : Nat) (b : TrackBuffer) :
    (d.setBuf i b).port = d.port := rfl

@[simp] theorem Device.setBuf_banks (d : Device) (i : Nat) (b : TrackBuffer) :
    (d.setBuf i b).banks = d.banks := rfl

/-! ### touch -/

@[simp] theorem Device.touch_now (d : Device) (i : Nat) :
    (d.touch i).now = d.now := rfl

@[simp] theorem Device.touch_freeCount (d : Device) (i : Nat) :
    (d.touch i).freeCount = d.freeCount := rfl

@[simp] theorem Device.touch_lines (d : Device) (i : Nat) :
    (d.touch i).lines = d.lines := rfl

@[simp] theorem Device.touch_units (d : Device) (i : Nat) :
    (d.touch i).units = d.units := rfl

@[simp] theorem Device.touch_images (d : Device) (i : Nat) :
    (d.touch i).images = d.images := rfl

@[simp] theorem Device.touch_windows (d : Device) (i : Nat) :
    (d.touch i).windows = d.windows := rfl

@[simp] theorem Device.touch_delivery (d : Device) (i : Nat) :
    (d.touch i).delivery = d.delivery := rfl

@[simp] theorem Device.touch_readData (d : Device) (i : Nat) :
    (d.touch i).readData = d.readData := rfl

@[simp] theorem Device.touch_captures (d : Device) (i : Nat) :
    (d.touch i).captures = d.captures := rfl

@[simp] theorem Device.touch_card (d : Device) (i : Nat) :
    (d.touch i).card = d.card := rfl

@[simp] theorem Device.touch_news (d : Device) (i : Nat) :
    (d.touch i).news = d.news := rfl

@[simp] theorem Device.touch_seq (d : Device) (i : Nat) :
    (d.touch i).seq = d.seq := rfl

@[simp] theorem Device.touch_port (d : Device) (i : Nat) :
    (d.touch i).port = d.port := rfl

@[simp] theorem Device.touch_banks (d : Device) (i : Nat) :
    (d.touch i).banks = d.banks := rfl

/-! ### dropCompletion -/

@[simp] theorem Device.dropCompletion_now (d : Device) (u : UnitId) :
    (d.dropCompletion u).now = d.now := rfl

@[simp] theorem Device.dropCompletion_freeCount (d : Device) (u : UnitId) :
    (d.dropCompletion u).freeCount = d.freeCount := rfl

@[simp] theorem Device.dropCompletion_lines (d : Device) (u : UnitId) :
    (d.dropCompletion u).lines = d.lines := rfl

@[simp] theorem Device.dropCompletion_units (d : Device) (u : UnitId) :
    (d.dropCompletion u).units = d.units := rfl

@[simp] theorem Device.dropCompletion_images (d : Device) (u : UnitId) :
    (d.dropCompletion u).images = d.images := rfl

@[simp] theorem Device.dropCompletion_windows (d : Device) (u : UnitId) :
    (d.dropCompletion u).windows = d.windows := rfl

@[simp] theorem Device.dropCompletion_delivery (d : Device) (u : UnitId) :
    (d.dropCompletion u).delivery = d.delivery := rfl

@[simp] theorem Device.dropCompletion_readData (d : Device) (u : UnitId) :
    (d.dropCompletion u).readData = d.readData := rfl

@[simp] theorem Device.dropCompletion_captures (d : Device) (u : UnitId) :
    (d.dropCompletion u).captures = d.captures := rfl

@[simp] theorem Device.dropCompletion_card (d : Device) (u : UnitId) :
    (d.dropCompletion u).card = d.card := rfl

@[simp] theorem Device.dropCompletion_news (d : Device) (u : UnitId) :
    (d.dropCompletion u).news = d.news := rfl

@[simp] theorem Device.dropCompletion_seq (d : Device) (u : UnitId) :
    (d.dropCompletion u).seq = d.seq := rfl

@[simp] theorem Device.dropCompletion_port (d : Device) (u : UnitId) :
    (d.dropCompletion u).port = d.port := rfl

@[simp] theorem Device.dropCompletion_banks (d : Device) (u : UnitId) :
    (d.dropCompletion u).banks = d.banks := rfl

/-! ### tell -/

@[simp] theorem Device.tell_now (d : Device) (w : Requester) (ok : Bool) (bs : List Byte) :
    (d.tell w ok bs).now = d.now := rfl

@[simp] theorem Device.tell_freeCount (d : Device) (w : Requester) (ok : Bool) (bs : List Byte) :
    (d.tell w ok bs).freeCount = d.freeCount := rfl

@[simp] theorem Device.tell_lines (d : Device) (w : Requester) (ok : Bool) (bs : List Byte) :
    (d.tell w ok bs).lines = d.lines := rfl

@[simp] theorem Device.tell_units (d : Device) (w : Requester) (ok : Bool) (bs : List Byte) :
    (d.tell w ok bs).units = d.units := rfl

@[simp] theorem Device.tell_images (d : Device) (w : Requester) (ok : Bool) (bs : List Byte) :
    (d.tell w ok bs).images = d.images := rfl

@[simp] theorem Device.tell_windows (d : Device) (w : Requester) (ok : Bool) (bs : List Byte) :
    (d.tell w ok bs).windows = d.windows := rfl

@[simp] theorem Device.tell_pool (d : Device) (w : Requester) (ok : Bool) (bs : List Byte) :
    (d.tell w ok bs).pool = d.pool := rfl

@[simp] theorem Device.tell_delivery (d : Device) (w : Requester) (ok : Bool) (bs : List Byte) :
    (d.tell w ok bs).delivery = d.delivery := rfl

@[simp] theorem Device.tell_readData (d : Device) (w : Requester) (ok : Bool) (bs : List Byte) :
    (d.tell w ok bs).readData = d.readData := rfl

@[simp] theorem Device.tell_captures (d : Device) (w : Requester) (ok : Bool) (bs : List Byte) :
    (d.tell w ok bs).captures = d.captures := rfl

@[simp] theorem Device.tell_card (d : Device) (w : Requester) (ok : Bool) (bs : List Byte) :
    (d.tell w ok bs).card = d.card := rfl

@[simp] theorem Device.tell_seq (d : Device) (w : Requester) (ok : Bool) (bs : List Byte) :
    (d.tell w ok bs).seq = d.seq := rfl

@[simp] theorem Device.tell_port (d : Device) (w : Requester) (ok : Bool) (bs : List Byte) :
    (d.tell w ok bs).port = d.port := rfl

@[simp] theorem Device.tell_banks (d : Device) (w : Requester) (ok : Bool) (bs : List Byte) :
    (d.tell w ok bs).banks = d.banks := rfl

/-! ### report -/

@[simp] theorem Device.report_now (d : Device) (r : Report) :
    (d.report r).now = d.now := rfl

@[simp] theorem Device.report_freeCount (d : Device) (r : Report) :
    (d.report r).freeCount = d.freeCount := rfl

@[simp] theorem Device.report_lines (d : Device) (r : Report) :
    (d.report r).lines = d.lines := rfl

@[simp] theorem Device.report_units (d : Device) (r : Report) :
    (d.report r).units = d.units := rfl

@[simp] theorem Device.report_images (d : Device) (r : Report) :
    (d.report r).images = d.images := rfl

@[simp] theorem Device.report_windows (d : Device) (r : Report) :
    (d.report r).windows = d.windows := rfl

@[simp] theorem Device.report_pool (d : Device) (r : Report) :
    (d.report r).pool = d.pool := rfl

@[simp] theorem Device.report_delivery (d : Device) (r : Report) :
    (d.report r).delivery = d.delivery := rfl

@[simp] theorem Device.report_readData (d : Device) (r : Report) :
    (d.report r).readData = d.readData := rfl

@[simp] theorem Device.report_captures (d : Device) (r : Report) :
    (d.report r).captures = d.captures := rfl

@[simp] theorem Device.report_card (d : Device) (r : Report) :
    (d.report r).card = d.card := rfl

@[simp] theorem Device.report_news (d : Device) (r : Report) :
    (d.report r).news = d.news := rfl

@[simp] theorem Device.report_seq (d : Device) (r : Report) :
    (d.report r).seq = d.seq := rfl

@[simp] theorem Device.report_port (d : Device) (r : Report) :
    (d.report r).port = d.port := rfl

/-! ### finish -/

@[simp] theorem Device.finish_now (d : Device) (c : Byte) (k : TermClass) (x : Detail) (bs : List Byte) :
    (d.finish c k x bs).now = d.now := rfl

@[simp] theorem Device.finish_freeCount (d : Device) (c : Byte) (k : TermClass) (x : Detail) (bs : List Byte) :
    (d.finish c k x bs).freeCount = d.freeCount := rfl

@[simp] theorem Device.finish_lines (d : Device) (c : Byte) (k : TermClass) (x : Detail) (bs : List Byte) :
    (d.finish c k x bs).lines = d.lines := rfl

@[simp] theorem Device.finish_units (d : Device) (c : Byte) (k : TermClass) (x : Detail) (bs : List Byte) :
    (d.finish c k x bs).units = d.units := rfl

@[simp] theorem Device.finish_images (d : Device) (c : Byte) (k : TermClass) (x : Detail) (bs : List Byte) :
    (d.finish c k x bs).images = d.images := rfl

@[simp] theorem Device.finish_windows (d : Device) (c : Byte) (k : TermClass) (x : Detail) (bs : List Byte) :
    (d.finish c k x bs).windows = d.windows := rfl

@[simp] theorem Device.finish_pool (d : Device) (c : Byte) (k : TermClass) (x : Detail) (bs : List Byte) :
    (d.finish c k x bs).pool = d.pool := rfl

@[simp] theorem Device.finish_delivery (d : Device) (c : Byte) (k : TermClass) (x : Detail) (bs : List Byte) :
    (d.finish c k x bs).delivery = d.delivery := rfl

@[simp] theorem Device.finish_readData (d : Device) (c : Byte) (k : TermClass) (x : Detail) (bs : List Byte) :
    (d.finish c k x bs).readData = d.readData := rfl

@[simp] theorem Device.finish_captures (d : Device) (c : Byte) (k : TermClass) (x : Detail) (bs : List Byte) :
    (d.finish c k x bs).captures = d.captures := rfl

@[simp] theorem Device.finish_card (d : Device) (c : Byte) (k : TermClass) (x : Detail) (bs : List Byte) :
    (d.finish c k x bs).card = d.card := rfl

@[simp] theorem Device.finish_news (d : Device) (c : Byte) (k : TermClass) (x : Detail) (bs : List Byte) :
    (d.finish c k x bs).news = d.news := rfl

@[simp] theorem Device.finish_seq (d : Device) (c : Byte) (k : TermClass) (x : Detail) (bs : List Byte) :
    (d.finish c k x bs).seq = d.seq := rfl

@[simp] theorem Device.finish_banks (d : Device) (c : Byte) (k : TermClass) (x : Detail) (bs : List Byte) :
    (d.finish c k x bs).banks = d.banks := rfl

/-! ### done -/

@[simp] theorem Device.done_now (d : Device) (c : Byte) :
    (d.done c).now = d.now := rfl

@[simp] theorem Device.done_freeCount (d : Device) (c : Byte) :
    (d.done c).freeCount = d.freeCount := rfl

@[simp] theorem Device.done_lines (d : Device) (c : Byte) :
    (d.done c).lines = d.lines := rfl

@[simp] theorem Device.done_units (d : Device) (c : Byte) :
    (d.done c).units = d.units := rfl

@[simp] theorem Device.done_images (d : Device) (c : Byte) :
    (d.done c).images = d.images := rfl

@[simp] theorem Device.done_windows (d : Device) (c : Byte) :
    (d.done c).windows = d.windows := rfl

@[simp] theorem Device.done_pool (d : Device) (c : Byte) :
    (d.done c).pool = d.pool := rfl

@[simp] theorem Device.done_delivery (d : Device) (c : Byte) :
    (d.done c).delivery = d.delivery := rfl

@[simp] theorem Device.done_readData (d : Device) (c : Byte) :
    (d.done c).readData = d.readData := rfl

@[simp] theorem Device.done_captures (d : Device) (c : Byte) :
    (d.done c).captures = d.captures := rfl

@[simp] theorem Device.done_card (d : Device) (c : Byte) :
    (d.done c).card = d.card := rfl

@[simp] theorem Device.done_news (d : Device) (c : Byte) :
    (d.done c).news = d.news := rfl

@[simp] theorem Device.done_seq (d : Device) (c : Byte) :
    (d.done c).seq = d.seq := rfl

@[simp] theorem Device.done_banks (d : Device) (c : Byte) :
    (d.done c).banks = d.banks := rfl

/-! ### refuse -/

@[simp] theorem Device.refuse_now (d : Device) (c : Byte) (x : Detail) :
    (d.refuse c x).now = d.now := rfl

@[simp] theorem Device.refuse_freeCount (d : Device) (c : Byte) (x : Detail) :
    (d.refuse c x).freeCount = d.freeCount := rfl

@[simp] theorem Device.refuse_lines (d : Device) (c : Byte) (x : Detail) :
    (d.refuse c x).lines = d.lines := rfl

@[simp] theorem Device.refuse_units (d : Device) (c : Byte) (x : Detail) :
    (d.refuse c x).units = d.units := rfl

@[simp] theorem Device.refuse_images (d : Device) (c : Byte) (x : Detail) :
    (d.refuse c x).images = d.images := rfl

@[simp] theorem Device.refuse_windows (d : Device) (c : Byte) (x : Detail) :
    (d.refuse c x).windows = d.windows := rfl

@[simp] theorem Device.refuse_pool (d : Device) (c : Byte) (x : Detail) :
    (d.refuse c x).pool = d.pool := rfl

@[simp] theorem Device.refuse_delivery (d : Device) (c : Byte) (x : Detail) :
    (d.refuse c x).delivery = d.delivery := rfl

@[simp] theorem Device.refuse_readData (d : Device) (c : Byte) (x : Detail) :
    (d.refuse c x).readData = d.readData := rfl

@[simp] theorem Device.refuse_captures (d : Device) (c : Byte) (x : Detail) :
    (d.refuse c x).captures = d.captures := rfl

@[simp] theorem Device.refuse_card (d : Device) (c : Byte) (x : Detail) :
    (d.refuse c x).card = d.card := rfl

@[simp] theorem Device.refuse_news (d : Device) (c : Byte) (x : Detail) :
    (d.refuse c x).news = d.news := rfl

@[simp] theorem Device.refuse_seq (d : Device) (c : Byte) (x : Detail) :
    (d.refuse c x).seq = d.seq := rfl

@[simp] theorem Device.refuse_banks (d : Device) (c : Byte) (x : Detail) :
    (d.refuse c x).banks = d.banks := rfl

/-! ### execute -/

@[simp] theorem Device.execute_now (d : Device) (c : Command) :
    (d.execute c).now = d.now := rfl

@[simp] theorem Device.execute_freeCount (d : Device) (c : Command) :
    (d.execute c).freeCount = d.freeCount := rfl

@[simp] theorem Device.execute_lines (d : Device) (c : Command) :
    (d.execute c).lines = d.lines := rfl

@[simp] theorem Device.execute_units (d : Device) (c : Command) :
    (d.execute c).units = d.units := rfl

@[simp] theorem Device.execute_images (d : Device) (c : Command) :
    (d.execute c).images = d.images := rfl

@[simp] theorem Device.execute_windows (d : Device) (c : Command) :
    (d.execute c).windows = d.windows := rfl

@[simp] theorem Device.execute_pool (d : Device) (c : Command) :
    (d.execute c).pool = d.pool := rfl

@[simp] theorem Device.execute_delivery (d : Device) (c : Command) :
    (d.execute c).delivery = d.delivery := rfl

@[simp] theorem Device.execute_readData (d : Device) (c : Command) :
    (d.execute c).readData = d.readData := rfl

@[simp] theorem Device.execute_captures (d : Device) (c : Command) :
    (d.execute c).captures = d.captures := rfl

@[simp] theorem Device.execute_card (d : Device) (c : Command) :
    (d.execute c).card = d.card := rfl

@[simp] theorem Device.execute_news (d : Device) (c : Command) :
    (d.execute c).news = d.news := rfl

@[simp] theorem Device.execute_seq (d : Device) (c : Command) :
    (d.execute c).seq = d.seq := rfl

@[simp] theorem Device.execute_banks (d : Device) (c : Command) :
    (d.execute c).banks = d.banks := rfl

/-! ### openFrame -/

@[simp] theorem Device.openFrame_now (d : Device) :
    (d.openFrame).now = d.now := rfl

@[simp] theorem Device.openFrame_freeCount (d : Device) :
    (d.openFrame).freeCount = d.freeCount := rfl

@[simp] theorem Device.openFrame_lines (d : Device) :
    (d.openFrame).lines = d.lines := rfl

@[simp] theorem Device.openFrame_units (d : Device) :
    (d.openFrame).units = d.units := rfl

@[simp] theorem Device.openFrame_images (d : Device) :
    (d.openFrame).images = d.images := rfl

@[simp] theorem Device.openFrame_windows (d : Device) :
    (d.openFrame).windows = d.windows := rfl

@[simp] theorem Device.openFrame_pool (d : Device) :
    (d.openFrame).pool = d.pool := rfl

@[simp] theorem Device.openFrame_delivery (d : Device) :
    (d.openFrame).delivery = d.delivery := rfl

@[simp] theorem Device.openFrame_readData (d : Device) :
    (d.openFrame).readData = d.readData := rfl

@[simp] theorem Device.openFrame_captures (d : Device) :
    (d.openFrame).captures = d.captures := rfl

@[simp] theorem Device.openFrame_card (d : Device) :
    (d.openFrame).card = d.card := rfl

@[simp] theorem Device.openFrame_news (d : Device) :
    (d.openFrame).news = d.news := rfl

@[simp] theorem Device.openFrame_seq (d : Device) :
    (d.openFrame).seq = d.seq := rfl

@[simp] theorem Device.openFrame_banks (d : Device) :
    (d.openFrame).banks = d.banks := rfl

/-! ### fault -/

@[simp] theorem Device.fault_now (d : Device) :
    (d.fault).now = d.now := rfl

@[simp] theorem Device.fault_freeCount (d : Device) :
    (d.fault).freeCount = d.freeCount := rfl

@[simp] theorem Device.fault_lines (d : Device) :
    (d.fault).lines = d.lines := rfl

@[simp] theorem Device.fault_units (d : Device) :
    (d.fault).units = d.units := rfl

@[simp] theorem Device.fault_images (d : Device) :
    (d.fault).images = d.images := rfl

@[simp] theorem Device.fault_windows (d : Device) :
    (d.fault).windows = d.windows := rfl

@[simp] theorem Device.fault_pool (d : Device) :
    (d.fault).pool = d.pool := rfl

@[simp] theorem Device.fault_delivery (d : Device) :
    (d.fault).delivery = d.delivery := rfl

@[simp] theorem Device.fault_readData (d : Device) :
    (d.fault).readData = d.readData := rfl

@[simp] theorem Device.fault_captures (d : Device) :
    (d.fault).captures = d.captures := rfl

@[simp] theorem Device.fault_card (d : Device) :
    (d.fault).card = d.card := rfl

@[simp] theorem Device.fault_news (d : Device) :
    (d.fault).news = d.news := rfl

@[simp] theorem Device.fault_seq (d : Device) :
    (d.fault).seq = d.seq := rfl

@[simp] theorem Device.fault_banks (d : Device) :
    (d.fault).banks = d.banks := rfl

/-! ### sendOut -/

@[simp] theorem Device.sendOut_now (d : Device) (bs : List Byte) :
    (d.sendOut bs).now = d.now := rfl

@[simp] theorem Device.sendOut_freeCount (d : Device) (bs : List Byte) :
    (d.sendOut bs).freeCount = d.freeCount := rfl

@[simp] theorem Device.sendOut_lines (d : Device) (bs : List Byte) :
    (d.sendOut bs).lines = d.lines := rfl

@[simp] theorem Device.sendOut_units (d : Device) (bs : List Byte) :
    (d.sendOut bs).units = d.units := rfl

@[simp] theorem Device.sendOut_images (d : Device) (bs : List Byte) :
    (d.sendOut bs).images = d.images := rfl

@[simp] theorem Device.sendOut_windows (d : Device) (bs : List Byte) :
    (d.sendOut bs).windows = d.windows := rfl

@[simp] theorem Device.sendOut_pool (d : Device) (bs : List Byte) :
    (d.sendOut bs).pool = d.pool := rfl

@[simp] theorem Device.sendOut_delivery (d : Device) (bs : List Byte) :
    (d.sendOut bs).delivery = d.delivery := rfl

@[simp] theorem Device.sendOut_readData (d : Device) (bs : List Byte) :
    (d.sendOut bs).readData = d.readData := rfl

@[simp] theorem Device.sendOut_captures (d : Device) (bs : List Byte) :
    (d.sendOut bs).captures = d.captures := rfl

@[simp] theorem Device.sendOut_card (d : Device) (bs : List Byte) :
    (d.sendOut bs).card = d.card := rfl

@[simp] theorem Device.sendOut_news (d : Device) (bs : List Byte) :
    (d.sendOut bs).news = d.news := rfl

@[simp] theorem Device.sendOut_seq (d : Device) (bs : List Byte) :
    (d.sendOut bs).seq = d.seq := rfl

@[simp] theorem Device.sendOut_banks (d : Device) (bs : List Byte) :
    (d.sendOut bs).banks = d.banks := rfl

/-! ### setCursor -/

@[simp] theorem Device.setCursor_now (d : Device) (n : Nat) :
    (d.setCursor n).now = d.now := rfl

@[simp] theorem Device.setCursor_freeCount (d : Device) (n : Nat) :
    (d.setCursor n).freeCount = d.freeCount := rfl

@[simp] theorem Device.setCursor_lines (d : Device) (n : Nat) :
    (d.setCursor n).lines = d.lines := rfl

@[simp] theorem Device.setCursor_units (d : Device) (n : Nat) :
    (d.setCursor n).units = d.units := rfl

@[simp] theorem Device.setCursor_images (d : Device) (n : Nat) :
    (d.setCursor n).images = d.images := rfl

@[simp] theorem Device.setCursor_windows (d : Device) (n : Nat) :
    (d.setCursor n).windows = d.windows := rfl

@[simp] theorem Device.setCursor_pool (d : Device) (n : Nat) :
    (d.setCursor n).pool = d.pool := rfl

@[simp] theorem Device.setCursor_delivery (d : Device) (n : Nat) :
    (d.setCursor n).delivery = d.delivery := rfl

@[simp] theorem Device.setCursor_readData (d : Device) (n : Nat) :
    (d.setCursor n).readData = d.readData := rfl

@[simp] theorem Device.setCursor_captures (d : Device) (n : Nat) :
    (d.setCursor n).captures = d.captures := rfl

@[simp] theorem Device.setCursor_card (d : Device) (n : Nat) :
    (d.setCursor n).card = d.card := rfl

@[simp] theorem Device.setCursor_news (d : Device) (n : Nat) :
    (d.setCursor n).news = d.news := rfl

@[simp] theorem Device.setCursor_seq (d : Device) (n : Nat) :
    (d.setCursor n).seq = d.seq := rfl

@[simp] theorem Device.setCursor_banks (d : Device) (n : Nat) :
    (d.setCursor n).banks = d.banks := rfl

/-! ### resetPort -/

@[simp] theorem Device.resetPort_now (d : Device) :
    (d.resetPort).now = d.now := rfl

@[simp] theorem Device.resetPort_freeCount (d : Device) :
    (d.resetPort).freeCount = d.freeCount := rfl

@[simp] theorem Device.resetPort_lines (d : Device) :
    (d.resetPort).lines = d.lines := rfl

@[simp] theorem Device.resetPort_units (d : Device) :
    (d.resetPort).units = d.units := rfl

@[simp] theorem Device.resetPort_images (d : Device) :
    (d.resetPort).images = d.images := rfl

@[simp] theorem Device.resetPort_windows (d : Device) :
    (d.resetPort).windows = d.windows := rfl

@[simp] theorem Device.resetPort_pool (d : Device) :
    (d.resetPort).pool = d.pool := rfl

@[simp] theorem Device.resetPort_delivery (d : Device) :
    (d.resetPort).delivery = d.delivery := rfl

@[simp] theorem Device.resetPort_readData (d : Device) :
    (d.resetPort).readData = d.readData := rfl

@[simp] theorem Device.resetPort_captures (d : Device) :
    (d.resetPort).captures = d.captures := rfl

@[simp] theorem Device.resetPort_card (d : Device) :
    (d.resetPort).card = d.card := rfl

@[simp] theorem Device.resetPort_news (d : Device) :
    (d.resetPort).news = d.news := rfl

@[simp] theorem Device.resetPort_seq (d : Device) :
    (d.resetPort).seq = d.seq := rfl

@[simp] theorem Device.resetPort_banks (d : Device) :
    (d.resetPort).banks = d.banks := rfl

/-! ### advance -/

@[simp] theorem Device.advance_freeCount (d : Device) (dt : Nat) :
    (d.advance dt).freeCount = d.freeCount := rfl

@[simp] theorem Device.advance_lines (d : Device) (dt : Nat) :
    (d.advance dt).lines = d.lines := rfl

@[simp] theorem Device.advance_images (d : Device) (dt : Nat) :
    (d.advance dt).images = d.images := rfl

@[simp] theorem Device.advance_windows (d : Device) (dt : Nat) :
    (d.advance dt).windows = d.windows := rfl

@[simp] theorem Device.advance_pool (d : Device) (dt : Nat) :
    (d.advance dt).pool = d.pool := rfl

@[simp] theorem Device.advance_delivery (d : Device) (dt : Nat) :
    (d.advance dt).delivery = d.delivery := rfl

@[simp] theorem Device.advance_readData (d : Device) (dt : Nat) :
    (d.advance dt).readData = d.readData := rfl

@[simp] theorem Device.advance_captures (d : Device) (dt : Nat) :
    (d.advance dt).captures = d.captures := rfl

@[simp] theorem Device.advance_news (d : Device) (dt : Nat) :
    (d.advance dt).news = d.news := rfl

@[simp] theorem Device.advance_seq (d : Device) (dt : Nat) :
    (d.advance dt).seq = d.seq := rfl

@[simp] theorem Device.advance_port (d : Device) (dt : Nat) :
    (d.advance dt).port = d.port := rfl

@[simp] theorem Device.advance_banks (d : Device) (dt : Nat) :
    (d.advance dt).banks = d.banks := rfl

/-! ### dropRun -/

@[simp] theorem Device.dropRun_now (d : Device) :
    (d.dropRun).now = d.now := rfl

@[simp] theorem Device.dropRun_freeCount (d : Device) :
    (d.dropRun).freeCount = d.freeCount := rfl

@[simp] theorem Device.dropRun_lines (d : Device) :
    (d.dropRun).lines = d.lines := rfl

@[simp] theorem Device.dropRun_units (d : Device) :
    (d.dropRun).units = d.units := rfl

@[simp] theorem Device.dropRun_images (d : Device) :
    (d.dropRun).images = d.images := rfl

@[simp] theorem Device.dropRun_windows (d : Device) :
    (d.dropRun).windows = d.windows := rfl

@[simp] theorem Device.dropRun_pool (d : Device) :
    (d.dropRun).pool = d.pool := rfl

@[simp] theorem Device.dropRun_delivery (d : Device) :
    (d.dropRun).delivery = d.delivery := rfl

@[simp] theorem Device.dropRun_readData (d : Device) :
    (d.dropRun).readData = d.readData := rfl

@[simp] theorem Device.dropRun_captures (d : Device) :
    (d.dropRun).captures = d.captures := rfl

@[simp] theorem Device.dropRun_news (d : Device) :
    (d.dropRun).news = d.news := rfl

@[simp] theorem Device.dropRun_seq (d : Device) :
    (d.dropRun).seq = d.seq := rfl

@[simp] theorem Device.dropRun_port (d : Device) :
    (d.dropRun).port = d.port := rfl

@[simp] theorem Device.dropRun_banks (d : Device) :
    (d.dropRun).banks = d.banks := rfl

/-! ### The changed field -/

@[simp] theorem Device.modUnit_get (d : Device) (u : UnitId) (f : UnitRecord → UnitRecord) :
    (d.modUnit u f).units.get u = f (d.units.get u) := by simp [Device.modUnit]

@[simp] theorem Device.modUnit_get_other (d : Device) (u : UnitId) (f : UnitRecord → UnitRecord) :
    (d.modUnit u f).units.get u.other = d.units.get u.other := by simp [Device.modUnit]

@[simp] theorem Device.setImage_get (d : Device) (u : UnitId) (m : Option MountRecord) :
    (d.setImage u m).images.get u = m := by simp [Device.setImage]

@[simp] theorem Device.modWindow_get (d : Device) (u : UnitId) (f : ExtentWindow → ExtentWindow) :
    (d.modWindow u f).windows.get u = f (d.windows.get u) := by simp [Device.modWindow]

@[simp] theorem Device.modDelivery_get (d : Device) (u : UnitId) (f : Delivery → Delivery) :
    (d.modDelivery u f).delivery.get u = f (d.delivery.get u) := by simp [Device.modDelivery]

@[simp] theorem Device.setCapture_get (d : Device) (u : UnitId) (c : Option Capture) :
    (d.setCapture u c).captures.get u = c := by simp [Device.setCapture]

@[simp] theorem Device.setPending_get (d : Device) (u : UnitId) (c : Option Change) :
    (d.setPending u c).seq.pending.get u = c := by simp [Device.setPending]

@[simp] theorem Device.setGroup_group (d : Device) (g : Option (PerUnit Change)) :
    (d.setGroup g).seq.group = g := rfl

@[simp] theorem Device.setGroup_pending (d : Device) (g : Option (PerUnit Change)) :
    (d.setGroup g).seq.pending = d.seq.pending := rfl

@[simp] theorem Device.finish_engine (d : Device) (c : Byte) (k : TermClass) (x : Detail)
    (bs : List Byte) :
    (d.finish c k x bs).port.engine = .result { cls := k, detail := x, code := c, bytes := bs } := rfl

@[simp] theorem Device.done_engine (d : Device) (c : Byte) :
    (d.done c).port.engine = .result { cls := .done, detail := .none, code := c, bytes := [] } := rfl

@[simp] theorem Device.refuse_engine (d : Device) (c : Byte) (x : Detail) :
    (d.refuse c x).port.engine = .result { cls := .refused, detail := x, code := c, bytes := [] } := rfl

@[simp] theorem Device.execute_engine (d : Device) (c : Command) :
    (d.execute c).port.engine = .executing c := rfl

@[simp] theorem Device.openFrame_engine (d : Device) : d.openFrame.port.engine = d.port.engine := rfl

@[simp] theorem Device.openFrame_fault (d : Device) : d.openFrame.port.frameFault = false := rfl

@[simp] theorem Device.openFrame_out (d : Device) : d.openFrame.port.frameOut = [d.portStatus] := rfl

@[simp] theorem Device.openFrame_window (d : Device) : d.openFrame.port.window = d.port.window := rfl

@[simp] theorem Device.openFrame_cursor (d : Device) : d.openFrame.port.cursor = d.port.cursor := rfl

@[simp] theorem Device.openFrame_mask (d : Device) : d.openFrame.port.mask = d.port.mask := rfl

@[simp] theorem Device.fault_engine (d : Device) : d.fault.port.engine = d.port.engine := rfl

@[simp] theorem Device.fault_frameFault (d : Device) : d.fault.port.frameFault = true := rfl

@[simp] theorem Device.advance_now (d : Device) (dt : Nat) : (d.advance dt).now = d.now + dt := rfl

@[simp] theorem Device.advance_unit (d : Device) (dt : Nat) (u : UnitId) :
    (d.advance dt).units.get u = (d.units.get u).advance dt := by cases u <;> rfl

@[simp] theorem Device.dropRun_run (d : Device) : d.dropRun.card.run = none := rfl

/-! ### Time in a unit's record -/

@[simp] theorem UnitRecord.advance_enabled (r : UnitRecord) (dt : Nat) : (r.advance dt).enabled = r.enabled := by
  unfold UnitRecord.advance; split <;> rfl

@[simp] theorem UnitRecord.advance_selectLine (r : UnitRecord) (dt : Nat) : (r.advance dt).selectLine = r.selectLine := by
  unfold UnitRecord.advance; split <;> rfl

@[simp] theorem UnitRecord.advance_motorSource (r : UnitRecord) (dt : Nat) : (r.advance dt).motorSource = r.motorSource := by
  unfold UnitRecord.advance; split <;> rfl

@[simp] theorem UnitRecord.advance_lineMode (r : UnitRecord) (dt : Nat) : (r.advance dt).lineMode = r.lineMode := by
  unfold UnitRecord.advance; split <;> rfl

@[simp] theorem UnitRecord.advance_cylinder (r : UnitRecord) (dt : Nat) : (r.advance dt).cylinder = r.cylinder := by
  unfold UnitRecord.advance; split <;> rfl

@[simp] theorem UnitRecord.advance_side (r : UnitRecord) (dt : Nat) : (r.advance dt).side = r.side := by
  unfold UnitRecord.advance; split <;> rfl

@[simp] theorem UnitRecord.advance_motor (r : UnitRecord) (dt : Nat) : (r.advance dt).motor = r.motor := by
  unfold UnitRecord.advance; split <;> rfl

@[simp] theorem UnitRecord.advance_atSpeed (r : UnitRecord) (dt : Nat) : (r.advance dt).atSpeed = r.atSpeed := by
  unfold UnitRecord.advance; split <;> rfl

@[simp] theorem UnitRecord.advance_protect (r : UnitRecord) (dt : Nat) : (r.advance dt).protect = r.protect := by
  unfold UnitRecord.advance; split <;> rfl

@[simp] theorem UnitRecord.advance_latch (r : UnitRecord) (dt : Nat) : (r.advance dt).latch = r.latch := by
  unfold UnitRecord.advance; split <;> rfl

@[simp] theorem UnitRecord.advance_applied (r : UnitRecord) (dt : Nat) : (r.advance dt).applied = r.applied := by
  unfold UnitRecord.advance; split <;> rfl

@[simp] theorem UnitRecord.advance_lost (r : UnitRecord) (dt : Nat) : (r.advance dt).lost = r.lost := by
  unfold UnitRecord.advance; split <;> rfl

/-- The end of a slot leaves all but one delivery record alone. -/
theorem Device.finishSlot_eq (b d : Device) (u : UnitId) :
    Device.finishSlot b d u = d ∨ ∃ t, Device.finishSlot b d u = d.modDelivery u (fun x => { x with slotEnd := some t }) := by
  unfold Device.finishSlot
  dsimp only
  split
  · exact .inr ⟨_, rfl⟩
  · exact .inl rfl

/-- With the motor off time leaves a unit's record alone. -/
theorem UnitRecord.advance_stopped (r : UnitRecord) (dt : Nat) (h : r.motor = false) : r.advance dt = r := by
  unfold UnitRecord.advance
  rw [if_neg (by simp [h])]

end Sys2Proof.Machine
end

