-- ==== Sys2Proof/Laws/Bytes.lean ====
section
/-!
SUPPORT. Addressed bytes (the Data Window and the data areas): every write keeps the canonical form, a read after a
write gives the bytes written, and every other address reads as before.
-/

namespace Sys2Proof.Machine

/-! ### The canonical form -/

theorem Mem.wfFrom_iff (m : Mem) : ∀ low, Mem.wfFrom low m = true ↔
    m.Pairwise (fun x y => x.1 < y.1) ∧ ∀ x ∈ m, low ≤ x.1 ∧ x.2 ≠ 0 := by
  induction m with
  | nil => intro low; simp [Mem.wfFrom]
  | cons c m ih =>
    intro low
    obtain ⟨a, b⟩ := c
    simp only [Mem.wfFrom, Bool.and_eq_true, decide_eq_true_eq, bne_iff_ne, ih, List.pairwise_cons,
      List.mem_cons]
    constructor
    · rintro ⟨⟨h1, h2⟩, h3, h4⟩
      refine ⟨⟨fun x hx => ?_, h3⟩, ?_⟩
      · have := (h4 x hx).1; omega
      · rintro x (rfl | hx)
        · exact ⟨h1, h2⟩
        · have := h4 x hx; exact ⟨by omega, this.2⟩
    · rintro ⟨⟨h1, h2⟩, h3⟩
      have h0 := h3 (a, b) (Or.inl rfl)
      refine ⟨⟨h0.1, h0.2⟩, h2, fun x hx => ⟨?_, (h3 x (Or.inr hx)).2⟩⟩
      have := h1 x hx
      omega

theorem Mem.cells_mem (bs : List Byte) : ∀ a x, x ∈ Mem.cells a bs → a ≤ x.1 ∧ x.1 < a + bs.length ∧ x.2 ≠ 0 := by
  induction bs with
  | nil => intro a x h; simp [Mem.cells] at h
  | cons b bs ih =>
    intro a x h
    unfold Mem.cells at h
    split at h
    · have := ih _ _ h
      simp only [List.length_cons]
      exact ⟨by omega, by omega, this.2.2⟩
    · rename_i hb
      simp only [List.length_cons]
      rcases List.mem_cons.mp h with rfl | h
      · exact ⟨Nat.le_refl _, by simp only; omega, hb⟩
      · have := ih _ _ h
        exact ⟨by omega, by omega, this.2.2⟩

theorem Mem.cells_pairwise (bs : List Byte) : ∀ a, (Mem.cells a bs).Pairwise (fun x y => x.1 < y.1) := by
  induction bs with
  | nil => intro a; exact List.Pairwise.nil
  | cons b bs ih =>
    intro a
    unfold Mem.cells
    split
    · exact ih _
    · refine List.pairwise_cons.mpr ⟨fun x hx => ?_, ih _⟩
      have := (Mem.cells_mem bs _ x hx).1
      simp only; omega

/-- A write keeps the canonical form. -/
theorem Mem.wf_write (m : Mem) (a : Nat) (bs : List Byte) (h : m.wf = true) : (m.write a bs).wf = true := by
  unfold Mem.wf at *
  rw [Mem.wfFrom_iff] at *
  obtain ⟨hp, hm⟩ := h
  unfold Mem.write
  constructor
  · rw [List.pairwise_append, List.pairwise_append]
    refine ⟨⟨hp.filter _, Mem.cells_pairwise bs a, ?_⟩, hp.filter _, ?_⟩
    · intro x hx y hy
      have h1 := (Mem.cells_mem bs a y hy).1
      have h2 := (List.mem_filter.mp hx).2
      simp only [decide_eq_true_eq] at h2; omega
    · intro x hx y hy
      have h2 := (List.mem_filter.mp hy).2
      simp only [decide_eq_true_eq] at h2
      rcases List.mem_append.mp hx with hx | hx
      · have h1 := (List.mem_filter.mp hx).2
        simp only [decide_eq_true_eq] at h1; omega
      · have h1 := (Mem.cells_mem bs a x hx).2.1
        omega
  · intro x hx
    rcases List.mem_append.mp hx with hx | hx
    · rcases List.mem_append.mp hx with hx | hx
      · exact hm x (List.mem_filter.mp hx).1
      · exact ⟨Nat.zero_le _, (Mem.cells_mem bs a x hx).2.2⟩
    · exact hm x (List.mem_filter.mp hx).1

/-! ### Reads -/

theorem Mem.read_append_of_not_mem (m n : Mem) (x : Nat) (h : ∀ c ∈ m, c.1 ≠ x) :
    Mem.read (m ++ n) x = Mem.read n x := by
  induction m with
  | nil => rfl
  | cons c m ih =>
    obtain ⟨a, b⟩ := c
    have h0 := h (a, b) (List.mem_cons_self ..)
    simp only [List.cons_append, Mem.read]
    rw [if_neg h0]
    exact ih (fun c hc => h c (List.mem_cons_of_mem _ hc))

theorem Mem.read_append_left (m n : Mem) (x : Nat) (h : ∀ c ∈ n, c.1 ≠ x) :
    Mem.read (m ++ n) x = Mem.read m x := by
  induction m with
  | nil =>
    have := Mem.read_append_of_not_mem n [] x h
    simpa using this
  | cons c m ih =>
    obtain ⟨a, b⟩ := c
    simp only [List.cons_append, Mem.read]
    split <;> [rfl; exact ih]

theorem Mem.read_filter (m : Mem) (p : Nat → Bool) (x : Nat) (h : p x = true) :
    Mem.read (m.filter (fun c => p c.1)) x = Mem.read m x := by
  induction m with
  | nil => rfl
  | cons c m ih =>
    obtain ⟨a, b⟩ := c
    by_cases ha : a = x
    · subst ha
      simp [h, Mem.read]
    · by_cases hp : p a = true
      · simp [hp, Mem.read, ha, ih]
      · simp [hp, Mem.read, ha, ih]

theorem Mem.read_cells (bs : List Byte) : ∀ a i, i < bs.length →
    Mem.read (Mem.cells a bs) (a + i) = bs.getD i 0 := by
  induction bs with
  | nil => intro a i h; simp at h
  | cons b bs ih =>
    intro a i h
    have hn : ∀ c ∈ Mem.cells (a + 1) bs, c.1 ≠ a := fun c hc => by
      have := (Mem.cells_mem bs _ c hc).1; omega
    cases i with
    | zero =>
      unfold Mem.cells
      split
      · rename_i hb
        have h0 := Mem.read_append_of_not_mem (Mem.cells (a + 1) bs) [] a hn
        rw [List.append_nil] at h0
        rw [hb]; exact h0
      · simp [Mem.read]
    | succ i =>
      have hi : i < bs.length := by simpa using h
      have e : a + (i + 1) = (a + 1) + i := by omega
      unfold Mem.cells
      split
      · rw [e, ih _ _ hi]; rfl
      · rw [Mem.read, if_neg (by omega), e, ih _ _ hi]; rfl

/-- A read within the bytes written gives the byte written. -/
theorem Mem.read_write_in (m : Mem) (a : Nat) (bs : List Byte) (i : Nat) (h : i < bs.length) :
    (m.write a bs).read (a + i) = bs.getD i 0 := by
  unfold Mem.write
  rw [Mem.read_append_left, Mem.read_append_of_not_mem, Mem.read_cells _ _ _ h]
  · intro c hc
    have := (List.mem_filter.mp hc).2
    simp only [decide_eq_true_eq] at this; omega
  · intro c hc
    have := (List.mem_filter.mp hc).2
    simp only [decide_eq_true_eq] at this; omega

/-- A read outside the bytes written gives what it gave before. -/
theorem Mem.read_write_out (m : Mem) (a : Nat) (bs : List Byte) (x : Nat)
    (h : x < a ∨ a + bs.length ≤ x) : (m.write a bs).read x = m.read x := by
  have hc : ∀ c ∈ Mem.cells a bs, c.1 ≠ x := fun c hc => by
    have := Mem.cells_mem bs a c hc; omega
  unfold Mem.write
  rcases h with h | h
  · rw [List.append_assoc, Mem.read_append_left]
    · exact Mem.read_filter m (fun y => decide (y < a)) x (by simpa using h)
    · intro c hm
      rcases List.mem_append.mp hm with hm | hm
      · exact hc c hm
      · have := (List.mem_filter.mp hm).2
        simp only [decide_eq_true_eq] at this; omega
  · rw [Mem.read_append_of_not_mem]
    · exact Mem.read_filter m (fun y => decide (a + bs.length ≤ y)) x (by simpa using h)
    · intro c hm
      rcases List.mem_append.mp hm with hm | hm
      · have := (List.mem_filter.mp hm).2
        simp only [decide_eq_true_eq] at this; omega
      · exact hc c hm

/-- The window after bytes are placed in it from offset 0. -/
theorem Device.storeWindow_wf (d : Device) (bs : List Byte) (h : d.port.window.wf = true) :
    (d.storeWindow bs).port.window.wf = true := Mem.wf_write _ _ _ h

/-- The bytes of the first of two lists put together. -/
theorem bytesAt_append_left (a b : List Byte) : bytesAt (a ++ b) 0 a.length = a := by
  apply List.ext_getElem
  · simp [bytesAt]
  · intro i h1 h2
    simp [bytesAt, byteAt, List.getElem?_append_left h2, h2]

/-- The bytes of the second of two lists put together. -/
theorem bytesAt_append_right (a b : List Byte) : bytesAt (a ++ b) a.length b.length = b := by
  apply List.ext_getElem
  · simp [bytesAt]
  · intro i h1 h2
    simp [bytesAt, byteAt, h2]

end Sys2Proof.Machine
end

