-- ==== Sys2Proof/Laws/Follow.lean ====
section
/-!
SUPPORT. What the effects that follow an event can do (`Device.micro`, `Device.settled`): once for each operation
that takes part in them. They move no unit, no input line and no time, keep the card's state, and leave
the Loader Port and the Mount Sequencer alone unless a command is in execution.
-/

namespace Sys2Proof.Machine

/-- What a part `e` that follows from `d` by such effects keeps. -/
structure Follows (d e : Device) : Prop where
  settles : Settles d e
  fip : d.banks.fip = true → e.banks.fip = true
  offline : d.banks.offline = true → e.banks.offline = true
  offFip : (d.banks.offline = true → d.banks.fip = true) → e.banks.offline = true → e.banks.fip = true
  banks : (∀ i, (d.banks.get i).Good i) → ∀ i, (e.banks.get i).Good i
  grants : e.card.grants ≤ d.card.grants
  window : d.port.window.wf = true → e.port.window.wf = true
  pool : d.pool.Good → e.pool.Good

theorem CaptureEnds.refl (a : Option Capture) : CaptureEnds a a := .inl rfl

theorem CaptureEnds.trans {a b c : Option Capture} (h : CaptureEnds a b) (k : CaptureEnds b c) : CaptureEnds a c := by
  rcases k with rfl | rfl | ⟨x, rfl, hx, rfl⟩
  · exact h
  · exact .inr (.inl rfl)
  · rcases h with rfl | h | ⟨y, _, _, e⟩
    · exact .inr (.inr ⟨x, rfl, hx, rfl⟩)
    · cases h
    · cases e; cases hx

theorem CaptureEnds.of_eq {a b : Option Capture} (h : b = a) : CaptureEnds a b := .inl h

theorem Settles.refl (d : Device) : Settles d d :=
  ⟨rfl, rfl, rfl, rfl, rfl, rfl, rfl, rfl, fun _ => ⟨rfl, rfl⟩, rfl, rfl, rfl, rfl, rfl, rfl, fun _ => rfl,
   rfl, fun _ => rfl, fun _ => rfl, fun _ => .refl _⟩

theorem Settles.trans {a b c : Device} (h : Settles a b) (k : Settles b c) : Settles a c where
  now := k.now.trans h.now
  lines := k.lines.trans h.lines
  units := k.units.trans h.units
  readData := k.readData.trans h.readData
  cursor := k.cursor.trans h.cursor
  frameFault := k.frameFault.trans h.frameFault
  mask := k.mask.trans h.mask
  frameOut := k.frameOut.trans h.frameOut
  idle := fun b => by
    have h1 := h.idle b
    have h2 := k.idle (by rw [h1.1]; exact b)
    exact ⟨h2.1.trans h1.1, h2.2.trans h1.2⟩
  cardState := k.cardState.trans h.cardState
  capacity := k.capacity.trans h.capacity
  initTime := k.initTime.trans h.initTime
  run := k.run.trans h.run
  retry := k.retry.trans h.retry
  resetWaits := k.resetWaits.trans h.resetWaits
  enables := fun i => (k.enables i).trans (h.enables i)
  drive := k.drive.trans h.drive
  mounted := fun u => (k.mounted u).trans (h.mounted u)
  images := fun u => (k.images u).trans (h.images u)
  captures := fun u => (h.captures u).trans (k.captures u)

theorem Follows.refl (d : Device) : Follows d d :=
  ⟨.refl d, id, id, id, id, Nat.le_refl _, id, id⟩

theorem Follows.trans {a b c : Device} (h : Follows a b) (k : Follows b c) : Follows a c where
  settles := h.settles.trans k.settles
  fip := fun x => k.fip (h.fip x)
  offline := fun x => k.offline (h.offline x)
  offFip := fun x => k.offFip (h.offFip x)
  banks := fun x => k.banks (h.banks x)
  grants := Nat.le_trans k.grants h.grants
  window := fun x => k.window (h.window x)
  pool := fun x => k.pool (h.pool x)

/-- The fields that matter are equal, and the pool stays good. -/
theorem Follows.of_eq {d e : Device} (h1 : e.now = d.now) (h2 : e.lines = d.lines)
    (h3 : e.units = d.units) (h4 : e.readData = d.readData) (h5 : e.port = d.port)
    (h6 : e.seq = d.seq) (h7 : e.card = d.card) (h8 : e.banks = d.banks)
    (h9 : d.pool.Good → e.pool.Good)
    (h0 : ∀ u, (e.images.get u).map MountRecord.core = (d.images.get u).map MountRecord.core)
    (hc : ∀ u, CaptureEnds (d.captures.get u) (e.captures.get u) := by exact fun _ => .inl rfl) : Follows d e := by
  have hm : ∀ u, e.mounted u = d.mounted u := fun u => by
    have := congrArg Option.isSome (h0 u)
    simpa [Device.mounted] using this
  refine ⟨⟨h1, h2, h3, h4, ?_, ?_, ?_, ?_, fun _ => ⟨h5, h6⟩, ?_, ?_, ?_, ?_, ?_, ?_, ?_, ?_, hm, h0, hc⟩,
    ?_, ?_, ?_, ?_, ?_, ?_, h9⟩ <;>
    simp only [h5, h7, h8, imp_self, implies_true, Nat.le_refl]

theorem Follows.ite {d a b : Device} (c : Prop) [Decidable c] (ha : Follows d a) (hb : Follows d b) :
    Follows d (if c then a else b) := by split <;> assumption

/-! ### The pool -/

theorem Device.buf_wf {d : Device} (h : d.pool.Good) (i : Nat) : (d.buf i).data.wf = true := by
  unfold Device.buf
  rw [List.getD_eq_getElem?_getD]
  cases hb : d.pool.buffers[i]? with
  | none => rfl
  | some b => exact h.data b (List.mem_of_getElem? hb)

theorem Pool.Good.set {p : Pool} (h : p.Good) (i : Nat) (b : TrackBuffer) (hb : b.data.wf = true) :
    ({ p with buffers := p.buffers.set i b } : Pool).Good := by
  refine ⟨by simpa using h.buffers, h.lru, h.ordered, h.queue, h.waits, ?_⟩
  intro x hx
  rcases List.mem_or_eq_of_mem_set hx with hx | hx
  · exact h.data x hx
  · rw [hx]; exact hb

theorem nodup_move_front {l : List Nat} (h : l.Nodup) (i : Nat) :
    (i :: l.filter (fun j => j != i)).Nodup := by
  refine List.nodup_cons.mpr ⟨?_, h.filter _⟩
  simp [List.mem_filter]

theorem mem_move_front {l : List Nat} {j : Nat} (h : j ∈ l) (i : Nat) :
    j ∈ i :: l.filter (fun j => j != i) := by
  by_cases e : j = i
  · subst e; exact List.mem_cons_self
  · exact List.mem_cons_of_mem _ (List.mem_filter.mpr ⟨h, by simpa using e⟩)

theorem nodup_move_back {l : List Nat} (h : l.Nodup) (i : Nat) :
    (l.filter (fun j => j != i) ++ [i]).Nodup := by
  refine List.nodup_append.mpr ⟨h.filter _, by simp, ?_⟩
  intro a ha b hb
  rw [List.mem_filter] at ha
  rw [List.mem_singleton] at hb
  intro e
  subst e
  simp_all

theorem nodup_join {l : List Nat} (h : l.Nodup) (i : Nat) (hi : l.contains i = false) :
    (l ++ [i]).Nodup := by
  refine List.nodup_append.mpr ⟨h, by simp, ?_⟩
  intro a ha b hb e
  rw [List.mem_singleton] at hb
  subst e; subst hb
  simp_all

/-! ### The updates -/

theorem follows_setBuf (d : Device) (i : Nat) (b : TrackBuffer) (h : d.pool.Good → b.data.wf = true) :
    Follows d (d.setBuf i b) :=
  .of_eq rfl rfl rfl rfl rfl rfl rfl rfl (fun g => g.set i b (h g)) (fun _ => rfl)

/-- A buffer changed in anything but its data area. -/
theorem follows_setBuf_same (d : Device) (i : Nat) (b : TrackBuffer) (j : Nat)
    (h : b.data = (d.buf j).data) : Follows d (d.setBuf i b) :=
  follows_setBuf d i b (fun g => by rw [h]; exact Device.buf_wf g j)

theorem follows_touch (d : Device) (i : Nat) : Follows d (d.touch i) :=
  .of_eq rfl rfl rfl rfl rfl rfl rfl rfl
    (fun g => ⟨g.buffers, nodup_move_front g.lru i, fun j hj => mem_move_front (g.ordered j hj) i, g.queue,
      g.waits, g.data⟩) (fun _ => rfl)

/-- The write-back queue and the wait list changed. -/
theorem follows_lists (d : Device) (q : List Nat) (w : List TrackKey)
    (hq : d.pool.queue.Nodup → q.Nodup) (hw : d.pool.waits.Nodup → w.Nodup) :
    Follows d { d with pool := { d.pool with queue := q, waits := w } } :=
  .of_eq rfl rfl rfl rfl rfl rfl rfl rfl (fun g => ⟨g.buffers, g.lru, g.ordered, hq g.queue, hw g.waits, g.data⟩)
    (fun _ => rfl)

theorem follows_freeCount (d : Device) (n : Nat) : Follows d { d with freeCount := n } :=
  .of_eq rfl rfl rfl rfl rfl rfl rfl rfl id (fun _ => rfl)

theorem follows_news (d : Device) (n : List RunNews) : Follows d { d with news := n } :=
  .of_eq rfl rfl rfl rfl rfl rfl rfl rfl id (fun _ => rfl)

/-- A Mount Record in the place of one of the same image. -/
theorem follows_setImage (d : Device) (u : UnitId) (m m0 : MountRecord) (h : d.images.get u = some m0)
    (hm : m.core = m0.core) : Follows d (d.setImage u (some m)) := by
  refine .of_eq rfl rfl rfl rfl rfl rfl rfl rfl id (fun v => ?_)
  by_cases hv : v = u
  · subst hv; simp [Device.setImage, h, hm]
  · simp [Device.setImage, PerUnit.get_set_ne _ _ hv]

theorem follows_modWindow (d : Device) (u : UnitId) (f : ExtentWindow → ExtentWindow) :
    Follows d (d.modWindow u f) := .of_eq rfl rfl rfl rfl rfl rfl rfl rfl id (fun _ => rfl)

theorem follows_closeSection (d : Device) (u : UnitId) : Follows d (d.closeSection u) :=
  .of_eq rfl rfl rfl rfl rfl rfl rfl rfl id (fun _ => rfl)

theorem follows_finishSlot (b d : Device) (u : UnitId) : Follows d (Device.finishSlot b d u) := by
  unfold Device.finishSlot
  dsimp only
  split
  · exact .of_eq rfl rfl rfl rfl rfl rfl rfl rfl id (fun _ => rfl)
  · exact .refl d

theorem follows_setCapture (d : Device) (u : UnitId) (c : Option Capture) (h : CaptureEnds (d.captures.get u) c) :
    Follows d (d.setCapture u c) := by
  refine .of_eq rfl rfl rfl rfl rfl rfl rfl rfl id (fun _ => rfl) (fun v => ?_)
  by_cases hv : v = u
  · subst hv; simpa [Device.setCapture] using h
  · simp [Device.setCapture, PerUnit.get_set_ne _ _ hv, CaptureEnds.refl]

/-- A capture ends. -/
theorem follows_endCapture (d : Device) (u : UnitId) : Follows d (d.setCapture u none) :=
  follows_setCapture d u none (.inr (.inl rfl))

theorem follows_tell (d : Device) (w : Requester) (ok : Bool) (bs : List Byte) :
    Follows d (d.tell w ok bs) := .of_eq rfl rfl rfl rfl rfl rfl rfl rfl id (fun _ => rfl)

/-! ### Reports (R184 to R186) -/

theorem Bank.receive_enables (b : Bank) (r : Report) : (b.receive r).enables = b.enables := by
  unfold Bank.receive
  split <;> [rfl; split <;> rfl]

theorem Bank.receive_count (b : Bank) (r : Report) : (b.receive r).count = min 255 (b.count + 1) := by
  unfold Bank.receive Config.countLimit
  split <;> [rfl; split <;> rfl]

@[simp] theorem FaultBanks.get_set_self (f : FaultBanks) (i : BankId) (b : Bank) :
    (f.set i b).get i = b := by cases i <;> rfl

theorem FaultBanks.get_set_ne (f : FaultBanks) {i j : BankId} (b : Bank) (h : j ≠ i) :
    (f.set i b).get j = f.get j := by cases i <;> cases j <;> first | rfl | exact absurd rfl h

@[simp] theorem FaultBanks.set_fip (f : FaultBanks) (i : BankId) (b : Bank) : (f.set i b).fip = f.fip := by
  cases i <;> rfl

@[simp] theorem FaultBanks.set_offline (f : FaultBanks) (i : BankId) (b : Bank) :
    (f.set i b).offline = f.offline := by cases i <;> rfl

@[simp] theorem FaultBanks.set_entryOwed (f : FaultBanks) (i : BankId) (b : Bank) :
    (f.set i b).entryOwed = f.entryOwed := by cases i <;> rfl

@[simp] theorem FaultBanks.judge_get (f : FaultBanks) (r : Report) (i : BankId) :
    (f.judge r).get i = f.get i := by
  unfold FaultBanks.judge
  split <;> [split <;> [skip; split]; skip] <;> cases i <;> rfl

/-- R186: what judging a report does to FIP and OFFLINE. -/
theorem FaultBanks.judge_eq (f : FaultBanks) (r : Report) :
    (f.judge r).fip = (f.fip || ((f.get r.cause.bank).enabled r.cause && r.cls == .uncorrected))
      ∧ (f.judge r).offline
        = (f.offline || (f.fip && ((f.get r.cause.bank).enabled r.cause && r.cls == .uncorrected))) := by
  unfold FaultBanks.judge
  by_cases h : ((f.get r.cause.bank).enabled r.cause && r.cls == .uncorrected) = true
  · rw [if_pos h, h]
    cases hf : f.fip <;> cases ho : f.offline <;> simp [hf, ho]
  · rw [if_neg h, Bool.eq_false_iff.mpr h]
    simp

theorem Device.report_get (d : Device) (r : Report) (i : BankId) :
    ((d.report r).banks.get i)
      = if i = r.cause.bank then (d.banks.get i).receive r else d.banks.get i := by
  unfold Device.report
  by_cases h : i = r.cause.bank
  · subst h; simp
  · rw [if_neg h]; simp [FaultBanks.get_set_ne _ _ h]

theorem Device.report_fip (d : Device) (r : Report) :
    (d.report r).banks.fip
      = (d.banks.fip || ((d.banks.get r.cause.bank).enabled r.cause && r.cls == .uncorrected)) := by
  simp [Device.report, (FaultBanks.judge_eq d.banks r).1]

theorem Device.report_offline (d : Device) (r : Report) :
    (d.report r).banks.offline
      = (d.banks.offline
          || (d.banks.fip && ((d.banks.get r.cause.bank).enabled r.cause && r.cls == .uncorrected))) := by
  simp [Device.report, (FaultBanks.judge_eq d.banks r).2]

/-- R184, R185: a bank stays good. -/
theorem Bank.receive_good {i : BankId} {b : Bank} (h : b.Good i) (r : Report) (hr : r.cause.bank = i) :
    (b.receive r).Good i := by
  refine ⟨by rw [Bank.receive_count]; exact Nat.min_le_left _ _, ?_, ?_⟩
  · unfold Bank.receive
    split
    · exact h.overflow
    · split
      · intro _; rfl
      · rename_i hn
        intro _
        unfold Bank.replaces at hn
        cases hb : b.record with
        | none => simp [hb] at hn
        | some x => simp
  · unfold Bank.receive
    split
    · exact h.cause
    · split
      · intro x hx; cases hx; exact hr
      · exact h.cause

/-- R184 to R186: what a report keeps besides the bank it reaches. -/
theorem report_good (d : Device) (r : Report) (h : ∀ i, (d.banks.get i).Good i) (i : BankId) :
    ((d.report r).banks.get i).Good i := by
  rw [Device.report_get]
  split
  · rename_i e; subst e; exact Bank.receive_good (h _) r rfl
  · exact h i

theorem report_offFip (d : Device) (r : Report) (h : d.banks.offline = true → d.banks.fip = true) :
    (d.report r).banks.offline = true → (d.report r).banks.fip = true := by
  intro g
  rw [Device.report_offline] at g
  rw [Device.report_fip]
  simp only [Bool.or_eq_true, Bool.and_eq_true] at g ⊢
  rcases g with g | g
  · exact Or.inl (h g)
  · exact Or.inl g.1

theorem follows_report (d : Device) (r : Report) (hr : r.cause.bank ≠ .drive) : Follows d (d.report r) := by
  refine ⟨⟨rfl, rfl, rfl, rfl, rfl, rfl, rfl, rfl, fun _ => ⟨rfl, rfl⟩, rfl, rfl, rfl, rfl, rfl, rfl,
    ?_, ?_, fun _ => rfl, fun _ => rfl, fun _ => .refl _⟩, ?_, ?_, report_offFip d r, report_good d r, Nat.le_refl _, id, id⟩
  · intro i
    rw [Device.report_get]
    split <;> [rw [Bank.receive_enables]; rfl]
  · have := Device.report_get d r .drive
    rwa [if_neg (fun e => hr e.symm)] at this
  · intro h; simp [Device.report_fip, h]
  · intro h; simp [Device.report_offline, h]

/-! ### Requests and ends of commands -/

theorem follows_requestCard (d : Device) (rs : List Request) (n : Nat) (h : n ≤ d.card.grants) :
    Follows d { d with card := { d.card with requests := rs, grants := n } } :=
  ⟨⟨rfl, rfl, rfl, rfl, rfl, rfl, rfl, rfl, fun _ => ⟨rfl, rfl⟩, rfl, rfl, rfl, rfl, rfl, rfl,
   fun _ => rfl, rfl, fun _ => rfl, fun _ => rfl, fun _ => .refl _⟩, id, id, id, id, h, id, id⟩

theorem follows_request (d : Device) (r : Request) : Follows d (d.request r) := by
  unfold Device.request
  split
  · refine follows_requestCard d _ _ ?_
    split
    · exact Nat.zero_le _
    · exact Nat.le_refl _
  · exact follows_tell d _ _ _

/-- The engine and the window may change while a command is in execution. -/
theorem follows_busy {d : Device} (h : d.port.engine.busy = true) (p : LoaderPort)
    (h1 : p.cursor = d.port.cursor) (h2 : p.frameFault = d.port.frameFault) (h3 : p.mask = d.port.mask)
    (h4 : p.frameOut = d.port.frameOut) (h5 : d.port.window.wf = true → p.window.wf = true) :
    Follows d { d with port := p } :=
  ⟨⟨rfl, rfl, rfl, rfl, h1, h2, h3, h4, fun b => absurd (h.symm.trans b) (by decide), rfl, rfl, rfl, rfl,
   rfl, rfl, fun _ => rfl, rfl, fun _ => rfl, fun _ => rfl, fun _ => .refl _⟩, id, id, id, id, Nat.le_refl _, h5, id⟩

theorem follows_finish {d : Device} (h : d.port.engine.busy = true) (c : Byte) (k : TermClass)
    (x : Detail) (bs : List Byte) : Follows d (d.finish c k x bs) := follows_busy h _ rfl rfl rfl rfl id

theorem follows_finishCommand (d : Device) (k : TermClass) (x : Detail) :
    Follows d (d.finishCommand k x) := by
  unfold Device.finishCommand
  cases h : d.port.engine with
  | executing c => exact follows_finish (by rw [h]; rfl) _ _ _ _
  | idle => exact .refl d
  | result r => exact .refl d

theorem follows_requestHeader (d : Device) (u : UnitId) : Follows d (d.requestHeader u) := by
  unfold Device.requestHeader
  split
  · split
    · exact follows_request d _
    · exact .refl d
  · exact .refl d

/-! ### Free choices and the queue -/

theorem follows_choose (d : Device) (n : Nat) : Follows d (d.choose n).2 := by
  unfold Device.choose
  split
  · exact .refl d
  · exact follows_freeCount d _

theorem follows_shuffle (n : Nat) : ∀ (d : Device) (l : List Nat), Follows d (d.shuffle n l).2 := by
  induction n with
  | zero => intro d l; exact .refl d
  | succ n ih =>
    intro d l
    cases l with
    | nil => exact .refl d
    | cons x xs => exact (follows_choose d _).trans (ih _ _)

theorem follows_joinQueue (d : Device) (i : Nat) : Follows d (d.joinQueue i) := by
  unfold Device.joinQueue
  split
  · rename_i h
    refine follows_lists d _ _ (fun n => nodup_join n i ?_) id
    simp only [Bool.and_eq_true, Bool.not_eq_true'] at h
    exact h.2
  · exact .refl d

theorem follows_foldl {α : Type} (f : Device → α → Device) (hf : ∀ d a, Follows d (f d a)) :
    ∀ (l : List α) (d : Device), Follows d (l.foldl f d) := by
  intro l
  induction l with
  | nil => intro d; exact .refl d
  | cons a l ih => intro d; exact (hf d a).trans (ih _)

theorem follows_joinAll (d : Device) (is : List Nat) : Follows d (d.joinAll is) :=
  (follows_shuffle _ _ _).trans (follows_foldl _ follows_joinQueue _ _)

theorem follows_joinLost (b d : Device) : Follows d (Device.joinLost b d) := follows_joinAll d _

theorem follows_joinUnit (d : Device) (u : UnitId) : Follows d (d.joinUnit u) := follows_joinAll d _

/-! ### Fills -/

theorem follows_startFill (d : Device) (i : Nat) (k : TrackKey) : Follows d (d.startFill i k) := by
  unfold Device.startFill
  split <;> [exact follows_setBuf d _ _ (fun _ => rfl); exact .refl d]

theorem follows_requestFill (d : Device) (k : TrackKey) : Follows d (d.requestFill k) := by
  unfold Device.requestFill
  split
  · exact .refl d
  · rename_i h
    have hw : Follows d { d with pool := { d.pool with waits := d.pool.waits ++ [k] } } := by
      refine follows_lists d d.pool.queue _ id (fun n => ?_)
      simp only [Bool.or_eq_true, not_or, Bool.not_eq_true] at h
      refine List.nodup_append.mpr ⟨n, by simp, ?_⟩
      intro a ha b hb e
      rw [List.mem_singleton] at hb
      subst e; subst hb
      simp_all
    split
    · split <;> [exact follows_startFill d _ _; exact .refl d]
    · exact hw
    · exact hw

/-- A write into a buffer whose data area is canonical. -/
theorem follows_storeWrite (d : Device) (i : Nat) (x : TrackBuffer) (b : Bool)
    (hx : d.pool.Good → x.data.wf = true) : Follows d (d.storeWrite i x b) := by
  have h : Follows d ((d.setBuf i x).touch i) := (follows_setBuf d i x hx).trans (follows_touch _ i)
  have h2 : ∀ y : TrackBuffer, y.data = x.data → Follows d (((d.setBuf i x).touch i).setBuf i y) := fun y hy => by
    have g : ((d.setBuf i x).touch i).setBuf i y = (d.setBuf i y).touch i := by
      simp [Device.setBuf, Device.touch]
    rw [g]
    exact (follows_setBuf d i y (fun p => by rw [hy]; exact hx p)).trans (follows_touch _ i)
  unfold Device.storeWrite
  dsimp only
  split
  · exact h
  · split
    · split
      · exact (h2 { x with state := .dirty, dirtySince := some d.now } rfl).trans (follows_joinQueue _ _)
      · exact h2 _ rfl
    · exact h2 _ rfl
    all_goals exact h

/-! ### The data areas stay canonical -/

theorem writeSector_wf (x : TrackBuffer) (l : Layout) (k : Nat) (f : CapField) (h : x.data.wf = true) :
    (x.writeSector l k f).data.wf = true := by
  unfold TrackBuffer.writeSector
  dsimp only
  split
  · exact Mem.wf_write _ _ _ h
  · exact h

theorem foldl_wf {α : Type} (f : Mem → α → Mem) (hf : ∀ m a, Mem.wf m = true → Mem.wf (f m a) = true) :
    ∀ (l : List α) (m : Mem), Mem.wf m = true → Mem.wf (l.foldl f m) = true := by
  intro l
  induction l with
  | nil => intro m h; exact h
  | cons a l ih => intro m h; exact ih _ (hf m a h)

theorem storeWritten_wf (ws : List WrittenSector) (n : Nat) (x : TrackBuffer) (t : List Sector)
    (h : x.data.wf = true) : (storeWritten ws n x t).data.wf = true := by
  refine foldl_wf _ (fun m a g => ?_) t _ h
  split <;> [exact Mem.wf_write _ _ _ g; exact g]

theorem degrade_wf (x : TrackBuffer) (m : MountRecord) (k : TrackKey) (bs : List Nat)
    (h : x.data.wf = true) : (x.degrade m k bs).data.wf = true :=
  foldl_wf _ (fun _ _ g => Mem.wf_write _ _ _ g) bs _ h

theorem takeBlock_wf (x : TrackBuffer) (m : MountRecord) (k : TrackKey) (b : Nat) (bs : List Byte)
    (h : x.data.wf = true) : (x.takeBlock m k b bs).data.wf = true := Mem.wf_write _ _ _ h

theorem takeBlocks_wf (m : MountRecord) (k : TrackKey) (ws : List WorkBlock) :
    ∀ (x : TrackBuffer) (bs : List Byte), x.data.wf = true → (x.takeBlocks m k ws bs).data.wf = true := by
  induction ws with
  | nil => intro x bs h; exact h
  | cons w ws ih => intro x bs h; exact ih _ _ (takeBlock_wf x m k w.image _ h)

theorem loaderWrite_wf (x : TrackBuffer) (w : Mem) (b : Bool) (ns : List Nat) (h : x.data.wf = true) :
    (x.loaderWrite w b ns).data.wf = true := by
  refine foldl_wf _ (fun m a g => ?_) _ _ h
  split <;> [exact Mem.wf_write _ _ _ g; exact g]

/-! ### Decodes (chapter 6) -/

theorem follows_reportTrack (d : Device) (c : ReportClass) (x : Cause) (k : TrackKey) (r : Option Nat)
    (hx : x.bank ≠ .drive) : Follows d (d.reportTrack c x k r) := follows_report d _ hx

theorem follows_reportStray (d : Device) (k : TrackKey) (s : Option Sector) :
    Follows d (d.reportStray k s) := by
  unfold Device.reportStray
  split <;> [exact follows_reportTrack d _ _ _ _ (by decide); exact .refl d]

theorem follows_reportFlagLost (d : Device) (k : TrackKey) (a b : List Sector) :
    Follows d (d.reportFlagLost k a b) := by
  unfold Device.reportFlagLost
  split
  · exact .refl d
  · split <;> [exact follows_reportTrack d _ _ _ _ (by decide); exact .refl d]

theorem follows_reportSectorWrite (d : Device) (k : TrackKey) (r : Option Nat) (f : CapField)
    (e : Encoding) (n : Nat) : Follows d (d.reportSectorWrite k r f e n) := by
  unfold Device.reportSectorWrite
  split
  · exact follows_reportTrack d _ _ _ _ (by decide)
  · split <;> [exact follows_reportTrack d _ _ _ _ (by decide); exact .refl d]

theorem follows_applySectorWrite (d : Device) (i : Nat) (k : TrackKey) (l : Layout) (c : Capture)
    (p : Nat) (f : CapField) : Follows d (d.applySectorWrite i k l c p f) := by
  have hw := fun g => writeSector_wf (d.buf i) l p f (Device.buf_wf (d := d) g i)
  unfold Device.applySectorWrite
  dsimp only
  generalize (d.buf i).writeSector l p f = y at *
  split
  · exact ((follows_storeWrite d _ _ _ hw).trans (follows_reportSectorWrite _ _ _ _ _ _)).trans
      (follows_reportFlagLost _ _ _ _)
  · rename_i region _
    have hs : Follows d (d.storeWrite i { y with sectors := y.sectors.map (fun s =>
        s.damaged l region (d.hasFlagMap k.unit)) } true) := follows_storeWrite d _ _ _ hw
    exact ((hs.trans (follows_reportSectorWrite _ _ _ _ _ _)).trans
      (follows_reportStray _ _ _)).trans (follows_reportFlagLost _ _ _ _)

theorem follows_applyStray (d : Device) (i : Nat) (k : TrackKey) (l : Layout) (c : Capture) :
    Follows d (d.applyStray i k l c) := by
  unfold Device.applyStray
  split
  · exact .refl d
  · refine ((follows_storeWrite d _ _ _ ?_).trans
      (follows_reportStray _ _ _)).trans (follows_reportFlagLost _ _ _ _)
    intro g
    exact Device.buf_wf g i

theorem follows_applyFormatData (d : Device) (i : Nat) (k : TrackKey) (l : Layout)
    (ws : List WrittenSector) : Follows d (d.applyFormatData i k l ws) := by
  have hw := fun g => storeWritten_wf ws l.dataLen (d.buf i) (d.buf i).sectors (Device.buf_wf (d := d) g i)
  unfold Device.applyFormatData
  dsimp only
  generalize storeWritten ws l.dataLen (d.buf i) (d.buf i).sectors = y at *
  exact (follows_storeWrite d _ _ _ hw).trans (follows_reportFlagLost _ _ _ _)

theorem follows_applyFormatChange (d : Device) (i : Nat) (k : TrackKey) (m : MountRecord)
    (ws : List WrittenSector) (m0 : MountRecord) (h0 : d.images.get k.unit = some m0) (hm : m.core = m0.core) :
    Follows d (d.applyFormatChange i k m ws) := by
  unfold Device.applyFormatChange
  dsimp only
  split
  · rename_i l _
    have hw := storeWritten_wf ws l.dataLen { d.buf i with layout := some l, data := [] } l.sectorTable rfl
    generalize storeWritten ws l.dataLen { d.buf i with layout := some l, data := [] } l.sectorTable = y at *
    have hs := (follows_setImage d k.unit m m0 h0 hm).trans (follows_storeWrite _ i y true (fun _ => hw))
    refine Follows.trans ?_ (follows_reportFlagLost _ _ _ _)
    split
    · exact (hs.trans (follows_closeSection _ _)).trans (follows_finishSlot _ _ _)
    · exact hs
  · exact follows_setImage d _ _ m0 h0 hm

/-- R66: an override change is of one image. -/
theorem changeOverride_core (m : MountRecord) (c h : Nat) (f : Option TrackFormat) (m1 : MountRecord)
    (e : m.changeOverride c h f = .changed m1) : m1.core = m.core := by
  unfold MountRecord.changeOverride at e
  dsimp only at e
  split at e
  · cases e
  · split at e
    · split at e
      · cases e
        unfold MountRecord.markHeader MountRecord.core
        split <;> rfl
      · cases e
    · cases e

/-- R129: the causes of a refused format write belong to the TRACK bank. -/
theorem follows_refuseFormat (d : Device) (k : TrackKey) (x : Cause) (hx : x.bank ≠ .drive) :
    Follows d (d.refuseFormat k x) := follows_reportTrack d _ _ _ _ hx

theorem follows_changeFormat (d : Device) (i : Nat) (k : TrackKey) (m : MountRecord) (f : TrackFormat)
    (ws : List WrittenSector) (hm : d.images.get k.unit = some m) : Follows d (d.changeFormat i k m f ws) := by
  unfold Device.changeFormat
  split
  · split
    · split
      · rename_i h; exact follows_applyFormatChange d _ _ _ _ m hm (changeOverride_core _ _ _ _ _ h)
      · exact follows_refuseFormat d _ _ (by decide)
      · exact follows_refuseFormat d _ _ (by decide)
    · exact follows_refuseFormat d _ _ (by decide)
  · exact follows_refuseFormat d _ _ (by decide)

theorem follows_noteMismatch (d : Device) (k : TrackKey) (ws : List WrittenSector) :
    Follows d (d.noteMismatch k ws) := by
  unfold Device.noteMismatch
  split <;> [exact follows_reportTrack d _ _ _ _ (by decide); exact .refl d]

theorem follows_judgeFormat (d : Device) (i : Option Nat) (k : TrackKey) (m : MountRecord) (c : Capture)
    (ws : List WrittenSector) (hm : d.images.get k.unit = some m) : Follows d (d.judgeFormat i k m c ws) := by
  unfold Device.judgeFormat
  split
  · exact follows_refuseFormat d _ _ (by decide)
  · split
    · exact follows_refuseFormat d _ _ (by decide)
    · rename_i w rest _
      dsimp only
      have hn := follows_noteMismatch d k (w :: rest)
      refine hn.trans ?_
      split
      · exact follows_refuseFormat _ _ _ (by decide)
      · split
        · exact follows_refuseFormat _ _ _ (by decide)
        · split
          · split
            · exact follows_applyFormatData _ _ _ _ _
            · refine follows_changeFormat _ _ _ _ _ _ (Eq.trans ?_ hm)
              unfold Device.noteMismatch; split <;> rfl
          · exact .refl _

/-- R125, R129: the parse of a format write stops with a cause of the TRACK bank. -/
theorem parseFormatWrite_cause (e : Encoding) (x : Cause) : ∀ (n : Nat) (fs : List CapField), fs.length ≤ n →
    parseFormatWrite e fs = .error x → x.bank = .track := by
  intro n
  induction n with
  | zero =>
    intro fs hl h
    cases fs with
    | nil => cases h
    | cons f fs => simp at hl
  | succ n ih =>
    intro fs hl h
    cases fs with
    | nil => cases h
    | cons f rest =>
      simp only [List.length_cons] at hl
      rw [parseFormatWrite.eq_def] at h
      dsimp only at h
      split at h
      · exact ih rest (by omega) h
      · split at h
        · cases h; rfl
        · split at h
          · cases h; rfl
          · cases rest with
            | nil => cases h; rfl
            | cons g more =>
              simp only [List.length_cons] at hl
              dsimp only at h
              split at h
              · cases hm : parseFormatWrite e more with
                | ok ws => rw [hm] at h; cases h
                | error y =>
                  rw [hm] at h
                  cases h
                  exact ih more (by omega) hm
              · cases h; rfl

theorem follows_applyFormat (d : Device) (i : Option Nat) (k : TrackKey) (c : Capture) :
    Follows d (d.applyFormat i k c) := by
  unfold Device.applyFormat
  split
  · exact .refl d
  · rename_i m hm
    split
    · rename_i x h
      exact follows_refuseFormat d _ _ (by rw [parseFormatWrite_cause _ x _ _ (Nat.le_refl _) h]; decide)
    · exact follows_judgeFormat d _ _ _ _ _ hm

theorem follows_decode (d : Device) (i : Option Nat) (c : Capture) : Follows d (d.decode i c) := by
  unfold Device.decode
  split
  · split
    · exact follows_applySectorWrite d _ _ _ _ _ _
    · split
      · exact follows_applyFormat d _ _ _
      · exact follows_applyStray d _ _ _ _
  · split
    · exact follows_applyFormat d _ _ _
    · exact .refl d

theorem follows_captureEnd (d : Device) (u : UnitId) : Follows d (d.captureEnd u) := by
  unfold Device.captureEnd
  split
  · exact .refl d
  · rename_i c hc
    split
    · exact .refl d
    · rename_i hs
      split
      · exact follows_endCapture d _
      · dsimp only
        have h : Follows d (d.reportOverlong c) := by
          unfold Device.reportOverlong
          split <;> [exact follows_reportTrack d _ _ _ _ (by decide); exact .refl d]
        have hk : (d.reportOverlong c).captures = d.captures := by unfold Device.reportOverlong; split <;> rfl
        split
        · exact (h.trans (follows_decode _ _ _)).trans (follows_endCapture _ _)
        · split
          · exact (h.trans (follows_decode _ _ _)).trans (follows_endCapture _ _)
          · refine (h.trans (follows_setCapture _ _ _ ?_)).trans (follows_requestFill _ _)
            rw [hk, hc]
            exact .inr (.inr ⟨c, rfl, by simpa using hs, rfl⟩)

theorem follows_decodePending (d : Device) (i : Nat) (u : UnitId) : Follows d (d.decodePending i u) := by
  unfold Device.decodePending
  split
  · split
    · exact ((follows_decode d _ _).trans (follows_endCapture _ _)).trans (follows_joinLost _ _)
    · exact .refl d
  · exact .refl d

end Sys2Proof.Machine
end

