-- ==== Sys2Proof/Laws/Settle.lean ====
section
/-!
SUPPORT. Every effect that follows an event (`Device.micro`), and so the whole of them (`Device.settled`), keeps
what `Follows` says; and what a completed fill serves (`Device.useFilled_spec`).
-/

namespace Sys2Proof.Machine

/-! ### The work of fills and flushes -/

theorem follows_setWork (d : Device) (i : Nat) (w : Work) : Follows d (d.setWork i w) :=
  follows_setBuf_same d _ _ i rfl

theorem follows_requestRun (d : Device) (i : Nat) (k : TrackKey) (x : RunKind) (a n : Nat) :
    Follows d (d.requestRun i k x a n) := follows_request d _

theorem follows_askLookup (d : Device) (i : Nat) (k : TrackKey) (w : Work) (b : WorkBlock) :
    Follows d (d.askLookup i k w b) := by
  unfold Device.askLookup
  exact (follows_setWork d _ _).trans (follows_modWindow _ _ _)

theorem follows_lookupAnswered (d : Device) (i a n : Nat) : Follows d (d.lookupAnswered i a n) := by
  unfold Device.lookupAnswered
  split
  · split
    · split
      · exact (follows_setWork d _ _).trans (follows_requestRun _ _ _ _ _ _)
      · exact (follows_setWork d _ _).trans (follows_requestRun _ _ _ _ _ _)
    · exact .refl d
  · exact .refl d

theorem follows_loseBlocks (d : Device) (i n : Nat) : Follows d (d.loseBlocks i n) := by
  unfold Device.loseBlocks
  dsimp only
  split
  · split
    · split
      · exact follows_setBuf d _ _ (fun g => degrade_wf _ _ _ _ (Device.buf_wf g i))
      · exact follows_setBuf_same d _ _ i rfl
    · exact .refl d
  · exact .refl d

theorem follows_runSucceeded (d : Device) (i : Nat) (bs : List Byte) : Follows d (d.runSucceeded i bs) := by
  unfold Device.runSucceeded
  dsimp only
  split
  · split
    · split
      · exact follows_setBuf d _ _ (fun g => takeBlocks_wf _ _ _ _ _ (Device.buf_wf g i))
      · exact (follows_setWork d _ _).trans (follows_requestRun _ _ _ _ _ _)
    · exact follows_setWork d _ _
    · exact .refl d
  · exact .refl d

theorem follows_runFailed (d : Device) (i : Nat) : Follows d (d.runFailed i) := by
  unfold Device.runFailed
  split
  · split
    · exact follows_loseBlocks d _ _
    · exact follows_loseBlocks d _ _
    all_goals exact .refl d
  · exact .refl d

theorem follows_endFlush (d : Device) (i : Nat) : Follows d (d.endFlush i) := by
  unfold Device.endFlush
  dsimp only
  split
  · split
    · generalize hb : TrackBuffer.afterFlush _ _ _ = b
      have hd : b.data = (d.buf i).data := by
        rw [← hb]; unfold TrackBuffer.afterFlush; dsimp only; split <;> [rfl; split <;> rfl]
      have hb1 := follows_setBuf_same d i b i hd
      have hb2 := hb1.trans (follows_joinQueue _ i)
      split <;> split <;>
        first
        | exact hb2.trans (follows_finishCommand _ _ _)
        | exact hb1.trans (follows_finishCommand _ _ _)
        | exact hb2
        | exact hb1
    · exact .refl d
  · exact .refl d

/-! ### Sector commands -/

theorem follows_storeWindow {d : Device} (h : d.port.engine.busy = true) (bs : List Byte) :
    Follows d (d.storeWindow bs) :=
  follows_busy h _ rfl rfl rfl rfl (fun g => Mem.wf_write _ _ _ g)

theorem busy_of_follows_port {d e : Device} (h : d.port.engine.busy = true) (g : e.port = d.port) :
    e.port.engine.busy = true := by rw [g]; exact h

theorem storeWrite_port (d : Device) (i : Nat) (x : TrackBuffer) (b : Bool) :
    (d.storeWrite i x b).port = d.port := by
  have hq : ∀ e : Device, (e.joinQueue i).port = e.port := fun e => by
    unfold Device.joinQueue; split <;> rfl
  unfold Device.storeWrite
  dsimp only
  split
  · rfl
  · split
    · split <;> [exact hq _; rfl]
    all_goals rfl

theorem follows_applySectors {d : Device} (h : d.port.engine.busy = true) (i : Nat) (c : SectorCmd) :
    Follows d (d.applySectors i c) := by
  unfold Device.applySectors
  dsimp only
  split
  · exact follows_finish h _ _ _ _
  · rename_i ss _
    split
    · exact follows_finish h _ _ _ _
    · split
      · unfold Device.readSectorsInto
        dsimp only
        generalize (List.map (d.buf i).sectorData ss).flatten = bs
        refine ((follows_storeWindow h bs).trans (follows_touch _ i)).trans ?_
        exact follows_finish (by exact h) _ _ _ _
      · unfold Device.verifySectorsWith
        dsimp only
        split
        · exact (follows_touch d i).trans (follows_finish (by exact h) _ _ _ _)
        · exact (follows_touch d i).trans (follows_finish (by exact h) _ _ _ _)
      · unfold Device.writeSectorsFrom Device.done
        dsimp only
        have hs := fun x => storeWrite_port d i x true
        rename_i b _
        have hw := fun g => loaderWrite_wf (d.buf i) d.port.window b c.numbers (Device.buf_wf (d := d) g i)
        split
        · refine ((follows_storeWrite d i _ true hw).trans (follows_report _ _ (by simp [mkReport, Cause.bank]))).trans
            (follows_finish ?_ _ _ _ _)
          rw [Device.report_port, hs]; exact h
        · refine (follows_storeWrite d i _ true hw).trans (follows_finish ?_ _ _ _ _)
          rw [hs]; exact h

theorem follows_applyWaiting (d : Device) (i : Nat) (k : TrackKey) : Follows d (d.applyWaiting i k) := by
  unfold Device.applyWaiting
  split
  · rename_i c h
    split
    · exact follows_applySectors (by rw [h]; rfl) _ _
    · exact .refl d
  · exact .refl d

theorem follows_displaceSectors (d : Device) (x : Detail) (p : TrackKey → Bool) :
    Follows d (d.displaceSectors x p) := by
  unfold Device.displaceSectors
  split
  · split <;> [exact follows_finishCommand d _ _; exact .refl d]
  · exact .refl d

/-! ### The entry to OFFLINE -/

theorem follows_enterOffline (d : Device) : Follows d d.enterOffline := by
  unfold Device.enterOffline
  refine Follows.trans (b := { d with banks := { d.banks with entryOwed := false } }) ?_ ?_
  · exact ⟨⟨rfl, rfl, rfl, rfl, rfl, rfl, rfl, rfl, fun _ => ⟨rfl, rfl⟩, rfl, rfl, rfl, rfl, rfl, rfl,
      fun i => by cases i <;> rfl, rfl, fun _ => rfl, fun _ => rfl, fun _ => .refl _⟩, id, id, id,
      fun h i => by have := h i; cases i <;> exact this, Nat.le_refl _, id, id⟩
  · exact ((((follows_captureEnd _ _).trans (follows_captureEnd _ _)).trans (follows_closeSection _ _)).trans
      (follows_closeSection _ _)).trans (follows_displaceSectors _ _ _)

/-! ### The completion of a fill -/

theorem follows_useFilled (d : Device) (i : Nat) (k : TrackKey) : Follows d (d.useFilled i k) := by
  unfold Device.useFilled
  split
  · dsimp only
    split
    · exact ((follows_choose d 2).trans (follows_decodePending _ _ _)).trans (follows_applyWaiting _ _ _)
    · exact ((follows_choose d 2).trans (follows_applyWaiting _ _ _)).trans (follows_decodePending _ _ _)
  · exact (follows_decodePending d _ _).trans (follows_applyWaiting _ _ _)

theorem follows_completeFill (d : Device) (i : Nat) : Follows d (d.completeFill i) := by
  unfold Device.completeFill
  dsimp only
  split
  · exact .refl d
  · rename_i k _
    have hs := follows_setBuf_same d i
      { d.buf i with state := .clean, work := none, completion := d.completionPhase k.unit } i rfl
    split
    · exact ((hs.trans (follows_touch _ _)).trans (follows_useFilled _ _ _)).trans (follows_requestFill _ _)
    · exact (hs.trans (follows_touch _ _)).trans (follows_useFilled _ _ _)

theorem follows_workOn (d : Device) (i : Nat) : Follows d (d.workOn i) := by
  unfold Device.workOn
  split
  · split
    · exact follows_askLookup d _ _ _ _
    · split
      · exact follows_completeFill d _
      · exact follows_endFlush d _
  · exact .refl d

/-! ### Lookups -/

theorem follows_failLookup (d : Device) (u : UnitId) (c : Cause) (b : Option Nat) (hc : c.bank ≠ .drive) :
    Follows d (d.failLookup u c b) := by
  unfold Device.failLookup
  split
  · exact .refl d
  · exact ((follows_report d _ hc).trans (follows_modWindow _ _ _)).trans (follows_loseBlocks _ _ _)

theorem follows_serveLookup (d e : Device) (u : UnitId) (h : d.serveLookup u = some e) : Follows d e := by
  unfold Device.serveLookup at h
  dsimp only at h
  split at h
  · cases h
  · split at h
    · cases h
    · split at h
      · split at h
        · cases h
          exact (follows_modWindow d _ _).trans (follows_lookupAnswered _ _ _ _)
        · cases h
      · split at h
        · cases h
          exact (follows_modWindow d _ _).trans (follows_failLookup _ _ _ _ (by decide))
        · cases h
          exact (follows_modWindow d _ _).trans (follows_request _ _)
      · cases h
        exact (follows_modWindow d _ _).trans (follows_failLookup _ _ _ _ (by decide))
      · cases h

theorem follows_windowNews (d : Device) (u : UnitId) (ok : Bool) (bs : List Byte) :
    Follows d (d.windowNews u ok bs) := by
  unfold Device.windowNews
  dsimp only
  split
  · exact .refl d
  · split
    · exact follows_modWindow d _ _
    · exact (follows_modWindow d _ _).trans (follows_failLookup _ _ _ _ (by decide))

/-! ### News -/

theorem follows_headerNews (d : Device) (u : UnitId) (ok : Bool) : Follows d (d.headerNews u ok) := by
  unfold Device.headerNews
  split
  · exact .refl d
  · rename_i m hi
    have hm := follows_setImage d u m.headerEnded m hi rfl
    dsimp only
    split
    · exact hm.trans (follows_requestHeader _ _)
    · split
      · exact ((hm.trans (follows_report _ _ (by simp [Cause.bank]))).trans
          (follows_finishCommand _ _ _)).trans (follows_requestHeader _ _)
      · exact (hm.trans (follows_report _ _ (by simp [Cause.bank]))).trans (follows_requestHeader _ _)

theorem follows_execute {d : Device} (h : d.port.engine.busy = true) (c : Command) :
    Follows d (d.execute c) := follows_busy h _ rfl rfl rfl rfl id

/-- The Mount Sequencer may change while a command is in execution. -/
theorem follows_seq {d : Device} (h : d.port.engine.busy = true) (q : Sequencer) :
    Follows d { d with seq := q } :=
  ⟨⟨rfl, rfl, rfl, rfl, rfl, rfl, rfl, rfl, fun b => absurd (h.symm.trans b) (by decide), rfl, rfl, rfl,
   rfl, rfl, rfl, fun _ => rfl, rfl, fun _ => rfl, fun _ => rfl, fun _ => .refl _⟩, id, id, id, id, Nat.le_refl _, id, id⟩

theorem joinAll_port (d : Device) (is : List Nat) : (d.joinAll is).port = d.port := by
  have hq : ∀ (e : Device) i, (e.joinQueue i).port = e.port := fun e i => by
    unfold Device.joinQueue; split <;> rfl
  have hf : ∀ (l : List Nat) (e : Device), (l.foldl Device.joinQueue e).port = e.port := by
    intro l
    induction l with
    | nil => intro e; rfl
    | cons a l ih => intro e; exact (ih _).trans (hq e a)
  have hc : ∀ (e : Device) n, (e.choose n).2.port = e.port := fun e n => by
    unfold Device.choose; split <;> rfl
  have hs : ∀ n (e : Device) (l : List Nat), (e.shuffle n l).2.port = e.port := by
    intro n
    induction n with
    | zero => intro e l; rfl
    | succ n ih =>
      intro e l
      cases l with
      | nil => rfl
      | cons x xs => exact (ih _ _).trans (hc e _)
  exact (hf _ _).trans (hs _ _ _)

theorem request_port (d : Device) (r : Request) : (d.request r).port = d.port := by
  unfold Device.request; split <;> rfl

theorem requestHeader_port (d : Device) (u : UnitId) : (d.requestHeader u).port = d.port := by
  unfold Device.requestHeader
  split
  · split <;> [exact request_port _ _; rfl]
  · rfl

theorem placeChange_port (d : Device) (u : UnitId) (c : Change) : (d.placeChange u c).port = d.port :=
  (requestHeader_port _ u).trans (joinAll_port _ _)

theorem follows_placeChange {d : Device} (h : d.port.engine.busy = true) (u : UnitId) (c : Change) :
    Follows d (d.placeChange u c) :=
  ((follows_seq h _).trans (follows_joinUnit _ _)).trans (follows_requestHeader _ _)

theorem follows_setStaged {d : Device} (h : d.port.engine.busy = true) (u : UnitId) (c : Change) :
    Follows d (d.setStaged u c) := by
  unfold Device.setStaged
  split <;> [exact follows_seq h _; exact .refl d]

theorem setStaged_port (d : Device) (u : UnitId) (c : Change) : (d.setStaged u c).port = d.port := by
  unfold Device.setStaged; split <;> rfl

theorem follows_mountValidated {d : Device} (h : d.port.engine.busy = true) (c : MountCmd)
    (m : MountRecord) : Follows d (d.mountValidated c m) := by
  unfold Device.mountValidated
  dsimp only
  split
  · exact (follows_setStaged h _ _).trans (follows_finish (by rw [setStaged_port]; exact h) _ _ _ _)
  · exact (follows_placeChange h _ _).trans (follows_finish (by rw [placeChange_port]; exact h) _ _ _ _)

theorem follows_walkOn {d : Device} (h : d.port.engine.busy = true) (c : MountCmd) (w : Walk) :
    Follows d (d.walkOn c w) := by
  unfold Device.walkOn
  split
  · unfold Device.walkFetch
    split
    · exact follows_finish h _ _ _ _
    · split
      · exact follows_finish h _ _ _ _
      · exact (follows_execute h _).trans (follows_request _ _)
  · split
    · unfold Device.walkDone
      split
      · exact follows_finish h _ _ _ _
      · split
        · exact follows_finish h _ _ _ _
        · split
          · exact follows_finish h _ _ _ _
          · exact follows_mountValidated h _ _
    · exact follows_finish h _ _ _ _

theorem follows_mountNews {d : Device} (h : d.port.engine.busy = true) (c : MountCmd) (ok : Bool)
    (bs : List Byte) : Follows d (d.mountNews c ok bs) := by
  unfold Device.mountNews
  split
  · exact follows_finish h _ _ _ _
  · split
    · unfold Device.headerRead
      split
      · exact follows_finish h _ _ _ _
      · split
        · exact follows_finish h _ _ _ _
        · exact follows_walkOn h _ _
    · exact follows_walkOn h _ _

theorem follows_engineNews (d : Device) (ok : Bool) (bs : List Byte) : Follows d (d.engineNews ok bs) := by
  unfold Device.engineNews
  split
  · rename_i c h
    exact follows_mountNews (by rw [h]; rfl) _ _ _
  · rename_i b n h
    have hb : d.port.engine.busy = true := by rw [h]; rfl
    split
    · exact (follows_storeWindow hb bs).trans (follows_finish (by exact hb) _ _ _ _)
    · exact follows_finish hb _ _ _ _
  · rename_i b n h
    have hb : d.port.engine.busy = true := by rw [h]; rfl
    split
    · exact follows_finish hb _ _ _ _
    · exact follows_finish hb _ _ _ _
  all_goals exact .refl d

theorem follows_deliver (d : Device) (n : RunNews) : Follows d (d.deliver n) := by
  unfold Device.deliver
  split
  · exact follows_windowNews d _ _ _
  · split <;> [exact follows_runSucceeded d _ _; exact follows_runFailed d _]
  · exact follows_headerNews d _ _
  · exact follows_engineNews d _ _

/-! ### The wait list, OFFLINE and FLUSH -/

theorem follows_serveWait (d e : Device) (h : d.serveWait = some e) : Follows d e := by
  unfold Device.serveWait at h
  split at h
  · cases h
  · split at h
    · cases h
      exact (follows_lists d d.pool.queue _ id (fun n => n.filter _)).trans (follows_startFill _ _ _)
    · unfold Device.markEviction at h
      split at h
      · cases h
      · obtain ⟨i, _, rfl⟩ := Option.map_eq_some_iff.mp h
        exact (follows_setBuf_same d i { d.buf i with evict := true } i rfl).trans (follows_joinQueue _ _)

theorem follows_dropStaleWaits (d e : Device) (h : d.dropStaleWaits = some e) : Follows d e := by
  unfold Device.dropStaleWaits at h
  split at h
  · cases h; exact follows_lists d d.pool.queue _ id (fun n => n.filter _)
  · cases h

theorem follows_flushDone (d e : Device) (h : d.flushDone = some e) : Follows d e := by
  unfold Device.flushDone at h
  split at h
  · rename_i s hs
    split at h
    · cases h; exact follows_finish (by rw [hs]; rfl) _ _ _ _
    · cases h
  · cases h

theorem orElse_cases {a : Option Device} {b : Unit → Option Device} {e : Device}
    (h : orElse a b = some e) : a = some e ∨ b () = some e := by
  cases a with
  | some x => exact Or.inl h
  | none => exact Or.inr h

/-- One effect that follows. -/
theorem follows_micro (d e : Device) (h : d.micro = some e) : Follows d e := by
  unfold Device.micro at h
  split at h
  · cases h; exact follows_enterOffline d
  · split at h
    · cases h; exact (follows_news d _).trans (follows_deliver _ _)
    · split at h
      · cases h; exact follows_workOn d _
      · rcases orElse_cases h with h | h
        · exact follows_serveLookup d e _ h
        · rcases orElse_cases h with h | h
          · exact follows_serveLookup d e _ h
          · rcases orElse_cases h with h | h
            · exact follows_dropStaleWaits d e h
            · rcases orElse_cases h with h | h
              · exact follows_serveWait d e h
              · exact follows_flushDone d e h

theorem follows_settle (n : Nat) : ∀ d : Device, Follows d (settle n d) := by
  induction n with
  | zero => intro d; exact .refl d
  | succ n ih =>
    intro d
    unfold settle
    split
    · rename_i e h
      exact (follows_micro d e h).trans (ih e)
    · exact .refl d

/-- All the effects that follow an event keep what `Follows` says. -/
theorem follows_settled (d : Device) : Follows d d.settled := follows_settle _ d

/-- A part with nothing owed stays as it is. -/
theorem settled_of_quiet (d : Device) (h : d.micro = none) : d.settled = d := by
  unfold Device.settled Config.settleFuel
  rw [show (4096 : Nat) = 4095 + 1 from rfl, settle, h]

/-- A command answers the settled part after the tests of R159, and leaves the queue alone. -/
theorem run_eq (s : State) (f : Device → Device) :
    s.run f = .next { s with dev := (f s.dev).settled.tested } := rfl

/-! ### What a completed fill serves (R82 d, e, R87, R119) -/

theorem reportFlagLost_port (d : Device) (k : TrackKey) (old new : List Sector) :
    (d.reportFlagLost k old new).port = d.port := by
  unfold Device.reportFlagLost; split <;> [rfl; (split <;> [exact Device.report_port _ _; rfl])]

theorem applySectorWrite_port (d : Device) (i : Nat) (k : TrackKey) (l : Layout) (c : Capture) (p : Nat)
    (f : CapField) : (d.applySectorWrite i k l c p f).port = d.port := by
  have written : ∀ (e : Device) n x y, (e.reportSectorWrite k n f x y).port = e.port := fun e n x y => by
    unfold Device.reportSectorWrite
    repeat' split
    all_goals rfl
  have stray : ∀ (e : Device) s, (e.reportStray k s).port = e.port := fun e s => by
    unfold Device.reportStray; split <;> [exact Device.report_port _ _; rfl]
  unfold Device.applySectorWrite
  dsimp only
  split <;> simp only [reportFlagLost_port, written, stray, storeWrite_port]

theorem applyStray_port (d : Device) (i : Nat) (k : TrackKey) (l : Layout) (c : Capture) :
    (d.applyStray i k l c).port = d.port := by
  unfold Device.applyStray
  split
  · rfl
  · dsimp only
    rw [reportFlagLost_port]
    unfold Device.reportStray
    split <;> [exact (Device.report_port _ _).trans (storeWrite_port _ _ _ _); exact storeWrite_port _ _ _ _]

theorem changeFormat_port (d : Device) (i : Nat) (k : TrackKey) (m : MountRecord) (f : TrackFormat)
    (ws : List WrittenSector) : (d.changeFormat i k m f ws).port = d.port := by
  have refused : ∀ x, (d.refuseFormat k x).port = d.port := fun x => Device.report_port _ _
  have slot : ∀ a (e : Device), (Device.finishSlot a e k.unit).port = e.port := fun a e => by
    unfold Device.finishSlot; split <;> rfl
  unfold Device.changeFormat
  split
  · split
    · split
      · unfold Device.applyFormatChange
        dsimp only
        split
        · rw [reportFlagLost_port]
          split
          · rw [slot, Device.closeSection_port, storeWrite_port, Device.setImage_port]
          · rw [storeWrite_port, Device.setImage_port]
        · rfl
      · exact refused _
      · exact refused _
    · exact refused _
  · exact refused _

theorem applyFormat_port (d : Device) (i : Option Nat) (k : TrackKey) (c : Capture) :
    (d.applyFormat i k c).port = d.port := by
  have refused : ∀ (e : Device) x, (e.refuseFormat k x).port = e.port := fun e x => Device.report_port _ _
  have noted : ∀ ws, (d.noteMismatch k ws).port = d.port := fun ws => by
    unfold Device.noteMismatch; split <;> [exact Device.report_port _ _; rfl]
  unfold Device.applyFormat
  split
  · rfl
  · split
    · exact refused d _
    · unfold Device.judgeFormat
      dsimp only
      repeat' split
      all_goals first
        | exact refused d _
        | exact (refused _ _).trans (noted _)
        | exact noted _
        | exact (changeFormat_port _ _ _ _ _ _).trans (noted _)
        | exact (reportFlagLost_port _ _ _ _).trans ((storeWrite_port _ _ _ _).trans (noted _))

/-- R121: no decode touches the Loader Port, so a command in execution is in execution after it. -/
theorem decode_port (d : Device) (i : Option Nat) (c : Capture) : (d.decode i c).port = d.port := by
  unfold Device.decode
  repeat' split
  all_goals first
    | exact applySectorWrite_port _ _ _ _ _ _ _
    | exact applyFormat_port _ _ _ _
    | exact applyStray_port _ _ _ _ _
    | rfl

theorem decodePending_port (d : Device) (i : Nat) (u : UnitId) : (d.decodePending i u).port = d.port := by
  unfold Device.decodePending
  split
  · split
    · exact (joinAll_port _ _).trans ((Device.setCapture_port _ _ _).trans (decode_port _ _ _))
    · rfl
  · rfl

theorem applyWaiting_of_not_waiting (d : Device) (i : Nat) (k : TrackKey)
    (h : ∀ c, d.port.engine = .executing (.sectors c) → c.key ≠ k) : d.applyWaiting i k = d := by
  unfold Device.applyWaiting
  split
  · rename_i c hc; exact if_neg (by simpa using h c hc)
  · rfl

/-- R82 d, e, R87: a completed fill serves the capture that waits on its track, or the sector command that does, or
both, in an order that the free value decides. Whether the part is OFFLINE plays no part in it (R112, R119). -/
theorem Device.useFilled_spec (d : Device) (i : Nat) (k : TrackKey) :
    ((∀ c, d.port.engine = .executing (.sectors c) → c.key ≠ k) → d.useFilled i k = d.decodePending i k.unit)
    ∧ (d.captureWaits k = false → (d.buf i).key = some k → d.useFilled i k = d.applyWaiting i k)
    ∧ ∃ n, let x := { d with freeCount := n }
      d.useFilled i k = (x.decodePending i k.unit).applyWaiting i k
      ∨ d.useFilled i k = (x.applyWaiting i k).decodePending i k.unit := by
  refine ⟨fun h => ?_, fun h hk => ?_, ?_⟩
  · have : (d.commandKey == some k) = false := by
      unfold Device.commandKey
      split
      · rename_i c hc; simpa using h c hc
      · rfl
    unfold Device.useFilled
    rw [this, Bool.and_false, if_neg Bool.false_ne_true]
    exact applyWaiting_of_not_waiting _ _ _ (by rw [decodePending_port]; exact h)
  · unfold Device.useFilled
    rw [h, Bool.false_and, if_neg Bool.false_ne_true]
    congr 1
    unfold Device.captureWaits at h
    unfold Device.decodePending
    split
    · rename_i c hc
      rw [hc] at h
      refine if_neg fun g => ?_
      simp only [Bool.and_eq_true, beq_iff_eq, Bool.and_eq_false_iff, hk, Option.some.injEq] at g h
      rcases h with h | h
      · simp [g.1] at h
      · simp [g.2] at h
    · rfl
  · unfold Device.useFilled
    split
    · have e : (d.choose 2).2 = { d with freeCount := d.freeCount + 1 } := rfl
      dsimp only
      rw [e]
      refine ⟨d.freeCount + 1, ?_⟩
      split <;> [exact .inl rfl; exact .inr rfl]
    · exact ⟨d.freeCount, .inl rfl⟩

end Sys2Proof.Machine
end

