-- ==== Sys2Proof/Laws/Effect.lean ====
section
/-!
SUPPORT. Every command answers a next state: its effect on the part, with what follows from it, and the queue as it
was. The effects are named here once, so that statements about `exec` reduce to one operation on `Device`.
-/

namespace Sys2Proof.Machine

/-- The effect of a command on the part, before what follows from it. -/
def effect : Instr → Device → Device
  | .powerOn, d => d.onPowerOn
  | .resetLine, d => d.onResetLine
  | .selectLineChange line v, d => d.onSelectLine line v
  | .motorLineChange line v, d => d.onMotorLine line v
  | .atSpeed u, d => d.onAtSpeed u
  | .revolutionStart u, d => d.onRevolution u
  | .indexPulseEnd, d => d.onIndexEnd
  | .stepPulse inward, d => d.onStep inward
  | .sideChange v, d => d.onSide v
  | .writeGateAssert, d => d.onGateAssert
  | .writeDataByte b w broken, d => d.onWriteByte b w broken
  | .writeGateRelease, d => d.onGateRelease
  | .readSlot, d => d.onReadSlot
  | .cardDetectAssert, d => d.onCardInsert
  | .cardInitAnswer n, d => d.onInitAnswer n.toNat
  | .cardInitTimeout, d => d.onInitTimeout
  | .cardDetectRelease, d => d.onCardRemove
  | .runGrant, d => d.onGrant
  | .runEnd a, d => d.onRunAnswer a
  | .runTimeout, d => d.onRunTimeout
  | .flushStart u, d => d.onFlushStart u
  | .dirtySinceExpiry i, d => d.onDirtyExpiry i.val
  | .pendingChangeApply u, d => d.onApply u
  | .resultFrame n, d => d.onResultFrame n
  | .cursorFrame bs, d => d.onCursorFrame bs
  | .dataInFrame bs, d => d.onDataIn bs
  | .dataOutFrame n, d => d.onDataOut n
  | .portReset, d => d.onPortReset
  | .unknownFrameType t n, d => d.onUnknownFrame t n
  | .invalidCommand c, d => d.onInvalidCommand c
  | .configureUnit u e l m k, d => d.onCommand (fun x => x.judgeConfigure u e l m k)
  | .setInterruptMask m, d => d.onCommand (fun x => x.judgeMask m)
  | .mount u h p, d => d.onCommand (fun x => x.judgeMount u h.toNat p)
  | .eject u, d => d.onCommand (fun x => x.judgeEject u)
  | .setProtect u v, d => d.onCommand (fun x => x.judgeProtect u v)
  | .hold, d => d.onCommand Device.judgeHold
  | .release, d => d.onCommand Device.judgeRelease
  | .discard, d => d.onCommand Device.judgeDiscard
  | .readSectors u c h r n, d => d.onCommand (fun x =>
    match sectorParams .read u c h r n with
    | some c => x.judgeSectors c
    | none => x.refuse 0x30 .range)
  | .writeSectors u c h r n m, d => d.onCommand (fun x =>
    match (flagParam m).bind (fun m => sectorParams (.write m) u c h r n) with
    | some c => x.judgeSectors c
    | none => x.refuse 0x31 .range)
  | .verifySectors u c h r n, d => d.onCommand (fun x =>
    match sectorParams .verify u c h r n with
    | some c => x.judgeSectors c
    | none => x.refuse 0x32 .range)
  | .readBlocks b n, d => d.onCommand (fun x => x.judgeReadBlocks b.toNat n)
  | .writeBlocks b n, d => d.onCommand (fun x => x.judgeWriteBlocks b.toNat n)
  | .flush u, d => d.onCommand (fun x => x.judgeFlush u)
  | .unitStatus u, d => d.onCommand (fun x => x.judgeStatus u)
  | .cardReset, d => d.onCommand Device.judgeCardReset
  | .readBank b, d => d.onCommand (fun x => x.judgeReadBank b)
  | .clearBank b, d => d.onCommand (fun x => x.judgeClearBank b)
  | .setBankEnable b c e, d => d.onCommand (fun x => x.judgeBankEnable b c e)
  | .resume, d => d.onCommand (fun x => x.resume.done 0x63)
  | .commandFrameDropped, d => d.onDroppedCommand

/-- Every command answers a next state. -/
theorem exec_eq (i : Instr) (s : State) :
    exec i s = .next { s with dev := (effect i s.dev).settled.tested } := by
  cases i <;> rfl

end Sys2Proof.Machine
end

