-- ==== Sys2Proof/Laws/Quiet.lean ====
section
/-!
SUPPORT. When nothing is owed (`Device.micro` is absent), and which parts of the state that depends on: a part that
agrees with a quiet one on them is quiet too.
-/

namespace Sys2Proof.Machine

theorem orElse_none (a : Option Device) (b : Unit → Option Device) :
    orElse a b = none ↔ a = none ∧ b () = none := by
  cases a with
  | some x => simp [orElse]
  | none => simp [orElse]

/-- Nothing is owed: no news, no work to go on with, no lookup to serve, nothing to do in the wait list, no entry
to OFFLINE to hand out, and no FLUSH that ends. -/
theorem micro_none_iff (d : Device) :
    d.micro = none ↔
      d.news = [] ∧ bufferIds.find? d.workIdle = none ∧ d.serveLookup .u0 = none
        ∧ d.serveLookup .u1 = none ∧ d.dropStaleWaits = none ∧ d.serveWait = none
        ∧ d.banks.entryOwed = false ∧ d.flushDone = none := by
  unfold Device.micro
  cases he : d.banks.entryOwed with
  | true => simp
  | false =>
    cases hn : d.news with
    | cons n rest => simp
    | nil =>
      cases hw : bufferIds.find? d.workIdle with
      | some i => simp
      | none => simp [orElse_none]

/-- The parts of the state that decide whether anything is owed. -/
structure SameWork (d e : Device) : Prop where
  news : e.news = d.news
  bufs : ∀ i, (e.buf i).state = (d.buf i).state ∧ (e.buf i).key = (d.buf i).key
    ∧ (e.buf i).work = (d.buf i).work ∧ (e.buf i).evict = (d.buf i).evict
  lru : ∀ j, j ∈ e.pool.lru ↔ j ∈ d.pool.lru
  waits : e.pool.waits = d.pool.waits
  chain : ∀ u, e.chainStart u = d.chainStart u
  windows : e.windows = d.windows
  current : e.isCurrent = d.isCurrent
  owed : e.banks.entryOwed = d.banks.entryOwed
  command : e.commandKey = d.commandKey
  flush : e.flushDone = none

/-- A key is current in both parts when heads, motors, images and PENDING captures agree. -/
theorem isCurrent_congr {d e : Device} (h1 : ∀ u, e.mounted u = d.mounted u)
    (h2 : ∀ u, (e.units.get u).cylinder = (d.units.get u).cylinder
      ∧ (e.units.get u).side = (d.units.get u).side ∧ (e.units.get u).motor = (d.units.get u).motor)
    (h3 : ∀ u, (e.captures.get u).filter (fun c => c.state == .pending)
      = (d.captures.get u).filter (fun c => c.state == .pending)) : e.isCurrent = d.isCurrent := by
  funext k
  have hk := h2 k.unit
  have e1 : e.currentTrack k.unit = d.currentTrack k.unit := by
    unfold Device.currentTrack Device.headKey
    rw [h1, hk.1, hk.2.1]
  have hc := h3 k.unit
  unfold Device.isCurrent
  rw [e1, hk.2.2]
  congr 1
  cases hd : d.captures.get k.unit with
  | none =>
    cases he : e.captures.get k.unit with
    | none => rfl
    | some b =>
      rw [hd, he] at hc
      by_cases hb : b.state = .pending <;> simp_all [Option.filter]
  | some a =>
    cases he : e.captures.get k.unit with
    | none =>
      rw [hd, he] at hc
      by_cases ha : a.state = .pending <;> simp_all [Option.filter]
    | some b =>
      rw [hd, he] at hc
      by_cases ha : a.state = .pending <;> by_cases hb : b.state = .pending
      · simp_all [Option.filter]
      · simp_all [Option.filter]
      · simp_all [Option.filter]
      · dsimp only
        rw [beq_eq_false_iff_ne.mpr ha, beq_eq_false_iff_ne.mpr hb, Bool.false_and, Bool.false_and]

theorem SameWork.purpose {d e : Device} (h : SameWork d e) : e.purpose = d.purpose := by
  funext k; unfold Device.purpose; rw [h.current, h.command]

theorem SameWork.bufCurrent {d e : Device} (h : SameWork d e) : e.bufCurrent = d.bufCurrent := by
  funext i; unfold Device.bufCurrent; rw [(h.bufs i).1, (h.bufs i).2.1, h.current]

theorem SameWork.workIdle {d e : Device} (h : SameWork d e) : e.workIdle = d.workIdle := by
  funext i; unfold Device.workIdle; rw [(h.bufs i).2.2.1]

theorem SameWork.serveLookup {d e : Device} (h : SameWork d e) (u : UnitId)
    (hd : d.serveLookup u = none) : e.serveLookup u = none := by
  unfold Device.serveLookup at *
  rw [h.windows, h.chain u]
  dsimp only at *
  split at hd
  · rfl
  · split at hd
    · rw [if_pos (by assumption)]
    · rw [if_neg (by assumption)]
      split at hd
      · split at hd
        · cases hd
        · rfl
      · split at hd <;> cases hd
      · cases hd
      · rfl

/-- Whether an element is found does not depend on the order. -/
theorem find_reverse_none {l m : List Nat} (p : Nat → Bool) (h : ∀ j, j ∈ l ↔ j ∈ m)
    (hm : m.reverse.find? p = none) : l.reverse.find? p = none := by
  rw [List.find?_eq_none] at *
  intro x hx
  exact hm x (List.mem_reverse.mpr ((h x).mp (List.mem_reverse.mp hx)))

theorem SameWork.allocatable {d e : Device} (h : SameWork d e) (hd : d.allocatable = none) :
    e.allocatable = none := by
  unfold Device.allocatable at *
  simp only [h.bufCurrent, (h.bufs _).1]
  split at hd
  · cases hd
  · rename_i hn
    rw [find_reverse_none _ h.lru hn]
    exact find_reverse_none _ h.lru hd

theorem SameWork.serveWait {d e : Device} (h : SameWork d e) (hd : d.serveWait = none) :
    e.serveWait = none := by
  have hf : e.firstWait = d.firstWait := by unfold Device.firstWait; rw [h.waits, h.purpose]
  unfold Device.serveWait at *
  rw [hf]
  split at hd
  · rfl
  · split at hd
    · cases hd
    · rename_i ha
      rw [h.allocatable ha]
      unfold Device.markEviction at *
      simp only [(h.bufs _).2.2.2]
      split at hd
      · rw [if_pos (by assumption)]
      · rw [if_neg (by assumption)]
        simp only [h.bufCurrent, (h.bufs _).1]
        rw [Option.map_eq_none_iff] at hd ⊢
        exact find_reverse_none _ h.lru hd

/-- A part that agrees with a quiet one is quiet. -/
theorem SameWork.quiet {d e : Device} (h : SameWork d e) (hd : d.micro = none) : e.micro = none := by
  rw [micro_none_iff] at *
  obtain ⟨h1, h2, h3, h4, h5, h6, h7, _⟩ := hd
  refine ⟨by rw [h.news]; exact h1, by rw [h.workIdle]; exact h2, h.serveLookup _ h3, h.serveLookup _ h4,
    ?_, h.serveWait h6, by rw [h.owed]; exact h7, h.flush⟩
  unfold Device.dropStaleWaits at *
  rw [h.waits, h.purpose]
  split at h5
  · cases h5
  · rw [if_neg (by assumption)]

/-- The same parts, with an engine that executes nothing before and after. -/
theorem SameWork.of_idle {d e : Device} (h1 : e.news = d.news) (h2 : e.pool = d.pool)
    (h3 : e.images = d.images) (h4 : e.windows = d.windows) (h5 : e.captures = d.captures)
    (h6 : e.banks.entryOwed = d.banks.entryOwed)
    (h7 : ∀ u, (e.units.get u).cylinder = (d.units.get u).cylinder
      ∧ (e.units.get u).side = (d.units.get u).side ∧ (e.units.get u).motor = (d.units.get u).motor)
    (h8 : d.port.engine.busy = false) (h9 : e.port.engine.busy = false) : SameWork d e := by
  have hb : e.buf = d.buf := by funext i; unfold Device.buf; rw [h2]
  refine ⟨h1, fun i => by rw [hb]; exact ⟨rfl, rfl, rfl, rfl⟩, fun j => by rw [h2], by rw [h2],
    fun u => by unfold Device.chainStart; rw [h3], h4, ?_, h6, ?_, ?_⟩
  · exact isCurrent_congr (fun u => by unfold Device.mounted; rw [h3]) h7 (fun u => by rw [h5])
  · unfold Device.commandKey
    cases hd : d.port.engine <;> cases he : e.port.engine <;>
      simp_all [Engine.busy]
  · unfold Device.flushDone
    cases he : e.port.engine <;> simp_all [Engine.busy]

/-- The same parts, with the same engine. -/
theorem SameWork.of_engine {d e : Device} (h1 : e.news = d.news) (h2 : e.pool = d.pool)
    (h3 : e.images = d.images) (h4 : e.windows = d.windows) (h5 : e.captures = d.captures)
    (h6 : e.banks.entryOwed = d.banks.entryOwed)
    (h7 : ∀ u, (e.units.get u).cylinder = (d.units.get u).cylinder
      ∧ (e.units.get u).side = (d.units.get u).side ∧ (e.units.get u).motor = (d.units.get u).motor)
    (h8 : e.port.engine = d.port.engine) (h9 : d.micro = none) : SameWork d e := by
  have hb : e.buf = d.buf := by funext i; unfold Device.buf; rw [h2]
  refine ⟨h1, fun i => by rw [hb]; exact ⟨rfl, rfl, rfl, rfl⟩, fun j => by rw [h2], by rw [h2],
    fun u => by unfold Device.chainStart; rw [h3], h4, ?_, h6, ?_, ?_⟩
  · exact isCurrent_congr (fun u => by unfold Device.mounted; rw [h3]) h7 (fun u => by rw [h5])
  · unfold Device.commandKey; rw [h8]
  · have hs : ∀ u, e.unitSaved u = d.unitSaved u := fun u => by
      unfold Device.unitSaved Device.unsavedCount Device.headerDirty Device.ownedBy
      rw [hb, h3]
    have hf := ((micro_none_iff d).mp h9).2.2.2.2.2.2.2
    unfold Device.flushDone at *
    rw [h8]
    split at hf
    · rename_i sel _
      have hh : e.flushHolds sel = d.flushHolds sel := by unfold Device.flushHolds; rw [hs, hs]
      rw [hh]
      split at hf
      · cases hf
      · rw [if_neg (by assumption)]
    · rfl

/-! ### Answers -/

theorem Follows.answers {c : Instr} {s : State} {e : Device} (h : effect c s.dev = e)
    (hq : s.dev.AtRest → e.micro = none) : Answers c s e :=
  ⟨_, _, exec_eq c s, rfl, rfl, by subst h; exact (follows_settled _).settles,
    fun r => by subst h; exact settled_of_quiet _ (hq r)⟩

theorem Follows.leads {c : Instr} {s : State} {e : Device} (h : effect c s.dev = e) : Leads c s e :=
  ⟨_, exec_eq c s, rfl, by subst h; rfl, (follows_settled _).settles⟩

theorem Follows.reaches {c : Instr} {s : State} {e : Device} (h : Settles e (effect c s.dev)) : Reaches c s e :=
  ⟨_, _, exec_eq c s, rfl, rfl, h.trans (follows_settled _).settles⟩

/-! ### The test of R159 with the motor off -/

/-- A unit with its motor running, with no pending change, or not clear is left alone by the test. -/
theorem testUnit_eq (d : Device) (u : UnitId)
    (h : (d.units.get u).motor = true ∨ d.seq.pending.get u = none ∨ d.unitClear u = false) : d.testUnit u = d := by
  unfold Device.testUnit Device.testDue
  rcases h with h | h | h
  · split <;> simp [h]
  · simp [h]
  · split <;> simp [h]

/-- The test leaves the part alone when each unit has its motor running, no pending change, or is not clear. -/
theorem tested_eq (d : Device)
    (h : ∀ u, (d.units.get u).motor = true ∨ d.seq.pending.get u = none ∨ d.unitClear u = false) : d.tested = d := by
  unfold Device.tested
  rw [testUnit_eq d .u0 (h .u0), testUnit_eq d .u1 (h .u1), testUnit_eq d .u0 (h .u0)]

/-- What an application and the effects that follow it keep, the test keeps. -/
theorem tested_keeps (p : Device → Prop) (d : Device) (h : p d)
    (ha : ∀ e u c, p e → e.seq.pending.get u = some c → e.testDue u = true → p (e.applyChange u c))
    (hs : ∀ e, p e → p e.settled) : p d.tested := by
  have hu : ∀ e u, p e → p (e.testUnit u) := fun e u he => by
    unfold Device.testUnit
    split
    · rename_i c hc
      split
      · exact hs _ (ha e u c he hc (by assumption))
      · exact he
    · exact he
  exact hu _ _ (hu _ _ (hu _ _ h))

end Sys2Proof.Machine
end

