-- ==== Sys2Proof/Laws/Rest.lean ====
section
/-!
SUPPORT. When an operation leaves nothing owed: the passing of time, reports, changes of a unit record, and any change
that agrees with a quiet part on what decides it.
-/

namespace Sys2Proof.Machine

/-- Telling a list of requesters of their failure adds one piece of news for each, in order. -/
theorem foldl_tell (rs : List Request) : ∀ d : Device,
    rs.foldl (fun d1 r => d1.tell r.who false []) d
      = { d with news := d.news ++ rs.map (fun r => { who := r.who, ok := false, data := [] }) } := by
  induction rs with
  | nil => intro d; simp
  | cons r rs ih => intro d; rw [List.foldl_cons, ih]; simp [Device.tell]

/-- R144 b: failing every request adds one piece of news for each and empties the set. -/
theorem Device.failRequests_eq (d : Device) : d.failRequests =
    { d with
      news := d.news ++ d.card.requests.map (fun r => { who := r.who, ok := false, data := [] })
      card := { d.card with requests := [] } } := by
  unfold Device.failRequests
  rw [foldl_tell]

/-- A current-track notice keeps what the effects of a step keep. -/
theorem follows_withNotice (b : Device) (u : UnitId) (app : Bool) (d : Device) : Follows d (Device.withNotice b u app d) := by
  unfold Device.withNotice
  have h1 := ((follows_joinLost b d).trans (follows_closeSection _ u)).trans (follows_finishSlot b _ u)
  dsimp only
  split
  · exact h1
  · split
    · exact h1.trans (follows_requestFill _ _)
    · exact h1

/-- There is nothing to choose in an empty list. -/
theorem shuffle_nil (d : Device) (n) : d.shuffle n [] = ([], d) := by cases n <;> rfl

/-- No buffer joins the queue when none stops being current. -/
theorem joinLost_self (b d : Device) (h : ∀ i, b.bufCurrent i = true → d.bufCurrent i = true) : Device.joinLost b d = d := by
  unfold Device.joinLost Device.joinAll
  have : bufferIds.filter (fun i => b.bufCurrent i && !d.bufCurrent i) = [] := by
    rw [List.filter_eq_nil_iff]
    intro i _; have := h i; cases hb : b.bufCurrent i <;> simp_all
  rw [this]
  simp [shuffle_nil]

/-- Nothing becomes owed when the parts that decide it agree and the engine is the same. -/
theorem rest_engine {d e : Device} (h1 : e.news = d.news) (h2 : e.pool = d.pool)
    (h3 : e.images = d.images) (h4 : e.windows = d.windows) (h5 : e.captures = d.captures)
    (h6 : e.banks.entryOwed = d.banks.entryOwed)
    (h7 : ∀ u, (e.units.get u).cylinder = (d.units.get u).cylinder
      ∧ (e.units.get u).side = (d.units.get u).side ∧ (e.units.get u).motor = (d.units.get u).motor)
    (h8 : e.port.engine = d.port.engine) (h9 : d.AtRest) : e.micro = none :=
  SameWork.quiet (SameWork.of_engine h1 h2 h3 h4 h5 h6 h7 h8 h9) h9

/-- Nothing becomes owed when the parts that decide it agree and the engine executes nothing. -/
theorem rest_idle {d e : Device} (h1 : e.news = d.news) (h2 : e.pool = d.pool)
    (h3 : e.images = d.images) (h4 : e.windows = d.windows) (h5 : e.captures = d.captures)
    (h6 : e.banks.entryOwed = d.banks.entryOwed)
    (h7 : ∀ u, (e.units.get u).cylinder = (d.units.get u).cylinder
      ∧ (e.units.get u).side = (d.units.get u).side ∧ (e.units.get u).motor = (d.units.get u).motor)
    (h8 : d.port.engine.busy = false) (h9 : e.port.engine.busy = false) (h : d.AtRest) : e.micro = none :=
  SameWork.quiet (SameWork.of_idle h1 h2 h3 h4 h5 h6 h7 h8 h9) h

/-- The passing of time makes nothing owed. -/
theorem adv_rest (d : Device) (dt : Nat) (h : d.micro = none) : (d.advance dt).micro = none :=
  rest_engine (d := d) rfl rfl rfl rfl rfl rfl (fun u => by simp) rfl h

/-- A report below UNCORRECTED owes no entry to OFFLINE. -/
theorem report_owed (d : Device) (r : Report) (hr : r.cls ≠ .uncorrected) : (d.report r).banks.entryOwed = d.banks.entryOwed := by
  have : d.banks.judge r = d.banks := by
    unfold FaultBanks.judge
    rw [if_neg]; simp [hr]
  unfold Device.report
  rw [this]
  cases r.cause.bank <;> rfl

/-- A report below UNCORRECTED makes nothing owed. -/
theorem report_rest (d : Device) (r : Report) (h : d.micro = none) (hr : r.cls ≠ .uncorrected) : (d.report r).micro = none :=
  rest_engine (d := d) rfl rfl rfl rfl rfl (report_owed d r hr) (fun _ => ⟨rfl, rfl, rfl⟩) rfl h

/-- A change of a unit record that keeps head, side and motor keeps them for both units. -/
theorem modUnit_keep (d : Device) (u : UnitId) (f : UnitRecord → UnitRecord)
   (hf : ∀ r, (f r).cylinder = r.cylinder ∧ (f r).side = r.side ∧ (f r).motor = r.motor) :
   ∀ v, ((d.modUnit u f).units.get v).cylinder = (d.units.get v).cylinder
      ∧ ((d.modUnit u f).units.get v).side = (d.units.get v).side ∧ ((d.modUnit u f).units.get v).motor = (d.units.get v).motor := by
  intro v
  by_cases e : v = u
  · subst e; simp [hf]
  · simp [Device.modUnit, PerUnit.get_set_ne _ _ e]

/-- A change of a unit record that keeps head, side and motor makes nothing owed. -/
theorem modUnit_rest (d : Device) (u : UnitId) (f : UnitRecord → UnitRecord)
   (hf : ∀ r, (f r).cylinder = r.cylinder ∧ (f r).side = r.side ∧ (f r).motor = r.motor) (h : d.micro = none) : (d.modUnit u f).micro = none :=
  rest_engine (d := d) rfl rfl rfl rfl rfl rfl (modUnit_keep d u f hf) rfl h

/-- The closing of a section makes nothing owed. -/
theorem close_rest (d : Device) (u : UnitId) (h : d.micro = none) : (d.closeSection u).micro = none :=
  rest_engine (d := d) rfl rfl rfl rfl rfl rfl (fun _ => ⟨rfl, rfl, rfl⟩) rfl h

/-- No FLUSH ends just when none is in execution whose condition holds. -/
theorem flushDone_none (d : Device) : d.flushDone = none ↔
    ∀ sel, d.port.engine = .executing (.flush sel) → d.flushHolds sel = false := by
  unfold Device.flushDone
  split
  · rename_i sel h
    rw [h]
    constructor
    · intro a s' e
      cases e
      split at a
      · cases a
      · exact Bool.eq_false_iff.mpr (by assumption)
    · intro a
      rw [a sel rfl]; simp
  · rename_i h
    exact ⟨fun _ sel e => absurd e (h sel), fun _ => rfl⟩

/-- The condition of FLUSH depends on the buffers' states and keys and on the images. -/
theorem flushHolds_congr {d e : Device} (h : ∀ i, (e.buf i).state = (d.buf i).state ∧ (e.buf i).key = (d.buf i).key)
    (hi : e.images = d.images) : e.flushHolds = d.flushHolds := by
  funext sel
  have : ∀ u, e.unitSaved u = d.unitSaved u := by
    intro u
    unfold Device.unitSaved Device.unsavedCount Device.headerDirty Device.ownedBy
    simp only [h, hi]
  unfold Device.flushHolds
  simp only [this]

/-- The same work, with buffers that agree on state, key, work and eviction mark. -/
theorem SameWork.of_bufs {d e : Device} (h1 : e.news = d.news)
    (hb : ∀ i, (e.buf i).state = (d.buf i).state ∧ (e.buf i).key = (d.buf i).key
      ∧ (e.buf i).work = (d.buf i).work ∧ (e.buf i).evict = (d.buf i).evict)
    (hl : ∀ j, j ∈ e.pool.lru ↔ j ∈ d.pool.lru) (hw : e.pool.waits = d.pool.waits)
    (h3 : e.images = d.images) (h4 : e.windows = d.windows) (h5 : e.captures = d.captures)
    (h6 : e.banks.entryOwed = d.banks.entryOwed)
    (h7 : ∀ u, (e.units.get u).cylinder = (d.units.get u).cylinder
      ∧ (e.units.get u).side = (d.units.get u).side ∧ (e.units.get u).motor = (d.units.get u).motor)
    (h8 : e.port.engine = d.port.engine) (h9 : d.AtRest) : SameWork d e := by
  refine ⟨h1, hb, hl, hw, fun u => by unfold Device.chainStart; rw [h3], h4,
    isCurrent_congr (fun u => by unfold Device.mounted; rw [h3]) h7 (fun u => by rw [h5]), h6,
    by unfold Device.commandKey; rw [h8], ?_⟩
  have hf := ((micro_none_iff d).mp h9).2.2.2.2.2.2.2
  rw [flushDone_none] at *
  rw [h8, flushHolds_congr (fun i => ⟨(hb i).1, (hb i).2.1⟩) h3]
  exact hf

end Sys2Proof.Machine
end

