-- ==== Sys2Proof/Laws/Held.lean ====
section
/-!
SUPPORT. What the operations on the pool keep of `Pool.Held`: keys held once, the queue of DIRTY buffers, work of FILLING
and FLUSHING buffers alone, and a wait list of keys that no buffer holds.
-/

namespace Sys2Proof.Machine

/-- Eight buffers that keep `Pool.Held`. -/
def Pool.Sound (p : Pool) : Prop := p.buffers.length = 8 ∧ p.Held

/-- One part's pool keeps what another's has. -/
def Keeps (d e : Device) : Prop := d.pool.Sound → e.pool.Sound

theorem Keeps.refl (d : Device) : Keeps d d := id

theorem Keeps.trans {a b c : Device} (h : Keeps a b) (k : Keeps b c) : Keeps a c := fun x => k (h x)

theorem Keeps.of_pool {d e : Device} (h : e.pool = d.pool) : Keeps d e := fun x => by rw [h]; exact x

/-- The buffers agree on state and key, no work appears, and the queue and the wait list only shrink. -/
theorem Keeps.of_bufs {d e : Device} (hb : ∀ i, (e.pool.buf i).state = (d.pool.buf i).state
      ∧ (e.pool.buf i).key = (d.pool.buf i).key
      ∧ ((e.pool.buf i).work.isSome = true → (d.pool.buf i).work.isSome = true))
    (hq : ∀ i ∈ e.pool.queue, i ∈ d.pool.queue) (hw : ∀ k ∈ e.pool.waits, k ∈ d.pool.waits)
    (hl : e.pool.buffers.length = d.pool.buffers.length) : Keeps d e :=
  fun ⟨l, x⟩ => ⟨hl.trans l,
    { keys := fun i j k => by rw [(hb i).1, (hb j).1, (hb i).2.1, (hb j).2.1]; exact x.keys i j k
      queue := fun i h => by rw [(hb i).1]; exact x.queue i (hq i h)
      work := fun i h => by rw [(hb i).1]; exact x.work i ((hb i).2.2 h)
      waits := fun k h i => by rw [(hb i).1, (hb i).2.1]; exact x.waits k (hw k h) i }⟩

/-- Buffer `j` after buffer `i` is set. -/
theorem Pool.buf_set (p : Pool) (i j : Nat) (b : TrackBuffer) :
    ({ p with buffers := p.buffers.set i b } : Pool).buf j = if i = j ∧ j < p.buffers.length then b else p.buf j := by
  unfold Pool.buf
  simp only [List.getD_eq_getElem?_getD, List.getElem?_set]
  by_cases h : i = j
  · subst h
    by_cases hl : i < p.buffers.length <;> simp [hl]
  · simp [h]

/-- A buffer is changed with its key kept: FREE stays FREE and no other becomes so, a queued one is DIRTY, and work
is that of a FILLING or FLUSHING one. -/
theorem keeps_setBuf (d : Device) (i : Nat) (b : TrackBuffer) (hk : b.key = (d.pool.buf i).key)
    (hf : b.state = .free ↔ (d.pool.buf i).state = .free)
    (hq : d.pool.Held → i ∈ d.pool.queue → b.state = .dirty)
    (hw : d.pool.Held → b.work.isSome = true → b.state = .filling ∨ b.state = .flushing) : Keeps d (d.setBuf i b) := by
  rintro ⟨hl, x⟩
  refine ⟨(List.length_set ..).trans hl, ?_⟩
  have key : ∀ j, ((d.setBuf i b).pool.buf j).key = (d.pool.buf j).key := by
    intro j; unfold Device.setBuf; rw [Pool.buf_set]; split
    · rename_i h; rw [hk, h.1]
    · rfl
  have free : ∀ j, ((d.setBuf i b).pool.buf j).state ≠ .free ↔ (d.pool.buf j).state ≠ .free := by
    intro j; unfold Device.setBuf; rw [Pool.buf_set]; split
    · rename_i h; rw [← h.1]; exact not_congr hf
    · rfl
  constructor
  · intro p q k; rw [free, free, key, key]; exact x.keys p q k
  · intro j hj
    have hj' : j ∈ d.pool.queue := hj
    unfold Device.setBuf; rw [Pool.buf_set]; split
    · rename_i h; rw [← h.1] at hj'; exact hq x hj'
    · exact x.queue j hj'
  · intro j; unfold Device.setBuf; rw [Pool.buf_set]; split
    · exact hw x
    · exact x.work j
  · intro k hk' j; rw [free, key]; exact x.waits k hk' j

/-- A buffer is changed with state and key kept and no work given. -/
theorem keeps_setBuf_same (d : Device) (i : Nat) (b : TrackBuffer) (hk : b.key = (d.pool.buf i).key)
    (hs : b.state = (d.pool.buf i).state)
    (hw : b.work.isSome = true → (d.pool.buf i).work.isSome = true) : Keeps d (d.setBuf i b) :=
  keeps_setBuf d i b hk (by rw [hs]) (fun x h => by rw [hs]; exact x.queue i h)
    (fun x h => by rw [hs]; exact x.work i (hw h))

theorem keeps_touch (d : Device) (i : Nat) : Keeps d (d.touch i) :=
  .of_bufs (fun _ => ⟨rfl, rfl, id⟩) (fun _ h => h) (fun _ h => h) rfl

theorem keeps_freeBuf (d : Device) (i : Nat) : Keeps d (d.freeBuf i) := by
  rintro ⟨hl, x⟩
  refine ⟨(List.length_set ..).trans hl, ?_⟩
  have buf : ∀ j, (d.freeBuf i).pool.buf j = if i = j ∧ j < d.pool.buffers.length then TrackBuffer.free
      else d.pool.buf j := fun j => Pool.buf_set d.pool i j TrackBuffer.free
  have nf : ∀ j, ((d.freeBuf i).pool.buf j).state ≠ .free → (d.freeBuf i).pool.buf j = d.pool.buf j := by
    intro j; rw [buf]; split
    · intro h; exact absurd rfl h
    · intro _; rfl
  constructor
  · intro p q k hp hq; rw [nf p hp, nf q hq] at *; exact x.keys p q k hp hq
  · intro j hj
    have hj' : j ∈ d.pool.queue ∧ (j != i) = true := List.mem_filter.mp hj
    rw [buf, if_neg (by rintro ⟨rfl, _⟩; simp at hj')]
    exact x.queue j hj'.1
  · intro j; rw [buf]; split
    · intro h; cases h
    · exact x.work j
  · intro k hk j hj; rw [nf j hj] at *; exact x.waits k hk j hj

theorem keeps_joinQueue (d : Device) (i : Nat) : Keeps d (d.joinQueue i) := by
  unfold Device.joinQueue
  split
  · rename_i h
    rintro ⟨hl, x⟩
    refine ⟨hl, x.keys, fun j hj => ?_, x.work, x.waits⟩
    rcases List.mem_append.mp hj with hj | hj
    · exact x.queue j hj
    · rw [List.mem_singleton] at hj
      subst hj
      simp only [Bool.and_eq_true, beq_iff_eq] at h
      exact h.1
  · exact .refl d

theorem keeps_choose (d : Device) (n : Nat) : Keeps d (d.choose n).2 := by
  unfold Device.choose; split <;> exact .of_pool rfl

theorem keeps_shuffle (n : Nat) : ∀ (d : Device) (l : List Nat), Keeps d (d.shuffle n l).2 := by
  induction n with
  | zero => intro d l; exact .refl d
  | succ n ih =>
    intro d l
    unfold Device.shuffle
    cases l with
    | nil => exact .refl d
    | cons y ys => exact (keeps_choose d _).trans (ih _ _)

theorem keeps_foldl {α : Type} (f : Device → α → Device) (hf : ∀ d a, Keeps d (f d a)) :
    ∀ (l : List α) (d : Device), Keeps d (l.foldl f d)
  | [], d => .refl d
  | a :: l, d => (hf d a).trans (keeps_foldl f hf l (f d a))

theorem keeps_joinAll (d : Device) (is : List Nat) : Keeps d (d.joinAll is) :=
  (keeps_shuffle _ d _).trans (keeps_foldl _ keeps_joinQueue _ _)

theorem keeps_freeAll (d : Device) (is : List Nat) : Keeps d (d.freeAll is) :=
  (keeps_shuffle _ d _).trans (keeps_foldl _ keeps_freeBuf _ _)

/-- A fill is given a buffer that is FREE or CLEAN, for a key that no buffer holds and that does not wait. -/
theorem keeps_startFill (d : Device) (i : Nat) (k : TrackKey) (hi : (d.buf i).state = .free ∨ (d.buf i).state = .clean)
    (hk : d.pool.Sound → ∀ j, (d.pool.buf j).state ≠ .free → (d.pool.buf j).key ≠ some k) (hw : k ∉ d.pool.waits) :
    Keeps d (d.startFill i k) := by
  unfold Device.startFill
  split
  · rename_i m l _ _
    rintro ⟨hl, x⟩
    replace hk := hk ⟨hl, x⟩
    refine ⟨(List.length_set ..).trans hl, ?_⟩
    generalize hb : ({ TrackBuffer.free with
      state := .filling, key := some k, layout := some l, sectors := l.sectorTable
      work := some { todo := fillBlocks m k l, stage := .next, taken := [], failed := [] } } : TrackBuffer) = b
    have bs : b.state = .filling ∧ b.key = some k := by subst hb; exact ⟨rfl, rfl⟩
    have buf : ∀ j, (d.setBuf i b).pool.buf j = if i = j ∧ j < d.pool.buffers.length then b else d.pool.buf j :=
      fun j => Pool.buf_set d.pool i j b
    constructor
    · intro p q y
      rw [buf, buf]
      split <;> split
      · intro _ _ _ _; omega
      · rename_i hp hq
        rw [bs.2]; intro _ hqf e1 e2; cases e1; exact absurd e2 (hk q hqf)
      · rename_i hp hq
        rw [bs.2]; intro hpf _ e1 e2; cases e2; exact absurd e1 (hk p hpf)
      · exact x.keys p q y
    · intro j hj
      have := x.queue j hj
      rw [buf, if_neg]
      · exact this
      · rintro ⟨rfl, _⟩
        have e : d.pool.buf i = d.buf i := rfl
        rw [e] at this
        rcases hi with h | h <;> rw [h] at this <;> cases this
    · intro j; rw [buf]; split
      · intro _; exact .inl bs.1
      · exact x.work j
    · intro y hy j; rw [buf]; split
      · rw [bs.2]; intro _ e; cases e; exact hw hy
      · exact x.waits y hy j
  · exact .refl d

theorem allocatable_state {d : Device} {i : Nat} (h : d.allocatable = some i) :
    (d.buf i).state = .free ∨ (d.buf i).state = .clean := by
  unfold Device.allocatable at h
  split at h
  · cases h; rename_i h; have := List.find?_some h; left; simpa using this
  · have := List.find?_some h; right; simp only [Bool.and_eq_true, beq_iff_eq] at this; exact this.1

/-- No buffer holds a key. -/
theorem holder_none {d : Device} {k : TrackKey} (hl : d.pool.buffers.length = 8) (h : d.holder k = none) :
    ∀ j, (d.pool.buf j).state ≠ .free → (d.pool.buf j).key ≠ some k := by
  intro j hj e
  have hlt : j < 8 := by
    by_contra hc
    apply hj
    unfold Pool.buf
    rw [List.getD_eq_getElem?_getD, List.getElem?_eq_none (by omega)]; rfl
  have := List.find?_eq_none.mp h j (by simpa [bufferIds, Config.bufferCount] using hlt)
  apply this
  have e' : (d.buf j).key = some k := e
  have hj' : (d.buf j).state ≠ .free := hj
  simp [e', hj']

theorem keeps_requestFill (d : Device) (k : TrackKey) : Keeps d (d.requestFill k) := by
  unfold Device.requestFill
  split
  · exact .refl d
  · rename_i h
    simp only [Bool.or_eq_true, not_or, Option.isNone_iff_eq_none, Bool.not_eq_true, Option.isSome_eq_false_iff] at h
    obtain ⟨⟨_, h2⟩, h3⟩ := h
    have hw : k ∉ d.pool.waits := by simpa using h3
    split
    · split
      · rename_i i ha
        exact keeps_startFill d i k (allocatable_state ha) (fun x => holder_none x.1 h2) hw
      · exact .refl d
    all_goals
      rintro ⟨hl, x⟩
      refine ⟨hl, x.keys, x.queue, x.work, fun y hy => ?_⟩
      rcases List.mem_append.mp hy with hy | hy
      · exact x.waits y hy
      · rw [List.mem_singleton] at hy; subst hy; exact holder_none hl h2

theorem keeps_markEviction (d e : Device) (h : d.markEviction = some e) : Keeps d e := by
  unfold Device.markEviction at h
  split at h
  · cases h
  · rw [Option.map_eq_some_iff] at h
    obtain ⟨i, _, rfl⟩ := h
    exact (keeps_setBuf_same d i { d.buf i with evict := true } rfl rfl id).trans (keeps_joinQueue _ _)

theorem firstWait_mem {d : Device} {k : TrackKey} (h : d.firstWait = some k) : k ∈ d.pool.waits := by
  unfold Device.firstWait at h
  split at h
  · cases h; rename_i h; exact List.mem_of_find?_eq_some h
  · exact List.mem_of_mem_head? h

theorem keeps_serveWait (d e : Device) (h : d.serveWait = some e) : Keeps d e := by
  unfold Device.serveWait at h
  split at h
  · cases h
  · rename_i k hk
    split at h
    · rename_i i hi
      cases h
      intro x
      have y : ({ d with pool := { d.pool with waits := d.pool.waits.filter (fun x => x != k) } } : Device).pool.Sound :=
        ⟨x.1, x.2.keys, x.2.queue, x.2.work, fun k' h' => x.2.waits k' (List.mem_of_mem_filter h')⟩
      exact keeps_startFill _ i k (allocatable_state hi) (fun _ => x.2.waits k (firstWait_mem hk)) (by simp) y
    · exact keeps_markEviction d e h

theorem keeps_dropStaleWaits (d e : Device) (h : d.dropStaleWaits = some e) : Keeps d e := by
  unfold Device.dropStaleWaits at h
  split at h
  · cases h
    exact .of_bufs (fun _ => ⟨rfl, rfl, id⟩) (fun _ h => h) (fun _ h => List.mem_of_mem_filter h) rfl
  · cases h

/-! ### Writes into a buffer -/

theorem keeps_storeWrite (d : Device) (i : Nat) (x : TrackBuffer) (b : Bool) (hk : x.key = (d.buf i).key)
    (hs : x.state = (d.buf i).state) (hw : x.work = (d.buf i).work) : Keeps d (d.storeWrite i x b) := by
  have h1 : Keeps d ((d.setBuf i x).touch i) :=
    (keeps_setBuf_same d i x hk hs (fun h => by rw [hw] at h; exact h)).trans (keeps_touch _ _)
  unfold Device.storeWrite
  dsimp only
  split
  · exact h1
  · have again : ∀ y : TrackBuffer, y.key = x.key → y.work = x.work → (y.state = .free ↔ x.state = .free) →
        ((d.pool.Held → i ∈ d.pool.queue → y.state = .dirty)) →
        (d.pool.Held → y.work.isSome = true → y.state = .filling ∨ y.state = .flushing) →
        Keeps d (((d.setBuf i x).touch i).setBuf i y) := by
      intro y e1 e2 e3 e4 e5 z
      have hz := h1 z
      refine keeps_setBuf _ i y ?_ ?_ (fun _ q => e4 z.2 q) (fun _ q => e5 z.2 q) hz
      · rw [e1]
        show x.key = ((d.setBuf i x).pool.buf i).key
        unfold Device.setBuf; rw [Pool.buf_set]; split <;> [rfl; exact hk]
      · rw [e3]
        show _ ↔ ((d.setBuf i x).pool.buf i).state = .free
        unfold Device.setBuf; rw [Pool.buf_set]; split <;> [exact Iff.rfl; (rw [hs]; exact Iff.rfl)]
    split
    · rename_i hc
      have h2 := again { x with state := .dirty, dirtySince := some d.now } rfl rfl (by simp [hc]) (fun _ _ => rfl)
        (fun z h => by
          have h' : x.work.isSome = true := h
          rw [hw] at h'
          have := z.work i h'
          have e : (d.pool.buf i).state = .clean := hs ▸ hc
          rw [e] at this; rcases this with h | h <;> cases h)
      split
      · exact h2.trans (keeps_joinQueue _ _)
      · exact h2
    · rename_i hc
      refine again _ rfl rfl Iff.rfl (fun z q => ?_) (fun _ _ => .inr hc)
      have := z.queue i q
      have e : (d.pool.buf i).state = .flushing := hs ▸ hc
      rw [e] at this; cases this
    · exact h1
    · exact h1
    · exact h1

theorem keeps_report (d : Device) (r : Report) : Keeps d (d.report r) := .of_pool rfl

theorem keeps_reportStray (d : Device) (k : TrackKey) (s : Option Sector) : Keeps d (d.reportStray k s) := by
  unfold Device.reportStray; split <;> exact .of_pool rfl

theorem keeps_reportFlagLost (d : Device) (k : TrackKey) (a b : List Sector) : Keeps d (d.reportFlagLost k a b) := by
  unfold Device.reportFlagLost; split <;> [exact .refl d; split <;> exact .of_pool rfl]

theorem keeps_reportSectorWrite (d : Device) (k : TrackKey) (r : Option Nat) (f : CapField) (e : Encoding) (n : Nat) :
    Keeps d (d.reportSectorWrite k r f e n) := by
  unfold Device.reportSectorWrite; split <;> [exact .of_pool rfl; split <;> exact .of_pool rfl]

theorem writeSector_keeps (x : TrackBuffer) (l : Layout) (k : Nat) (f : CapField) :
    (x.writeSector l k f).key = x.key ∧ (x.writeSector l k f).state = x.state ∧ (x.writeSector l k f).work = x.work := by
  unfold TrackBuffer.writeSector; dsimp only; split <;> exact ⟨rfl, rfl, rfl⟩

theorem keeps_applySectorWrite (d : Device) (i : Nat) (k : TrackKey) (l : Layout) (c : Capture) (p : Nat)
    (f : CapField) : Keeps d (d.applySectorWrite i k l c p f) := by
  obtain ⟨h1, h2, h3⟩ := writeSector_keeps (d.buf i) l p f
  unfold Device.applySectorWrite
  dsimp only
  split
  · exact ((keeps_storeWrite d i _ true h1 h2 h3).trans (keeps_reportSectorWrite _ _ _ _ _ _)).trans
      (keeps_reportFlagLost _ _ _ _)
  · refine (((keeps_storeWrite d i _ true ?_ ?_ ?_).trans (keeps_reportSectorWrite _ _ _ _ _ _)).trans
      (keeps_reportStray _ _ _)).trans (keeps_reportFlagLost _ _ _ _) <;> assumption

theorem keeps_applyStray (d : Device) (i : Nat) (k : TrackKey) (l : Layout) (c : Capture) :
    Keeps d (d.applyStray i k l c) := by
  unfold Device.applyStray
  dsimp only
  split
  · exact .refl d
  · refine ((keeps_storeWrite d i _ _ ?_ ?_ ?_).trans (keeps_reportStray _ _ _)).trans (keeps_reportFlagLost _ _ _ _)
      <;> rfl

theorem keeps_closeSection (d : Device) (u : UnitId) : Keeps d (d.closeSection u) := .of_pool rfl

theorem keeps_finishSlot (b d : Device) (u : UnitId) : Keeps d (Device.finishSlot b d u) := by
  rcases Device.finishSlot_eq b d u with h | ⟨t, h⟩ <;> rw [h] <;> exact .of_pool rfl

theorem keeps_refuseFormat (d : Device) (k : TrackKey) (x : Cause) : Keeps d (d.refuseFormat k x) := .of_pool rfl

theorem keeps_applyFormatChange (d : Device) (i : Nat) (k : TrackKey) (m : MountRecord) (ws : List WrittenSector) :
    Keeps d (d.applyFormatChange i k m ws) := by
  unfold Device.applyFormatChange
  dsimp only
  split
  · rename_i l _
    have hs : Keeps (d.setImage k.unit (some m)) ((d.setImage k.unit (some m)).storeWrite i
      (storeWritten ws l.dataLen { d.buf i with layout := some l, data := [] } l.sectorTable) true) :=
      keeps_storeWrite _ i _ true rfl rfl rfl
    have h0 : Keeps d (d.setImage k.unit (some m)) := .of_pool rfl
    refine Keeps.trans ?_ (keeps_reportFlagLost _ _ _ _)
    split
    · exact ((h0.trans hs).trans (keeps_closeSection _ _)).trans (keeps_finishSlot _ _ _)
    · exact h0.trans hs
  · exact .of_pool rfl

theorem keeps_changeFormat (d : Device) (i : Nat) (k : TrackKey) (m : MountRecord) (f : TrackFormat)
    (ws : List WrittenSector) : Keeps d (d.changeFormat i k m f ws) := by
  unfold Device.changeFormat
  split
  · split
    · split
      · exact keeps_applyFormatChange d i k _ ws
      · exact keeps_refuseFormat d k _
      · exact keeps_refuseFormat d k _
    · exact keeps_refuseFormat d k _
  · exact keeps_refuseFormat d k _

theorem keeps_noteMismatch (d : Device) (k : TrackKey) (ws : List WrittenSector) : Keeps d (d.noteMismatch k ws) := by
  unfold Device.noteMismatch; split <;> exact .of_pool rfl

theorem keeps_applyFormatData (d : Device) (i : Nat) (k : TrackKey) (l : Layout) (ws : List WrittenSector) :
    Keeps d (d.applyFormatData i k l ws) :=
  (keeps_storeWrite d i (storeWritten ws l.dataLen (d.buf i) (d.buf i).sectors) true rfl rfl rfl).trans
    (keeps_reportFlagLost _ _ _ _)

theorem keeps_judgeFormat (d : Device) (i : Option Nat) (k : TrackKey) (m : MountRecord) (c : Capture)
    (ws : List WrittenSector) : Keeps d (d.judgeFormat i k m c ws) := by
  have hn := keeps_noteMismatch d k ws
  unfold Device.judgeFormat
  split
  · exact keeps_refuseFormat d k _
  · dsimp only
    split
    · exact keeps_refuseFormat d k _
    · split
      · exact hn.trans (keeps_refuseFormat _ k _)
      · split
        · exact hn.trans (keeps_refuseFormat _ k _)
        · split
          · split
            · exact hn.trans (keeps_applyFormatData _ _ k _ _)
            · exact hn.trans (keeps_changeFormat _ _ k m _ _)
          · exact hn

theorem keeps_applyFormat (d : Device) (i : Option Nat) (k : TrackKey) (c : Capture) : Keeps d (d.applyFormat i k c) := by
  unfold Device.applyFormat
  split
  · exact .refl d
  · split
    · exact keeps_refuseFormat d k _
    · exact keeps_judgeFormat d i k _ c _

theorem keeps_decode (d : Device) (i : Option Nat) (c : Capture) : Keeps d (d.decode i c) := by
  unfold Device.decode
  split
  · split
    · exact keeps_applySectorWrite d _ _ _ _ _ _
    · split
      · exact keeps_applyFormat d _ _ c
      · exact keeps_applyStray d _ _ _ c
  · split
    · exact keeps_applyFormat d _ _ c
    · exact .refl d

theorem keeps_reportOverlong (d : Device) (c : Capture) : Keeps d (d.reportOverlong c) := by
  unfold Device.reportOverlong; split <;> exact .of_pool rfl

theorem keeps_setCapture (d : Device) (u : UnitId) (c : Option Capture) : Keeps d (d.setCapture u c) := .of_pool rfl

theorem keeps_captureEnd (d : Device) (u : UnitId) : Keeps d (d.captureEnd u) := by
  unfold Device.captureEnd
  split
  · exact .refl d
  · rename_i c _
    have ho := keeps_reportOverlong d c
    split
    · exact .refl d
    · split
      · exact keeps_setCapture d _ _
      · dsimp only
        split
        · exact (ho.trans (keeps_decode _ _ _)).trans (keeps_setCapture _ _ _)
        · split
          · exact (ho.trans (keeps_decode _ _ _)).trans (keeps_setCapture _ _ _)
          · exact (ho.trans (keeps_setCapture _ _ _)).trans (keeps_requestFill _ _)

theorem keeps_joinLost (b d : Device) : Keeps d (Device.joinLost b d) := keeps_joinAll d _

theorem keeps_decodePending (d : Device) (i : Nat) (u : UnitId) : Keeps d (d.decodePending i u) := by
  unfold Device.decodePending
  split
  · split
    · exact ((keeps_decode d _ _).trans (keeps_setCapture _ _ _)).trans (keeps_joinLost _ _)
    · exact .refl d
  · exact .refl d

/-! ### Sector commands and the engine -/

theorem keeps_finishCommand (d : Device) (k : TermClass) (x : Detail) : Keeps d (d.finishCommand k x) := by
  unfold Device.finishCommand; split <;> exact .of_pool rfl

theorem keeps_displaceSectors (d : Device) (x : Detail) (p : TrackKey → Bool) : Keeps d (d.displaceSectors x p) := by
  unfold Device.displaceSectors
  split
  · split <;> [exact keeps_finishCommand d _ _; exact .refl d]
  · exact .refl d

theorem keeps_writeSectorsFrom (d : Device) (i : Nat) (c : SectorCmd) (b : Bool) : Keeps d (d.writeSectorsFrom i c b) := by
  have h : Keeps d (d.storeWrite i ((d.buf i).loaderWrite d.port.window b c.numbers) true) :=
    keeps_storeWrite d i _ true rfl rfl rfl
  unfold Device.writeSectorsFrom
  dsimp only
  split
  · exact h.trans (.of_pool rfl)
  · exact h.trans (.of_pool rfl)

theorem keeps_applySectors (d : Device) (i : Nat) (c : SectorCmd) : Keeps d (d.applySectors i c) := by
  unfold Device.applySectors
  dsimp only
  split
  · exact .of_pool rfl
  · split
    · exact .of_pool rfl
    · split
      · have h : ∀ bs, Keeps d ((d.storeWindow bs).touch i) := fun bs =>
          Keeps.trans (b := d.storeWindow bs) (.of_pool rfl) (keeps_touch _ i)
        unfold Device.readSectorsInto Device.finish
        exact (h _).trans (.of_pool rfl)
      · unfold Device.verifySectorsWith
        dsimp only
        split <;> exact (keeps_touch d i).trans (.of_pool rfl)
      · exact keeps_writeSectorsFrom d i c _

theorem keeps_applyWaiting (d : Device) (i : Nat) (k : TrackKey) : Keeps d (d.applyWaiting i k) := by
  unfold Device.applyWaiting
  split
  · split <;> [exact keeps_applySectors d _ _; exact .refl d]
  · exact .refl d

theorem keeps_enterOffline (d : Device) : Keeps d d.enterOffline := by
  unfold Device.enterOffline
  refine Keeps.trans (b := { d with banks := { d.banks with entryOwed := false } }) (.of_pool rfl) ?_
  exact (((keeps_captureEnd _ _).trans (keeps_captureEnd _ _)).trans
    ((keeps_closeSection _ _).trans (keeps_closeSection _ _))).trans (keeps_displaceSectors _ _ _)

/-! ### Fills, flushes and lookups -/

theorem keeps_useFilled (d : Device) (i : Nat) (k : TrackKey) : Keeps d (d.useFilled i k) := by
  unfold Device.useFilled
  split
  · dsimp only
    split
    · exact ((keeps_choose d 2).trans (keeps_decodePending _ _ _)).trans (keeps_applyWaiting _ _ _)
    · exact ((keeps_choose d 2).trans (keeps_applyWaiting _ _ _)).trans (keeps_decodePending _ _ _)
  · exact (keeps_decodePending d _ _).trans (keeps_applyWaiting _ _ _)

theorem keeps_completeFill (d : Device) (i : Nat) (h : (d.buf i).state = .filling) : Keeps d (d.completeFill i) := by
  unfold Device.completeFill
  dsimp only
  split
  · exact .refl d
  · rename_i k _
    have hs : Keeps d (d.setBuf i
        { d.buf i with state := .clean, work := none, completion := d.completionPhase k.unit }) := by
      refine keeps_setBuf d i _ rfl ?_ (fun z q => ?_) (fun _ q => by cases q)
      · show BufferState.clean = .free ↔ (d.buf i).state = .free
        rw [h]; constructor <;> intro e <;> cases e
      · have := z.queue i q
        have e : (d.pool.buf i).state = .filling := h
        rw [e] at this; cases this
    split
    · exact ((hs.trans (keeps_touch _ _)).trans (keeps_useFilled _ _ _)).trans (keeps_requestFill _ _)
    · exact (hs.trans (keeps_touch _ _)).trans (keeps_useFilled _ _ _)

theorem keeps_request (d : Device) (r : Request) : Keeps d (d.request r) := by
  unfold Device.request; split <;> exact .of_pool rfl

theorem keeps_modWindow (d : Device) (u : UnitId) (f : ExtentWindow → ExtentWindow) : Keeps d (d.modWindow u f) :=
  .of_pool rfl

/-- Work that goes on stays the work of its buffer. -/
theorem keeps_setWork (d : Device) (i : Nat) (w : Work) (h : (d.buf i).work.isSome = true) : Keeps d (d.setWork i w) :=
  keeps_setBuf_same d i { d.buf i with work := some w } rfl rfl (fun _ => h)

theorem keeps_askLookup (d : Device) (i : Nat) (k : TrackKey) (w : Work) (b : WorkBlock)
    (h : (d.buf i).work.isSome = true) : Keeps d (d.askLookup i k w b) :=
  (keeps_setWork d i _ h).trans (keeps_modWindow _ _ _)

theorem keeps_lookupAnswered (d : Device) (i a n : Nat) : Keeps d (d.lookupAnswered i a n) := by
  unfold Device.lookupAnswered
  split
  · rename_i k w _ hw
    have h : (d.buf i).work.isSome = true := by rw [hw]; rfl
    split
    · split <;> exact (keeps_setWork d i _ h).trans (keeps_request _ _)
    · exact .refl d
  · exact .refl d

theorem keeps_loseBlocks (d : Device) (i n : Nat) : Keeps d (d.loseBlocks i n) := by
  unfold Device.loseBlocks
  dsimp only
  split
  · rename_i k w _ hw
    have h : (d.pool.buf i).work.isSome = true := by
      show (d.buf i).work.isSome = true
      rw [hw]; rfl
    split
    · split <;> exact keeps_setBuf_same d i _ rfl rfl (fun _ => h)
    · exact .refl d
  · exact .refl d

theorem takeBlocks_keeps (m : MountRecord) (k : TrackKey) : ∀ (ws : List WorkBlock) (x : TrackBuffer) (bs : List Byte),
    (x.takeBlocks m k ws bs).key = x.key ∧ (x.takeBlocks m k ws bs).state = x.state
  | [], _, _ => ⟨rfl, rfl⟩
  | w :: ws, x, bs => by
    have h := takeBlocks_keeps m k ws (x.takeBlock m k w.image (bytesAt bs 0 512)) (bs.drop 512)
    exact ⟨h.1.trans rfl, h.2.trans rfl⟩

theorem keeps_runSucceeded (d : Device) (i : Nat) (bs : List Byte) : Keeps d (d.runSucceeded i bs) := by
  unfold Device.runSucceeded
  dsimp only
  split
  · rename_i k w _ hw
    have h : (d.pool.buf i).work.isSome = true := by
      show (d.buf i).work.isSome = true
      rw [hw]; rfl
    split
    · rename_i m _ n _ _
      split
      · exact keeps_setBuf_same d i _ (takeBlocks_keeps m k _ _ _).1 (takeBlocks_keeps m k _ _ _).2 (fun _ => h)
      · exact (keeps_setWork d i _ h).trans (keeps_request _ _)
    · exact keeps_setWork d i _ h
    · exact .refl d
  · exact .refl d

theorem keeps_runFailed (d : Device) (i : Nat) : Keeps d (d.runFailed i) := by
  unfold Device.runFailed
  split
  · split <;> first | exact keeps_loseBlocks d i _ | exact .refl d
  · exact .refl d

theorem afterFlush_keeps (x : TrackBuffer) (now : Nat) (b : Bool) : (x.afterFlush now b).key = x.key
    ∧ (x.afterFlush now b).work = none
    ∧ ((x.afterFlush now b).state = .dirty ∨ (x.afterFlush now b).state = .clean) := by
  unfold TrackBuffer.afterFlush
  dsimp only
  split
  · exact ⟨rfl, rfl, .inl rfl⟩
  · split
    · exact ⟨rfl, rfl, .inl rfl⟩
    · exact ⟨rfl, rfl, .inr rfl⟩

theorem keeps_endFlush (d : Device) (i : Nat) (hf : (d.buf i).state ≠ .filling) : Keeps d (d.endFlush i) := by
  unfold Device.endFlush
  dsimp only
  split
  · rename_i k w _ hw
    split
    · rename_i m _
      intro z
      have st : (d.pool.buf i).state = .flushing := by
        rcases z.2.work i (by show (d.buf i).work.isSome = true; rw [hw]; rfl) with h | h
        · exact absurd h hf
        · exact h
      obtain ⟨e1, e2, e3⟩ := afterFlush_keeps ((d.buf i).returnDirty m k w.failed) d.now (!w.failed.isEmpty)
      have hs : Keeps d (d.setBuf i (((d.buf i).returnDirty m k w.failed).afterFlush d.now (!w.failed.isEmpty))) := by
        refine keeps_setBuf d i _ (e1.trans rfl) ?_ (fun y q => ?_) (fun _ q => by rw [e2] at q; cases q)
        · rw [st]; rcases e3 with e | e <;> rw [e] <;> constructor <;> intro e <;> cases e
        · have := y.queue i q; rw [st] at this; cases this
      refine (Keeps.trans hs ?_) z
      have hj : ∀ (c : Bool) (e : Device), Keeps e (if c then e.joinQueue i else e) := by
        intro c e; split <;> [exact keeps_joinQueue e i; exact .refl e]
      have hc : ∀ (c : Bool) (e : Device), Keeps e (if c then e.finishCommand .failed .cardError else e) := by
        intro c e; split <;> [exact keeps_finishCommand e _ _; exact .refl e]
      exact (hj _ _).trans (hc _ _)
    · exact .refl d
  · exact .refl d

theorem keeps_workOn (d : Device) (i : Nat) : Keeps d (d.workOn i) := by
  unfold Device.workOn
  split
  · rename_i k w _ hw
    split
    · exact keeps_askLookup d i _ _ _ (by rw [hw]; rfl)
    · split
      · rename_i h; exact keeps_completeFill d i (by simpa using h)
      · rename_i h; exact keeps_endFlush d i (by simpa using h)
  · exact .refl d

theorem keeps_failLookup (d : Device) (u : UnitId) (c : Cause) (b : Option Nat) : Keeps d (d.failLookup u c b) := by
  unfold Device.failLookup
  split
  · exact .refl d
  · rename_i l rest _
    dsimp only
    refine Keeps.trans ?_ (keeps_loseBlocks _ _ _)
    exact Keeps.trans (keeps_report d _) (keeps_modWindow _ _ _)

theorem keeps_serveLookup (d e : Device) (u : UnitId) (h : d.serveLookup u = some e) : Keeps d e := by
  unfold Device.serveLookup at h
  dsimp only at h
  split at h
  · cases h
  · split at h
    · cases h
    · split at h
      · split at h
        · cases h; exact (keeps_modWindow d _ _).trans (keeps_lookupAnswered _ _ _ _)
        · cases h
      · split at h <;> cases h
        · exact (keeps_modWindow d _ _).trans (keeps_failLookup _ _ _ _)
        · exact (keeps_modWindow d _ _).trans (keeps_request _ _)
      · cases h; exact (keeps_modWindow d _ _).trans (keeps_failLookup _ _ _ _)
      · cases h

theorem keeps_windowNews (d : Device) (u : UnitId) (ok : Bool) (bs : List Byte) : Keeps d (d.windowNews u ok bs) := by
  unfold Device.windowNews
  dsimp only
  split
  · exact .refl d
  · split
    · exact keeps_modWindow d _ _
    · exact (keeps_modWindow d _ _).trans (keeps_failLookup _ _ _ _)

theorem keeps_requestHeader (d : Device) (u : UnitId) : Keeps d (d.requestHeader u) := by
  unfold Device.requestHeader
  split
  · split <;> [exact keeps_request d _; exact .refl d]
  · exact .refl d

theorem keeps_headerNews (d : Device) (u : UnitId) (ok : Bool) : Keeps d (d.headerNews u ok) := by
  unfold Device.headerNews
  split
  · exact .refl d
  · rename_i m _
    have h : Keeps d (d.setImage u (some m.headerEnded)) := .of_pool rfl
    dsimp only
    split
    · exact h.trans (keeps_requestHeader _ _)
    · refine Keeps.trans ?_ (keeps_requestHeader _ _)
      split
      · exact (h.trans (keeps_report _ _)).trans (keeps_finishCommand _ _ _)
      · exact h.trans (keeps_report _ _)

theorem keeps_joinUnit (d : Device) (u : UnitId) : Keeps d (d.joinUnit u) := keeps_joinAll d _

theorem keeps_placeChange (d : Device) (u : UnitId) (c : Change) : Keeps d (d.placeChange u c) :=
  Keeps.trans (b := d.setPending u (some c)) (.of_pool rfl) ((keeps_joinUnit _ _).trans (keeps_requestHeader _ _))

theorem keeps_setStaged (d : Device) (u : UnitId) (c : Change) : Keeps d (d.setStaged u c) := by
  unfold Device.setStaged; split <;> [exact .of_pool rfl; exact .refl d]

theorem keeps_finish (d : Device) (c : Byte) (k : TermClass) (x : Detail) (bs : List Byte) :
    Keeps d (d.finish c k x bs) := .of_pool rfl

theorem keeps_mountValidated (d : Device) (c : MountCmd) (m : MountRecord) : Keeps d (d.mountValidated c m) := by
  unfold Device.mountValidated
  dsimp only
  split
  · exact (keeps_setStaged d _ _).trans (keeps_finish _ _ _ _ _)
  · exact (keeps_placeChange d _ _).trans (keeps_finish _ _ _ _ _)

theorem keeps_walkOn (d : Device) (c : MountCmd) (w : Walk) : Keeps d (d.walkOn c w) := by
  unfold Device.walkOn
  split
  · unfold Device.walkFetch
    split
    · exact keeps_finish d _ _ _ _
    · split
      · exact keeps_finish d _ _ _ _
      · exact Keeps.trans (b := d.execute _) (.of_pool rfl) (keeps_request _ _)
  · split
    · unfold Device.walkDone
      split
      · exact keeps_finish d _ _ _ _
      · split
        · exact keeps_finish d _ _ _ _
        · split
          · exact keeps_finish d _ _ _ _
          · exact keeps_mountValidated d _ _
    · exact keeps_finish d _ _ _ _

theorem keeps_engineNews (d : Device) (ok : Bool) (bs : List Byte) : Keeps d (d.engineNews ok bs) := by
  unfold Device.engineNews
  split
  · unfold Device.mountNews
    split
    · exact keeps_finish d _ _ _ _
    · split
      · unfold Device.headerRead
        split
        · exact keeps_finish d _ _ _ _
        · split
          · exact keeps_finish d _ _ _ _
          · exact keeps_walkOn d _ _
      · exact keeps_walkOn d _ _
  all_goals first
    | exact .refl d
    | (split <;> exact .of_pool rfl)

theorem keeps_deliver (d : Device) (n : RunNews) : Keeps d (d.deliver n) := by
  unfold Device.deliver
  split
  · exact keeps_windowNews d _ _ _
  · split <;> [exact keeps_runSucceeded d _ _; exact keeps_runFailed d _]
  · exact keeps_headerNews d _ _
  · exact keeps_engineNews d _ _

theorem keeps_flushDone (d e : Device) (h : d.flushDone = some e) : Keeps d e := by
  unfold Device.flushDone at h
  split at h
  · split at h <;> cases h
    exact keeps_finish d _ _ _ _
  · cases h

theorem keeps_micro (d e : Device) (h : d.micro = some e) : Keeps d e := by
  unfold Device.micro at h
  split at h
  · cases h; exact keeps_enterOffline d
  · split at h
    · rename_i n rest _
      cases h; exact Keeps.trans (b := { d with news := rest }) (.of_pool rfl) (keeps_deliver _ n)
    · split at h
      · cases h; exact keeps_workOn d _
      · rcases orElse_cases h with h | h
        · exact keeps_serveLookup d e _ h
        · rcases orElse_cases h with h | h
          · exact keeps_serveLookup d e _ h
          · rcases orElse_cases h with h | h
            · exact keeps_dropStaleWaits d e h
            · rcases orElse_cases h with h | h
              · exact keeps_serveWait d e h
              · exact keeps_flushDone d e h

/-- All the effects that follow an event keep `Pool.Held`. -/
theorem keeps_settled (d : Device) : Keeps d d.settled := by
  unfold Device.settled
  generalize Config.settleFuel = n
  induction n generalizing d with
  | zero => exact .refl d
  | succ n ih =>
    unfold settle
    split
    · rename_i e h; exact (keeps_micro d e h).trans (ih e)
    · exact .refl d

/-! ### Commands -/

theorem keeps_advance (d : Device) (n : Nat) : Keeps d (d.advance n) := .of_pool rfl

theorem keeps_modUnit (d : Device) (u : UnitId) (f : UnitRecord → UnitRecord) : Keeps d (d.modUnit u f) := .of_pool rfl

theorem keeps_setPending (d : Device) (u : UnitId) (c : Option Change) : Keeps d (d.setPending u c) := .of_pool rfl

theorem keeps_tell (d : Device) (w : Requester) (ok : Bool) (bs : List Byte) : Keeps d (d.tell w ok bs) := .of_pool rfl

theorem keeps_beginInit (d : Device) : Keeps d d.beginInit := .of_pool (by unfold Device.beginInit; rw [Device.failRequests_eq])

theorem keeps_afterRun (d : Device) : Keeps d d.afterRun := by
  unfold Device.afterRun; split <;> [exact keeps_beginInit d; exact .refl d]

theorem keeps_withdraw (d : Device) (w : Requester) : Keeps d (d.withdraw w) := by
  unfold Device.withdraw Device.dropRetry
  dsimp only
  split
  · split
    · have h := fun x => keeps_afterRun x
      exact fun x => h _ x
    · exact .of_pool rfl
  · exact .of_pool rfl

theorem keeps_dropCompletion (d : Device) (u : UnitId) : Keeps d (d.dropCompletion u) := by
  have hb : ∀ i, ((d.dropCompletion u).pool.buf i).state = (d.pool.buf i).state
      ∧ ((d.dropCompletion u).pool.buf i).key = (d.pool.buf i).key
      ∧ ((d.dropCompletion u).pool.buf i).work = (d.pool.buf i).work := by
    intro i
    unfold Device.dropCompletion Pool.buf
    simp only [List.getD_eq_getElem?_getD, List.getElem?_map]
    cases d.pool.buffers[i]? with
    | none => exact ⟨rfl, rfl, rfl⟩
    | some b => simp only [Option.map_some, Option.getD_some]; split <;> [split; skip] <;> exact ⟨rfl, rfl, rfl⟩
  exact .of_bufs (fun i => ⟨(hb i).1, (hb i).2.1, by rw [(hb i).2.2]; exact id⟩) (fun _ h => h) (fun _ h => h)
    (List.length_map ..)

theorem keeps_withNotice (b : Device) (u : UnitId) (app : Bool) (d : Device) : Keeps d (Device.withNotice b u app d) := by
  have h := ((keeps_joinLost b d).trans (keeps_closeSection _ u)).trans (keeps_finishSlot b _ u)
  unfold Device.withNotice
  dsimp only
  split
  · exact h
  · split <;> [exact h.trans (keeps_requestFill _ _); exact h]

theorem keeps_sampleSide (d : Device) (u : UnitId) : Keeps d (d.sampleSide u) := by
  unfold Device.sampleSide
  split
  · exact .refl d
  · exact (keeps_modUnit d u _).trans (keeps_withNotice _ _ _ _)

theorem keeps_followMotor (d : Device) (u : UnitId) : Keeps d (d.followMotor u) := by
  unfold Device.followMotor
  dsimp only
  split
  · exact (keeps_modUnit d u _).trans (keeps_withNotice _ _ _ _)
  · split
    · unfold Device.motorOff
      exact (((((keeps_captureEnd d u).trans (keeps_modUnit _ u _)).trans (keeps_dropCompletion _ u)).trans
        (keeps_closeSection _ u)).trans (keeps_joinUnit _ u)).trans (keeps_requestHeader _ u)
    · exact .refl d

theorem keeps_applyChange (d : Device) (u : UnitId) (c : Change) : Keeps d (d.applyChange u c) := by
  have hw : ∀ (l : List Nat) (x : Device), Keeps x (l.foldl (fun (x : Device) i => x.withdraw (.buffer i)) x) := fun l x =>
    keeps_foldl _ (fun x i => keeps_withdraw x (.buffer i)) l x
  have hs : ∀ p, Keeps d (d.applyImageStage u p) := by
    intro p
    unfold Device.applyImageStage
    split
    · rename_i part
      refine Keeps.trans (b := (d.displaceSectors .imageChanged (fun k => k.unit == u)).abandonUnit u) ?_ ?_
      · refine (keeps_displaceSectors d .imageChanged (fun k => k.unit == u)).trans ?_
        generalize d.displaceSectors .imageChanged (fun k => k.unit == u) = e
        unfold Device.abandonUnit
        dsimp only
        exact ((((hw _ e).trans (keeps_withdraw _ _)).trans (keeps_freeAll _ _))).trans
          (.of_bufs (fun _ => ⟨rfl, rfl, id⟩) (fun _ h => h) (fun _ h => List.mem_of_mem_filter h) rfl)
      · cases part <;> exact .of_pool rfl
    · exact .refl d
  have hp : ∀ e : Device, Keeps e (e.applyProtect u c.protect) := by
    intro e
    unfold Device.applyProtect
    split
    · split <;> exact .of_pool rfl
    · exact .refl e
  unfold Device.applyChange
  dsimp only
  have h := ((hs c.image).trans (hp _)).trans (keeps_modUnit _ u (fun r => { r with applied := true }))
  split
  · exact (h.trans (keeps_withNotice d u true _)).trans (keeps_setPending _ _ _)
  · exact h.trans (keeps_setPending _ _ _)

theorem keeps_applyAtStart (d : Device) (u : UnitId) : Keeps d (d.applyAtStart u) := by
  unfold Device.applyAtStart
  split
  · split <;> [exact keeps_applyChange d _ _; exact .refl d]
  · exact .refl d

theorem keeps_revolutionEvent (d : Device) (u : UnitId) : Keeps d (d.revolutionEvent u) := by
  unfold Device.revolutionEvent
  dsimp only
  refine Keeps.trans ((Keeps.trans (Keeps.trans ?_ (keeps_dropCompletion _ u)) (keeps_closeSection _ u)).trans
    (keeps_applyAtStart _ u)) (keeps_modUnit _ _ _)
  unfold Device.checkReady
  split
  · split <;> [exact keeps_report d _; exact .refl d]
  · exact .refl d

theorem keeps_handStarts (d : Device) (u : UnitId) : Keeps d (d.handStarts u) := by
  unfold Device.handStarts
  generalize (d.units.get u).revDue = n
  induction n generalizing d with
  | zero => exact .refl d
  | succ n ih => exact (keeps_revolutionEvent d u).trans (ih _)

/-- The tests that end an event. -/
theorem keeps_tested (d : Device) : Keeps d d.tested := fun h =>
  tested_keeps (fun e => e.pool.Sound) d h (fun e u c he _ _ => keeps_applyChange e u c he)
    (fun e he => keeps_settled e he)

theorem keeps_onRevolution (d : Device) (u : UnitId) : Keeps d (d.onRevolution u) := by
  unfold Device.onRevolution
  dsimp only
  split
  · split
    · exact keeps_revolutionEvent d u
    · exact (keeps_advance d _).trans (keeps_revolutionEvent _ u)
  · exact .refl d

theorem keeps_evaluate (b d : Device) : Keeps d (Device.evaluate b d) := by
  have hs : Keeps d (d.moveSelection b.selected) := by
    unfold Device.moveSelection
    split
    · exact .refl d
    · have h1 : ∀ x : Device, Keeps d x → Keeps d (match x.selected with
          | some u => x.select u
          | none => x) := by
        intro x hx
        split
        · exact hx.trans ((keeps_sampleSide _ _).trans (.of_pool rfl))
        · exact hx
      refine h1 _ ?_
      split
      · exact (keeps_captureEnd d _).trans (.of_pool rfl)
      · exact .refl d
  unfold Device.evaluate
  dsimp only
  refine ((hs.trans ?_).trans (keeps_followMotor _ _)).trans (keeps_followMotor _ _)
  unfold Device.reportDouble
  split <;> [exact keeps_report _ _; exact .refl _]

theorem keeps_followLines (d : Device) (change : Device → Device) (h : ∀ x, (change x).pool = x.pool) :
    Keeps d (d.followLines change) := by
  have hb : Keeps d (d.startsBefore change) := by
    unfold Device.startsBefore
    dsimp only
    split <;> split
    · exact (keeps_handStarts d _).trans (keeps_handStarts _ _)
    · exact keeps_handStarts d _
    · exact keeps_handStarts d _
    · exact .refl d
  exact (hb.trans (.of_pool (h _))).trans (keeps_evaluate _ _)

/-- A DIRTY buffer's flush starts: it leaves the queue and has work. -/
theorem keeps_startFlush (d : Device) (i : Nat) (h : i ∈ d.pool.queue) : Keeps d (d.startFlush i) := by
  unfold Device.startFlush
  split
  · rename_i k _
    split
    · rename_i m _
      refine Keeps.trans (b := { d.setBuf i ((d.buf i).snapshot m k) with
        pool := { (d.setBuf i ((d.buf i).snapshot m k)).pool with
          queue := (d.setBuf i ((d.buf i).snapshot m k)).pool.queue.filter (fun j => j != i) } }) ?_
        (keeps_requestHeader _ _)
      rintro ⟨hl, x⟩
      have hd : (d.pool.buf i).state = .dirty := x.queue i h
      have e : ∀ j, (d.setBuf i ((d.buf i).snapshot m k)).pool.buf j
          = if i = j ∧ j < d.pool.buffers.length then (d.buf i).snapshot m k else d.pool.buf j :=
        fun j => Pool.buf_set d.pool i j _
      have hk : ∀ j, ((d.setBuf i ((d.buf i).snapshot m k)).pool.buf j).key = (d.pool.buf j).key := by
        intro j; rw [e]; split
        · rename_i g; rw [← g.1]; rfl
        · rfl
      have hf : ∀ j, ((d.setBuf i ((d.buf i).snapshot m k)).pool.buf j).state ≠ .free ↔ (d.pool.buf j).state ≠ .free := by
        intro j; rw [e]; split
        · rename_i g; rw [← g.1, hd]; constructor <;> intro _ <;> exact nofun
        · rfl
      refine ⟨(List.length_set ..).trans hl, ⟨fun p q y => ?_, fun j hj => ?_, fun j => ?_, fun y hy j => ?_⟩⟩
      · have := x.keys p q y
        rw [← hf, ← hf, ← hk, ← hk] at this; exact this
      · have hj' := List.mem_filter.mp hj
        show ((d.setBuf i ((d.buf i).snapshot m k)).pool.buf j).state = .dirty
        rw [e, if_neg (by rintro ⟨rfl, _⟩; simp at hj')]
        exact x.queue j hj'.1
      · show ((d.setBuf i ((d.buf i).snapshot m k)).pool.buf j).work.isSome = true →
          ((d.setBuf i ((d.buf i).snapshot m k)).pool.buf j).state = .filling
            ∨ ((d.setBuf i ((d.buf i).snapshot m k)).pool.buf j).state = .flushing
        rw [e]; split
        · intro _; exact .inr rfl
        · exact x.work j
      · have := x.waits y hy j
        rw [← hf, ← hk] at this; exact this
    · exact .refl d
  · exact .refl d

theorem flushEntry_queued {d : Device} {u : UnitId} {i : Nat} (h : d.flushEntry u = some i) : i ∈ d.pool.queue := by
  unfold Device.flushEntry at h
  dsimp only at h
  split at h
  · cases h; rename_i h; exact List.mem_of_mem_filter (List.mem_of_find?_eq_some h)
  · exact List.mem_of_mem_filter (List.mem_of_mem_head? h)

theorem keeps_removal (d : Device) : Keeps d d.removal := by
  have h0 : Keeps d (((d.loseUnit .u0).loseUnit .u1).emptyCard.emptyPool) :=
    Keeps.trans (b := ((d.loseUnit .u0).loseUnit .u1).emptyCard) (.of_pool rfl)
      ((keeps_freeAll _ bufferIds).trans (.of_bufs (fun _ => ⟨rfl, rfl, id⟩) nofun nofun rfl))
  unfold Device.removal
  dsimp only
  have he : ∀ e : Device, Keeps e e.endCommandAbsent := by
    intro e
    unfold Device.endCommandAbsent
    split <;> first | exact keeps_finishCommand e _ _ | exact .refl e
  have hr : ∀ e : Device, Keeps e (e.reportRemoval d) := by
    intro e
    unfold Device.reportRemoval
    split <;> [exact keeps_report e _; exact .refl e]
  refine Keeps.trans ?_ (hr _)
  refine Keeps.trans ?_ (he _)
  refine Keeps.trans ?_ (keeps_finishSlot d _ .u1)
  refine Keeps.trans ?_ (keeps_closeSection _ .u1)
  refine Keeps.trans ?_ (keeps_finishSlot d _ .u0)
  refine Keeps.trans ?_ (keeps_closeSection _ .u0)
  exact h0.trans (.of_pool rfl)

/-- The eight FREE buffers of a reset. -/
theorem reset_sound : Pool.reset.Sound := by
  have h : ∀ i, Pool.reset.buf i = TrackBuffer.free := fun i => by
    unfold Pool.buf
    rw [List.getD_eq_getElem?_getD]
    cases hb : Pool.reset.buffers[i]? with
    | none => rfl
    | some b => exact List.eq_of_mem_replicate (List.mem_of_getElem? hb : b ∈ List.replicate 8 TrackBuffer.free)
  exact ⟨rfl, fun i _ _ g => absurd (congrArg TrackBuffer.state (h i)) g, nofun,
    fun i g => by (rw [h] at g; cases g), nofun⟩

theorem keeps_sampleLines (d : Device) (l : Lines) : Keeps d (d.sampleLines l) := by
  unfold Device.sampleLines Device.sampleCard
  have h : Keeps d (Device.followLines { d with lines := Lines.released } (fun x => { x with lines := l })) :=
    Keeps.trans (b := { d with lines := Lines.released }) (.of_pool rfl) (keeps_followLines _ _ (fun _ => rfl))
  split <;> [exact h.trans (keeps_beginInit _); exact h]

theorem keeps_onStep (d : Device) (b : Bool) : Keeps d (d.onStep b) := by
  have hm : ∀ (e : Device) u c, Keeps e (e.moveHead u c) := fun e u c =>
    (keeps_modUnit e u _).trans (keeps_withNotice _ _ _ _)
  have hl : ∀ (e : Device) u, Keeps e (e.stepLatch u) := fun e u => by
    unfold Device.stepLatch; split <;> exact .of_pool rfl
  unfold Device.onStep
  dsimp only
  split
  · exact .of_pool rfl
  · split
    · exact .of_pool rfl
    · refine Keeps.trans (b := { d with lines := { d.lines with dir := b } }) (.of_pool rfl) ?_
      unfold Device.takeStep
      dsimp only
      split
      · split
        · exact (hl _ _).trans (hm _ _ _)
        · exact (hl _ _).trans (keeps_report _ _)
      · split
        · exact hl _ _
        · exact (hl _ _).trans (hm _ _ _)

theorem keeps_onGate (d : Device) : Keeps d d.onGateAssert ∧ Keeps d d.onGateRelease := by
  constructor
  · unfold Device.onGateAssert
    split
    · exact .refl d
    · dsimp only
      split
      · unfold Device.writeStart
        dsimp only
        split <;> [exact .of_pool rfl; split <;> [exact .of_pool rfl; split <;> [exact .of_pool rfl; split <;>
          exact .of_pool rfl]]]
      · exact .of_pool rfl
  · unfold Device.onGateRelease
    split
    · dsimp only
      split
      · exact Keeps.trans (b := { d with lines := { d.lines with wgate := false } }) (.of_pool rfl)
          ((keeps_captureEnd _ _).trans (keeps_sampleSide _ _))
      · exact .of_pool rfl
    · exact .refl d

theorem keeps_onReadSlot (d : Device) : Keeps d d.onReadSlot := by
  unfold Device.onReadSlot
  split
  · rename_i u _
    refine (keeps_advance d (d.nextSlot u).1).trans ?_
    unfold Device.deliverSlot
    split
    · split
      · unfold Device.trackSlot
        dsimp only
        split
        · exact Keeps.of_bufs (fun _ => ⟨rfl, rfl, id⟩) (fun _ h => h) (fun _ h => h) rfl
        · exact .of_pool rfl
      · exact .of_pool rfl
    · exact .of_pool rfl
  · exact .refl d

theorem keeps_runLost (d : Device) (r : Run) (c : RunCause) : Keeps d (d.runLost r c) := by
  unfold Device.runLost
  dsimp only
  refine Keeps.trans ?_ (keeps_afterRun _)
  have ht : ∀ (e : Device) ok bs, Keeps e (e.tellRun r ok bs) := fun e ok bs => by
    unfold Device.tellRun; split <;> exact .of_pool rfl
  have h : Keeps d ((d.dropRun.tellRun r false []).report (r.report .uncorrected c)) :=
    (Keeps.trans (b := d.dropRun) (.of_pool rfl) (ht _ _ _)).trans (keeps_report _ _)
  split
  · refine h.trans (.of_pool ?_)
    unfold Device.cardFails
    dsimp only
    rw [Device.failRequests_eq]
  · exact h

theorem keeps_runFails (d : Device) (r : Run) (c : RunCause) : Keeps d (d.runFails r c) := by
  unfold Device.runFails; split <;> [exact .of_pool rfl; exact keeps_runLost d r c]

theorem keeps_onRunAnswer (d : Device) (a : CardAnswer) : Keeps d (d.onRunAnswer a) := by
  unfold Device.onRunAnswer
  split
  · split
    · split
      · split
        · unfold Device.runDone
          dsimp only
          refine Keeps.trans ?_ (keeps_afterRun _)
          unfold Device.tellRun
          split <;> split <;> exact .of_pool rfl
        · exact keeps_runFails d _ _
      · exact keeps_runFails d _ _
      · exact keeps_runFails d _ _
    · exact .refl d
  · exact .refl d

theorem keeps_onGrant (d : Device) : Keeps d d.onGrant := by
  unfold Device.onGrant
  split
  · split
    · exact .of_pool rfl
    · split
      · unfold Device.grantRequest
        split
        · rename_i r d1 h
          have h1 : d1.pool = d.pool := by
            unfold Device.oldest at h
            dsimp only at h
            rw [Prod.mk.injEq] at h
            rw [← h.2]
            unfold Device.choose; split <;> rfl
          refine .of_pool (Eq.trans ?_ h1)
          unfold Device.markWriting
          split <;> rfl
        · exact .refl d
      · exact .refl d
  · exact .refl d

theorem keeps_onCommand (d : Device) (f : Device → Device) (h : ∀ e, Keeps e (f e)) : Keeps d (d.onCommand f) := by
  unfold Device.onCommand
  dsimp only
  split
  · exact Keeps.trans (b := d.openFrame) (.of_pool rfl) (h _)
  all_goals exact .of_pool rfl

theorem keeps_judgeSectors (d : Device) (c : SectorCmd) : Keeps d (d.judgeSectors c) := by
  unfold Device.judgeSectors
  dsimp only
  repeat' first
    | exact .of_pool rfl
    | split
  unfold Device.serveSectors
  dsimp only
  split
  · exact Keeps.trans (b := d.execute (.sectors c)) (.of_pool rfl) (keeps_applySectors _ _ _)
  · exact Keeps.trans (b := d.execute (.sectors c)) (.of_pool rfl) (keeps_requestFill _ _)

/-- A request for the command that begins. -/
theorem keeps_executeRequest (d : Device) (c : Command) (r : Request) : Keeps d ((d.execute c).request r) :=
  Keeps.trans (b := d.execute c) (.of_pool rfl) (keeps_request _ _)

theorem keeps_flushUnit (d : Device) (s : FlushSel) (u : UnitId) : Keeps d (d.flushUnit s u) := by
  unfold Device.flushUnit
  split <;> [exact (keeps_joinUnit d u).trans (keeps_requestHeader _ _); exact .refl d]

/-- The commands of the Loader Port, but for the sector commands. -/
theorem keeps_judges (d : Device) : (∀ u e l m k, Keeps d (d.judgeConfigure u e l m k)) ∧ (∀ u h p, Keeps d (d.judgeMount u h p))
    ∧ (∀ u, Keeps d (d.judgeEject u)) ∧ (∀ u v, Keeps d (d.judgeProtect u v)) ∧ Keeps d d.judgeRelease
    ∧ (∀ b n, Keeps d (d.judgeReadBlocks b n)) ∧ (∀ b n, Keeps d (d.judgeWriteBlocks b n)) ∧ (∀ s, Keeps d (d.judgeFlush s))
    ∧ Keeps d d.judgeCardReset := by
  refine ⟨fun u e l m k => ?_, fun u h p => ?_, fun u => ?_, fun u v => ?_, ?_, fun b n => ?_, fun b n => ?_, fun s => ?_, ?_⟩
  · unfold Device.judgeConfigure
    split
    · split
      · exact .of_pool rfl
      · split
        · exact .of_pool rfl
        · exact Keeps.trans (b := d.configure _ _) (keeps_followLines d _ (fun _ => rfl)) (.of_pool rfl)
    · exact .of_pool rfl
  · unfold Device.judgeMount Device.startMount Device.requestMountRead
    repeat' first
      | exact .of_pool rfl
      | exact keeps_executeRequest d _ _
      | split
  · unfold Device.judgeEject Device.stageEject Device.placeEject
    repeat' first
      | exact .of_pool rfl
      | exact (keeps_setStaged d _ _).trans (.of_pool rfl)
      | exact (keeps_placeChange d _ _).trans (.of_pool rfl)
      | split
  · unfold Device.judgeProtect Device.judgeValue
    dsimp only
    repeat' first
      | exact .of_pool rfl
      | exact (keeps_setStaged d _ _).trans (.of_pool rfl)
      | split
  · have hp : ∀ (e : Device) g u, Keeps e (e.placeStaged g u) := fun e g u => by
      unfold Device.placeStaged; split <;> [exact .refl e; exact keeps_placeChange e _ _]
    unfold Device.judgeRelease
    split
    · exact .of_pool rfl
    · split
      · exact .of_pool rfl
      · exact ((hp d _ _).trans (hp _ _ _)).trans (.of_pool rfl)
  · unfold Device.judgeReadBlocks
    split
    · exact .of_pool rfl
    · split <;> [exact .of_pool rfl; exact keeps_executeRequest d _ _]
  · unfold Device.judgeWriteBlocks
    split
    · exact .of_pool rfl
    · split
      · exact .of_pool rfl
      · split <;> [exact .of_pool rfl; exact keeps_executeRequest d _ _]
  · unfold Device.judgeFlush
    split
    · exact .of_pool rfl
    · split
      · exact .of_pool rfl
      · split
        · exact .of_pool rfl
        · exact (Keeps.trans (b := d.execute _) (.of_pool rfl) (keeps_flushUnit _ _ _)).trans (keeps_flushUnit _ _ _)
  · unfold Device.judgeCardReset Device.startCardReset
    dsimp only
    repeat' first
      | exact .of_pool rfl
      | exact Keeps.trans (b := d.execute .cardReset) (.of_pool rfl) (keeps_beginInit _)
      | split

/-- Every command's own effect keeps eight buffers and `Pool.Held`. -/
theorem keeps_effect (i : Instr) (d : Device) : Keeps d (effect i d) := by
  have J := fun e => keeps_judges e
  cases i with
  | powerOn => exact Keeps.trans (b := d.poweredOn) (fun _ => reset_sound) (keeps_sampleLines _ _)
  | resetLine =>
    have h : ∀ e : Device, Keeps d ({ e.poweredOn with banks := e.banks.resetLine }.sampleLines e.lines) := fun e =>
      Keeps.trans (b := { e.poweredOn with banks := e.banks.resetLine }) (fun _ => reset_sound) (keeps_sampleLines _ _)
    exact h ((d.handStarts .u0).handStarts .u1)
  | selectLineChange l v => exact keeps_followLines d _ (fun _ => rfl)
  | motorLineChange l v => exact keeps_followLines d _ (fun _ => rfl)
  | atSpeed u => simp only [effect, Device.onAtSpeed]; split <;> exact .of_pool rfl
  | revolutionStart u => exact keeps_onRevolution d u
  | indexPulseEnd =>
    simp only [effect, Device.onIndexEnd]
    split <;> [split <;> exact .of_pool rfl; exact .of_pool rfl]
  | stepPulse b => exact keeps_onStep d b
  | sideChange v =>
    simp only [effect, Device.onSide]
    split
    · split
      · exact .of_pool rfl
      · exact Keeps.trans (b := { d with lines := { d.lines with side := v } }) (.of_pool rfl) (keeps_sampleSide _ _)
    · exact .of_pool rfl
  | writeGateAssert => exact (keeps_onGate d).1
  | writeDataByte b w k =>
    simp only [effect, Device.onWriteByte, Device.takeWriteByte]
    refine Keeps.trans ?_ (keeps_advance _ _)
    repeat' first
      | exact .of_pool rfl
      | split
  | writeGateRelease => exact (keeps_onGate d).2
  | readSlot => exact keeps_onReadSlot d
  | cardDetectAssert =>
    simp only [effect, Device.onCardInsert]
    split
    · exact Keeps.trans (b := { d with lines := { d.lines with cardDetect := true } }) (.of_pool rfl) (keeps_beginInit _)
    · exact .of_pool rfl
  | cardInitAnswer n =>
    simp only [effect, Device.onInitAnswer, Device.initFailed, Device.cardReady, Device.endCardReset]
    repeat' first
      | exact .of_pool rfl
      | exact Keeps.trans (.of_pool rfl) (keeps_finishCommand _ _ _)
      | (refine Keeps.trans ?_ (keeps_finishCommand _ _ _); exact .of_pool rfl)
      | split
  | cardInitTimeout =>
    simp only [effect, Device.onInitTimeout, Device.initFailed, Device.endCardReset]
    repeat' first
      | exact .of_pool rfl
      | (refine Keeps.trans ?_ (keeps_finishCommand _ _ _); exact .of_pool rfl)
      | split
  | cardDetectRelease =>
    simp only [effect, Device.onCardRemove]
    split
    · exact .of_pool rfl
    · exact Keeps.trans (b := { d with lines := { d.lines with cardDetect := false } }) (.of_pool rfl) (keeps_removal _)
  | runGrant => exact keeps_onGrant d
  | runEnd a => exact keeps_onRunAnswer d a
  | runTimeout =>
    simp only [effect, Device.onRunTimeout]
    split <;> [exact (keeps_advance d _).trans (keeps_runFails _ _ _); exact .refl d]
  | flushStart u =>
    simp only [effect, Device.onFlushStart]
    split
    · rename_i i h
      refine keeps_startFlush d i (flushEntry_queued (u := u) ?_)
      unfold Device.flushReady at h
      split at h <;> [exact h; cases h]
    · exact .refl d
  | dirtySinceExpiry i =>
    simp only [effect, Device.onDirtyExpiry]
    split <;> [exact (keeps_advance d _).trans (keeps_joinQueue _ _); exact .refl d]
  | pendingChangeApply u =>
    simp only [effect, Device.onApply]
    split
    · split <;> [exact (keeps_applyChange d _ _).trans (keeps_modUnit _ _ _); exact .refl d]
    · exact .refl d
  | resultFrame n =>
    simp only [effect, Device.onResultFrame]
    split <;> [split <;> exact .of_pool rfl; exact .of_pool rfl; exact .of_pool rfl]
  | cursorFrame bs =>
    simp only [effect, Device.onCursorFrame]
    split <;> [split <;> exact .of_pool rfl; exact .of_pool rfl]
  | dataInFrame bs =>
    simp only [effect, Device.onDataIn, Device.moveCursor]
    split <;> [exact .of_pool rfl; split <;> exact .of_pool rfl]
  | dataOutFrame n =>
    simp only [effect, Device.onDataOut, Device.moveCursor]
    split <;> [exact .of_pool rfl; split <;> exact .of_pool rfl]
  | portReset =>
    simp only [effect, Device.onPortReset, Device.abandonCommand]
    refine Keeps.trans (b := d.openFrame) (.of_pool rfl) ?_
    have hw := keeps_withdraw d.openFrame .engine
    split <;> first | exact .of_pool rfl | exact hw.trans (.of_pool rfl)
  | unknownFrameType t n => simp only [effect, Device.onUnknownFrame]; split <;> exact .of_pool rfl
  | invalidCommand c =>
    simp only [effect, Device.onInvalidCommand]
    split <;> [exact .refl d; exact keeps_onCommand d _ (fun _ => .of_pool rfl)]
  | configureUnit u e l m k => exact keeps_onCommand d _ (fun x => (J x).1 u e l m k)
  | setInterruptMask m =>
    refine keeps_onCommand d _ (fun x => ?_)
    unfold Device.judgeMask; split <;> exact .of_pool rfl
  | mount u h p => exact keeps_onCommand d _ (fun x => (J x).2.1 u _ p)
  | eject u => exact keeps_onCommand d _ (fun x => (J x).2.2.1 u)
  | setProtect u v => exact keeps_onCommand d _ (fun x => (J x).2.2.2.1 u v)
  | hold =>
    refine keeps_onCommand d _ (fun x => ?_)
    unfold Device.judgeHold; split <;> exact .of_pool rfl
  | release => exact keeps_onCommand d _ (fun x => (J x).2.2.2.2.1)
  | discard =>
    refine keeps_onCommand d _ (fun x => ?_)
    unfold Device.judgeDiscard; split <;> exact .of_pool rfl
  | readSectors u c h r n =>
    refine keeps_onCommand d _ (fun x => ?_)
    split <;> [exact keeps_judgeSectors x _; exact .of_pool rfl]
  | writeSectors u c h r n m =>
    refine keeps_onCommand d _ (fun x => ?_)
    split <;> [exact keeps_judgeSectors x _; exact .of_pool rfl]
  | verifySectors u c h r n =>
    refine keeps_onCommand d _ (fun x => ?_)
    split <;> [exact keeps_judgeSectors x _; exact .of_pool rfl]
  | readBlocks b n => exact keeps_onCommand d _ (fun x => (J x).2.2.2.2.2.1 _ n)
  | writeBlocks b n => exact keeps_onCommand d _ (fun x => (J x).2.2.2.2.2.2.1 _ n)
  | flush s => exact keeps_onCommand d _ (fun x => (J x).2.2.2.2.2.2.2.1 s)
  | unitStatus u =>
    refine keeps_onCommand d _ (fun x => ?_)
    unfold Device.judgeStatus; split <;> exact .of_pool rfl
  | cardReset => exact keeps_onCommand d _ (fun x => (J x).2.2.2.2.2.2.2.2)
  | readBank b =>
    refine keeps_onCommand d _ (fun x => ?_)
    unfold Device.judgeReadBank; split <;> exact .of_pool rfl
  | clearBank b =>
    refine keeps_onCommand d _ (fun x => ?_)
    unfold Device.judgeClearBank; split <;> exact .of_pool rfl
  | setBankEnable b c e =>
    refine keeps_onCommand d _ (fun x => ?_)
    unfold Device.judgeBankEnable; split <;> [split <;> exact .of_pool rfl; exact .of_pool rfl]
  | resume => exact keeps_onCommand d _ (fun x => .of_pool rfl)
  | commandFrameDropped => exact .of_pool rfl

end Sys2Proof.Machine
end

