-- ==== Sys2Proof/Laws/PerInstr.lean ====
section
/-!
SUPPORT. The statement that is made of every command, one lemma for each: a command that comes as a frame of the
Loader Port opens with a frame type of R180, unless its row says that the type is unknown (R164).
-/

namespace Sys2Proof.Laws

open Sys2Proof

/-- The first byte of a command's frame is one of the frame types of R180, or the unknown type that the command
carries. -/
def FrameType.Statement (i : Instr) : Prop :=
  ∀ bs, encodeFrame i = some bs →
    ∃ t ps, bs = t :: ps ∧ (t ∈ frameTypes ∨ ∃ n, i = .unknownFrameType t n)

theorem FrameType.powerOn : FrameType.Statement .powerOn :=
  fun _ h => nomatch h

theorem FrameType.resetLine : FrameType.Statement .resetLine :=
  fun _ h => nomatch h

theorem FrameType.selectLineChange (line : SelectLine) (asserted : Bool)
    : FrameType.Statement (.selectLineChange line asserted) :=
  fun _ h => nomatch h

theorem FrameType.motorLineChange (line : MotorLine) (asserted : Bool)
    : FrameType.Statement (.motorLineChange line asserted) :=
  fun _ h => nomatch h

theorem FrameType.atSpeed (u : UnitId) : FrameType.Statement (.atSpeed u) :=
  fun _ h => nomatch h

theorem FrameType.revolutionStart (u : UnitId) : FrameType.Statement (.revolutionStart u) :=
  fun _ h => nomatch h

theorem FrameType.indexPulseEnd : FrameType.Statement .indexPulseEnd :=
  fun _ h => nomatch h

theorem FrameType.stepPulse (inward : Bool) : FrameType.Statement (.stepPulse inward) :=
  fun _ h => nomatch h

theorem FrameType.sideChange (asserted : Bool) : FrameType.Statement (.sideChange asserted) :=
  fun _ h => nomatch h

theorem FrameType.writeGateAssert : FrameType.Statement .writeGateAssert :=
  fun _ h => nomatch h

theorem FrameType.writeDataByte (byte : Byte) (wire : WireMode) (brokenClock : Bool)
    : FrameType.Statement (.writeDataByte byte wire brokenClock) :=
  fun _ h => nomatch h

theorem FrameType.writeGateRelease : FrameType.Statement .writeGateRelease :=
  fun _ h => nomatch h

theorem FrameType.readSlot : FrameType.Statement .readSlot :=
  fun _ h => nomatch h

theorem FrameType.cardDetectAssert : FrameType.Statement .cardDetectAssert :=
  fun _ h => nomatch h

theorem FrameType.cardInitAnswer (capacity : BitVec 32)
    : FrameType.Statement (.cardInitAnswer capacity) :=
  fun _ h => nomatch h

theorem FrameType.cardInitTimeout : FrameType.Statement .cardInitTimeout :=
  fun _ h => nomatch h

theorem FrameType.cardDetectRelease : FrameType.Statement .cardDetectRelease :=
  fun _ h => nomatch h

theorem FrameType.runGrant : FrameType.Statement .runGrant :=
  fun _ h => nomatch h

theorem FrameType.runEnd (answer : CardAnswer) : FrameType.Statement (.runEnd answer) :=
  fun _ h => nomatch h

theorem FrameType.runTimeout : FrameType.Statement .runTimeout :=
  fun _ h => nomatch h

theorem FrameType.flushStart (u : UnitId) : FrameType.Statement (.flushStart u) :=
  fun _ h => nomatch h

theorem FrameType.dirtySinceExpiry (buffer : Fin 8)
    : FrameType.Statement (.dirtySinceExpiry buffer) :=
  fun _ h => nomatch h

theorem FrameType.pendingChangeApply (u : UnitId) : FrameType.Statement (.pendingChangeApply u) :=
  fun _ h => nomatch h

theorem FrameType.resultFrame (bytesOut : Nat) : FrameType.Statement (.resultFrame bytesOut) :=
  fun _ h => ⟨_, _, (Option.some.inj h).symm, .inl (by decide)⟩

theorem FrameType.cursorFrame (bytesIn : List Byte) : FrameType.Statement (.cursorFrame bytesIn) :=
  fun _ h => ⟨_, _, (Option.some.inj h).symm, .inl (by decide)⟩

theorem FrameType.dataInFrame (bytesIn : List Byte) : FrameType.Statement (.dataInFrame bytesIn) :=
  fun _ h => ⟨_, _, (Option.some.inj h).symm, .inl (by decide)⟩

theorem FrameType.dataOutFrame (bytesOut : Nat) : FrameType.Statement (.dataOutFrame bytesOut) :=
  fun _ h => ⟨_, _, (Option.some.inj h).symm, .inl (by decide)⟩

theorem FrameType.portReset : FrameType.Statement .portReset :=
  fun _ h => ⟨_, _, (Option.some.inj h).symm, .inl (by decide)⟩

theorem FrameType.unknownFrameType (frameType : Byte) (laterBytes : Nat)
    : FrameType.Statement (.unknownFrameType frameType laterBytes) :=
  fun _ h => ⟨_, _, (Option.some.inj h).symm, .inr ⟨_, rfl⟩⟩

theorem FrameType.invalidCommand (code : Byte) : FrameType.Statement (.invalidCommand code) :=
  fun _ h => ⟨_, _, (Option.some.inj h).symm, .inl (by decide)⟩

theorem FrameType.configureUnit (unit : Byte) (enabled : Byte) (select : Byte) (motor : Byte) (mode : Byte)
    : FrameType.Statement (.configureUnit unit enabled select motor mode) :=
  fun _ h => ⟨_, _, (Option.some.inj h).symm, .inl (by decide)⟩

theorem FrameType.setInterruptMask (mask : Byte) : FrameType.Statement (.setInterruptMask mask) :=
  fun _ h => ⟨_, _, (Option.some.inj h).symm, .inl (by decide)⟩

theorem FrameType.mount (unit : Byte) (header : BitVec 32) (protect : Byte)
    : FrameType.Statement (.mount unit header protect) :=
  fun _ h => ⟨_, _, (Option.some.inj h).symm, .inl (by decide)⟩

theorem FrameType.eject (unit : Byte) : FrameType.Statement (.eject unit) :=
  fun _ h => ⟨_, _, (Option.some.inj h).symm, .inl (by decide)⟩

theorem FrameType.setProtect (unit : Byte) (value : Byte)
    : FrameType.Statement (.setProtect unit value) :=
  fun _ h => ⟨_, _, (Option.some.inj h).symm, .inl (by decide)⟩

theorem FrameType.hold : FrameType.Statement .hold :=
  fun _ h => ⟨_, _, (Option.some.inj h).symm, .inl (by decide)⟩

theorem FrameType.release : FrameType.Statement .release :=
  fun _ h => ⟨_, _, (Option.some.inj h).symm, .inl (by decide)⟩

theorem FrameType.discard : FrameType.Statement .discard :=
  fun _ h => ⟨_, _, (Option.some.inj h).symm, .inl (by decide)⟩

theorem FrameType.readSectors (unit : Byte) (cylinder : Byte) (head : Byte) (first : Byte) (count : Byte)
    : FrameType.Statement (.readSectors unit cylinder head first count) :=
  fun _ h => ⟨_, _, (Option.some.inj h).symm, .inl (by decide)⟩

theorem FrameType.writeSectors (unit : Byte) (cylinder : Byte) (head : Byte) (first : Byte) (count : Byte) (mark : Byte)
    : FrameType.Statement (.writeSectors unit cylinder head first count mark) :=
  fun _ h => ⟨_, _, (Option.some.inj h).symm, .inl (by decide)⟩

theorem FrameType.verifySectors (unit : Byte) (cylinder : Byte) (head : Byte) (first : Byte) (count : Byte)
    : FrameType.Statement (.verifySectors unit cylinder head first count) :=
  fun _ h => ⟨_, _, (Option.some.inj h).symm, .inl (by decide)⟩

theorem FrameType.readBlocks (block : BitVec 32) (count : Byte)
    : FrameType.Statement (.readBlocks block count) :=
  fun _ h => ⟨_, _, (Option.some.inj h).symm, .inl (by decide)⟩

theorem FrameType.writeBlocks (block : BitVec 32) (count : Byte)
    : FrameType.Statement (.writeBlocks block count) :=
  fun _ h => ⟨_, _, (Option.some.inj h).symm, .inl (by decide)⟩

theorem FrameType.flush (selector : Byte) : FrameType.Statement (.flush selector) :=
  fun _ h => ⟨_, _, (Option.some.inj h).symm, .inl (by decide)⟩

theorem FrameType.unitStatus (unit : Byte) : FrameType.Statement (.unitStatus unit) :=
  fun _ h => ⟨_, _, (Option.some.inj h).symm, .inl (by decide)⟩

theorem FrameType.cardReset : FrameType.Statement .cardReset :=
  fun _ h => ⟨_, _, (Option.some.inj h).symm, .inl (by decide)⟩

theorem FrameType.readBank (bank : Byte) : FrameType.Statement (.readBank bank) :=
  fun _ h => ⟨_, _, (Option.some.inj h).symm, .inl (by decide)⟩

theorem FrameType.clearBank (bank : Byte) : FrameType.Statement (.clearBank bank) :=
  fun _ h => ⟨_, _, (Option.some.inj h).symm, .inl (by decide)⟩

theorem FrameType.setBankEnable (bank : Byte) (cause : Byte) (enable : Byte)
    : FrameType.Statement (.setBankEnable bank cause enable) :=
  fun _ h => ⟨_, _, (Option.some.inj h).symm, .inl (by decide)⟩

theorem FrameType.resume : FrameType.Statement .resume :=
  fun _ h => ⟨_, _, (Option.some.inj h).symm, .inl (by decide)⟩

theorem FrameType.commandFrameDropped : FrameType.Statement .commandFrameDropped :=
  fun _ h => ⟨_, _, (Option.some.inj h).symm, .inl (by decide)⟩

end Sys2Proof.Laws
end

