-- ==== Sys2Proof/Laws/Record.lean ====
section
/-!
SUPPORT. What the effects that follow an event leave of a unit with no capture: its Mount Record, and the Mount
Sequencer, while no run of that unit's header or of a MOUNT has ended.
-/

namespace Sys2Proof.Machine

/-- The parts agree on the news, the captures, the images and the Mount Sequencer. -/
structure SameRecord (d e : Device) : Prop where
  news : e.news = d.news
  captures : e.captures = d.captures
  images : e.images = d.images
  seq : e.seq = d.seq

theorem SameRecord.refl (d : Device) : SameRecord d d := ⟨rfl, rfl, rfl, rfl⟩

theorem SameRecord.trans {a b c : Device} (h : SameRecord a b) (k : SameRecord b c) : SameRecord a c :=
  ⟨k.news.trans h.news, k.captures.trans h.captures, k.images.trans h.images, k.seq.trans h.seq⟩

theorem SameRecord.foldl {α : Type} (f : Device → α → Device) (hf : ∀ d a, SameRecord d (f d a)) :
    ∀ (l : List α) (d : Device), SameRecord d (l.foldl f d)
  | [], d => .refl d
  | a :: l, d => (hf d a).trans (SameRecord.foldl f hf l (f d a))

/-- No run of the unit's header or of a command has ended, and no capture is of the unit. -/
structure Calm (u : UnitId) (d : Device) : Prop where
  news : ∀ n ∈ d.news, n.who ≠ .header u ∧ n.who ≠ .engine
  mine : d.captures.get u = none
  others : ∀ c, d.captures.get u.other = some c → c.key.unit = u.other

/-- The unit's record and the Mount Sequencer stay. -/
def Still (u : UnitId) (d e : Device) : Prop :=
  Calm u d → Calm u e ∧ e.images.get u = d.images.get u ∧ e.seq = d.seq

theorem Still.refl (u : UnitId) (d : Device) : Still u d d := fun h => ⟨h, rfl, rfl⟩

theorem Still.trans {u : UnitId} {a b c : Device} (h : Still u a b) (k : Still u b c) : Still u a c := fun x =>
  have y := h x
  have z := k y.1
  ⟨z.1, z.2.1.trans y.2.1, z.2.2.trans y.2.2⟩

theorem SameRecord.still {d e : Device} (h : SameRecord d e) (u : UnitId) : Still u d e := fun x =>
  ⟨⟨by rw [h.news]; exact x.news, by rw [h.captures]; exact x.mine, by rw [h.captures]; exact x.others⟩,
    by rw [h.images], h.seq⟩

theorem other_other (u : UnitId) : u.other.other = u := by cases u <;> rfl

theorem other_ne (u : UnitId) : u.other ≠ u := by cases u <;> decide

theorem eq_or_other (u v : UnitId) : v = u ∨ v = u.other := by cases u <;> cases v <;> decide

theorem still_setImage (u v : UnitId) (d : Device) (m : Option MountRecord) (h : v ≠ u) : Still u d (d.setImage v m) :=
  fun x => ⟨⟨x.news, x.mine, x.others⟩, PerUnit.get_set_ne _ _ (fun e => h e.symm), rfl⟩

theorem still_endCapture (u v : UnitId) (d : Device) : Still u d (d.setCapture v none) := fun x => by
  refine ⟨⟨x.news, ?_, fun c => ?_⟩, rfl, rfl⟩
  · by_cases h : u = v
    · subst h; simp [Device.setCapture]
    · simpa [Device.setCapture, PerUnit.get_set_ne _ _ h] using x.mine
  · by_cases h : u.other = v
    · subst h; simp [Device.setCapture]
    · simpa [Device.setCapture, PerUnit.get_set_ne _ _ h] using x.others c

theorem still_tell (u : UnitId) (d : Device) (w : Requester) (ok : Bool) (bs : List Byte) (h : w ≠ .header u)
    (h' : w ≠ .engine) : Still u d (d.tell w ok bs) := fun x => by
  refine ⟨⟨fun n hn => ?_, x.mine, x.others⟩, rfl, rfl⟩
  rcases List.mem_append.mp hn with hn | hn
  · exact x.news n hn
  · rw [List.mem_singleton] at hn; subst hn; exact ⟨h, h'⟩

theorem still_request (u : UnitId) (d : Device) (r : Request) (h : r.who ≠ .header u) (h' : r.who ≠ .engine) :
    Still u d (d.request r) := by
  unfold Device.request
  split
  · exact fun x => ⟨⟨x.news, x.mine, x.others⟩, rfl, rfl⟩
  · exact still_tell u d _ _ _ h h'

/-! ### Operations that agree -/

theorem same_setBuf (d : Device) (i : Nat) (b : TrackBuffer) : SameRecord d (d.setBuf i b) := ⟨rfl, rfl, rfl, rfl⟩

theorem same_touch (d : Device) (i : Nat) : SameRecord d (d.touch i) := ⟨rfl, rfl, rfl, rfl⟩

theorem same_report (d : Device) (r : Report) : SameRecord d (d.report r) := ⟨rfl, rfl, rfl, rfl⟩

theorem same_modWindow (d : Device) (u : UnitId) (f : ExtentWindow → ExtentWindow) : SameRecord d (d.modWindow u f) :=
  ⟨rfl, rfl, rfl, rfl⟩

theorem same_closeSection (d : Device) (u : UnitId) : SameRecord d (d.closeSection u) := ⟨rfl, rfl, rfl, rfl⟩

theorem same_finishSlot (b d : Device) (u : UnitId) : SameRecord d (Device.finishSlot b d u) := by
  unfold Device.finishSlot; dsimp only; split <;> exact ⟨rfl, rfl, rfl, rfl⟩

theorem same_finish (d : Device) (c : Byte) (k : TermClass) (x : Detail) (bs : List Byte) :
    SameRecord d (d.finish c k x bs) := ⟨rfl, rfl, rfl, rfl⟩

theorem same_finishCommand (d : Device) (k : TermClass) (x : Detail) : SameRecord d (d.finishCommand k x) := by
  unfold Device.finishCommand; split <;> exact ⟨rfl, rfl, rfl, rfl⟩

theorem same_joinQueue (d : Device) (i : Nat) : SameRecord d (d.joinQueue i) := by
  unfold Device.joinQueue; split <;> exact ⟨rfl, rfl, rfl, rfl⟩

theorem same_choose (d : Device) (n : Nat) : SameRecord d (d.choose n).2 := by
  unfold Device.choose; split <;> exact ⟨rfl, rfl, rfl, rfl⟩

theorem same_shuffle (n : Nat) : ∀ (d : Device) (l : List Nat), SameRecord d (d.shuffle n l).2 := by
  induction n with
  | zero => intro d l; exact .refl d
  | succ n ih =>
    intro d l
    cases l with
    | nil => exact .refl d
    | cons y ys => exact (same_choose d _).trans (ih _ _)

theorem same_joinAll (d : Device) (is : List Nat) : SameRecord d (d.joinAll is) :=
  (same_shuffle _ d _).trans (SameRecord.foldl _ same_joinQueue _ _)

theorem same_startFill (d : Device) (i : Nat) (k : TrackKey) : SameRecord d (d.startFill i k) := by
  unfold Device.startFill; split <;> exact ⟨rfl, rfl, rfl, rfl⟩

theorem same_requestFill (d : Device) (k : TrackKey) : SameRecord d (d.requestFill k) := by
  unfold Device.requestFill
  split
  · exact .refl d
  · split
    · split <;> [exact same_startFill d _ _; exact .refl d]
    all_goals exact ⟨rfl, rfl, rfl, rfl⟩

theorem same_withNotice (b : Device) (u : UnitId) (app : Bool) (d : Device) :
    SameRecord d (Device.withNotice b u app d) := by
  have h := ((same_joinAll d (bufferIds.filter (fun i => b.bufCurrent i && !d.bufCurrent i))).trans
    (same_closeSection _ u)).trans (same_finishSlot b _ u)
  unfold Device.withNotice Device.joinLost
  dsimp only
  split
  · exact h
  · split
    · exact h.trans (same_requestFill _ _)
    · exact h

theorem same_storeWrite (d : Device) (i : Nat) (x : TrackBuffer) (b : Bool) : SameRecord d (d.storeWrite i x b) := by
  unfold Device.storeWrite
  dsimp only
  split
  · exact ⟨rfl, rfl, rfl, rfl⟩
  · split
    · split
      · exact (SameRecord.trans (b := ((d.setBuf i x).touch i).setBuf i _) ⟨rfl, rfl, rfl, rfl⟩ (same_joinQueue _ i))
      · exact ⟨rfl, rfl, rfl, rfl⟩
    all_goals exact ⟨rfl, rfl, rfl, rfl⟩

theorem same_loseBlocks (d : Device) (i n : Nat) : SameRecord d (d.loseBlocks i n) := by
  unfold Device.loseBlocks
  dsimp only
  split
  · split
    · split <;> exact ⟨rfl, rfl, rfl, rfl⟩
    · exact .refl d
  · exact .refl d

theorem same_failLookup (d : Device) (u : UnitId) (c : Cause) (b : Option Nat) : SameRecord d (d.failLookup u c b) := by
  unfold Device.failLookup
  split
  · exact .refl d
  · exact ((same_report d _).trans (same_modWindow _ _ _)).trans (same_loseBlocks _ _ _)

theorem same_windowNews (d : Device) (u : UnitId) (ok : Bool) (bs : List Byte) : SameRecord d (d.windowNews u ok bs) := by
  unfold Device.windowNews
  dsimp only
  split
  · exact .refl d
  · split
    · exact same_modWindow d _ _
    · exact (same_modWindow d _ _).trans (same_failLookup _ _ _ _)

theorem same_reportFlagLost (d : Device) (k : TrackKey) (a b : List Sector) : SameRecord d (d.reportFlagLost k a b) := by
  unfold Device.reportFlagLost; split <;> [exact .refl d; split <;> exact ⟨rfl, rfl, rfl, rfl⟩]

theorem same_reportStray (d : Device) (k : TrackKey) (s : Option Sector) : SameRecord d (d.reportStray k s) := by
  unfold Device.reportStray; split <;> exact ⟨rfl, rfl, rfl, rfl⟩

theorem same_reportSectorWrite (d : Device) (k : TrackKey) (r : Option Nat) (f : CapField) (e : Encoding) (n : Nat) :
    SameRecord d (d.reportSectorWrite k r f e n) := by
  unfold Device.reportSectorWrite
  split <;> [exact ⟨rfl, rfl, rfl, rfl⟩; split <;> exact ⟨rfl, rfl, rfl, rfl⟩]

theorem same_applySectorWrite (d : Device) (i : Nat) (k : TrackKey) (l : Layout) (c : Capture) (p : Nat)
    (f : CapField) : SameRecord d (d.applySectorWrite i k l c p f) := by
  unfold Device.applySectorWrite
  dsimp only
  split
  · exact ((same_storeWrite _ _ _ _).trans (same_reportSectorWrite _ _ _ _ _ _)).trans (same_reportFlagLost _ _ _ _)
  · exact (((same_storeWrite _ _ _ _).trans (same_reportSectorWrite _ _ _ _ _ _)).trans
      (same_reportStray _ _ _)).trans (same_reportFlagLost _ _ _ _)

theorem same_applyStray (d : Device) (i : Nat) (k : TrackKey) (l : Layout) (c : Capture) :
    SameRecord d (d.applyStray i k l c) := by
  unfold Device.applyStray
  split
  · exact .refl d
  · exact ((same_storeWrite _ _ _ _).trans (same_reportStray _ _ _)).trans (same_reportFlagLost _ _ _ _)

theorem same_applySectors (d : Device) (i : Nat) (c : SectorCmd) : SameRecord d (d.applySectors i c) := by
  unfold Device.applySectors
  dsimp only
  split
  · exact ⟨rfl, rfl, rfl, rfl⟩
  · split
    · exact ⟨rfl, rfl, rfl, rfl⟩
    · split
      · exact ⟨rfl, rfl, rfl, rfl⟩
      · unfold Device.verifySectorsWith; dsimp only; split <;> exact ⟨rfl, rfl, rfl, rfl⟩
      · unfold Device.writeSectorsFrom
        dsimp only
        have h := fun x => same_storeWrite d i x true
        split <;> exact (h _).trans ⟨rfl, rfl, rfl, rfl⟩

theorem same_applyWaiting (d : Device) (i : Nat) (k : TrackKey) : SameRecord d (d.applyWaiting i k) := by
  unfold Device.applyWaiting
  split
  · split <;> [exact same_applySectors d _ _; exact .refl d]
  · exact .refl d

theorem same_displaceSectors (d : Device) (x : Detail) (p : TrackKey → Bool) : SameRecord d (d.displaceSectors x p) := by
  unfold Device.displaceSectors
  split
  · split <;> [exact same_finishCommand d _ _; exact .refl d]
  · exact .refl d

theorem same_endFlush (d : Device) (i : Nat) : SameRecord d (d.endFlush i) := by
  unfold Device.endFlush
  dsimp only
  split
  · split
    · generalize TrackBuffer.afterFlush _ _ _ = b
      have h1 := same_setBuf d i b
      have h2 := h1.trans (same_joinQueue _ i)
      split <;> split <;>
        first
        | exact h2.trans (same_finishCommand _ _ _)
        | exact h1.trans (same_finishCommand _ _ _)
        | exact h2
        | exact h1
    · exact .refl d
  · exact .refl d

/-! ### Decodes: a capture acts on the unit of its key -/

theorem still_changeFormat (u : UnitId) (d : Device) (i : Nat) (k : TrackKey) (m : MountRecord) (f : TrackFormat)
    (ws : List WrittenSector) (h : k.unit ≠ u) : Still u d (d.changeFormat i k m f ws) := by
  have hr : ∀ (x : Cause), Still u d (d.refuseFormat k x) := fun x => (same_report d _).still u
  unfold Device.changeFormat
  split
  · split
    · split
      · rename_i m1 _
        unfold Device.applyFormatChange
        dsimp only
        have hi := still_setImage u k.unit d (some m1) h
        split
        · rename_i l _
          generalize storeWritten ws l.dataLen _ _ = y
          refine (hi.trans ((same_storeWrite _ i y true).still u)).trans ?_
          split
          · exact (((same_closeSection _ _).trans (same_finishSlot _ _ _)).trans (same_reportFlagLost _ _ _ _)).still u
          · exact (same_reportFlagLost _ _ _ _).still u
        · exact hi
      · exact hr _
      · exact hr _
    · exact hr _
  · exact hr _

theorem still_judgeFormat (u : UnitId) (d : Device) (i : Option Nat) (k : TrackKey) (m : MountRecord) (c : Capture)
    (ws : List WrittenSector) (h : k.unit ≠ u) : Still u d (d.judgeFormat i k m c ws) := by
  have hr : ∀ (e : Device) (x : Cause), Still u e (e.refuseFormat k x) := fun e x => (same_report e _).still u
  have hn : ∀ ws, Still u d (d.noteMismatch k ws) := fun ws => by
    unfold Device.noteMismatch; split <;> [exact (same_report d _).still u; exact .refl u d]
  unfold Device.judgeFormat
  split
  · exact hr d _
  · split
    · exact hr d _
    · rename_i w rest _
      dsimp only
      refine (hn (w :: rest)).trans ?_
      split
      · exact hr _ _
      · split
        · exact hr _ _
        · split
          · split
            · unfold Device.applyFormatData
              exact ((same_storeWrite _ _ _ _).trans (same_reportFlagLost _ _ _ _)).still u
            · exact still_changeFormat u _ _ _ _ _ _ h
          · exact .refl u _

theorem still_decode (u : UnitId) (d : Device) (i : Option Nat) (c : Capture) (h : c.key.unit ≠ u) :
    Still u d (d.decode i c) := by
  have hf : ∀ i, Still u d (d.applyFormat i c.key c) := fun i => by
    unfold Device.applyFormat
    split
    · exact .refl u d
    · split
      · exact (same_report d _).still u
      · exact still_judgeFormat u d _ _ _ _ _ h
  unfold Device.decode
  split
  · split
    · exact (same_applySectorWrite d _ _ _ _ _ _).still u
    · split
      · exact hf _
      · exact (same_applyStray d _ _ _ _).still u
  · split
    · exact hf _
    · exact .refl u d

theorem still_captureEnd (u : UnitId) (d : Device) (v : UnitId) : Still u d (d.captureEnd v) := fun x => by
  unfold Device.captureEnd
  split
  · exact Still.refl u d x
  · rename_i c hc
    have hv : v = u.other := by
      rcases eq_or_other u v with rfl | h
      · rw [x.mine] at hc; cases hc
      · exact h
    have hk : c.key.unit ≠ u := by
      subst hv; rw [x.others c hc]; exact other_ne u
    split
    · exact Still.refl u d x
    · split
      · exact still_endCapture u v d x
      · dsimp only
        have ho : SameRecord d (d.reportOverlong c) := by
          unfold Device.reportOverlong; split <;> exact ⟨rfl, rfl, rfl, rfl⟩
        split
        · exact ((ho.still u).trans ((still_decode u _ _ c hk).trans (still_endCapture u v _))) x
        · split
          · exact ((ho.still u).trans ((still_decode u _ _ c hk).trans (still_endCapture u v _))) x
          · refine ((ho.still u).trans (Still.trans (b := (d.reportOverlong c).setCapture v
              (some { c with state := .pending })) ?_ ((same_requestFill _ _).still u))) x
            intro y
            refine ⟨⟨y.news, ?_, fun c' hc' => ?_⟩, rfl, rfl⟩
            · have : u ≠ v := by rw [hv]; exact (other_ne u).symm
              simpa [Device.setCapture, PerUnit.get_set_ne _ _ this] using y.mine
            · subst hv
              simp only [Device.setCapture, PerUnit.get_set_self, Option.some.injEq] at hc'
              subst hc'
              exact x.others c hc

theorem still_decodePending (u : UnitId) (d : Device) (i : Nat) (v : UnitId) : Still u d (d.decodePending i v) :=
  fun x => by
  unfold Device.decodePending
  split
  · rename_i c hc
    have hk : c.key.unit ≠ u := by
      rcases eq_or_other u v with rfl | rfl
      · rw [x.mine] at hc; cases hc
      · rw [x.others c hc]; exact other_ne u
    split
    · exact (((still_decode u d _ c hk).trans (still_endCapture u v _)).trans ((same_joinAll _ _).still u)) x
    · exact Still.refl u d x
  · exact Still.refl u d x

theorem still_enterOffline (u : UnitId) (d : Device) : Still u d d.enterOffline := by
  unfold Device.enterOffline
  refine Still.trans (b := { d with banks := { d.banks with entryOwed := false } })
    (fun x => ⟨⟨x.news, x.mine, x.others⟩, rfl, rfl⟩) ?_
  exact ((still_captureEnd u _ _).trans (still_captureEnd u _ _)).trans
    (((same_closeSection _ _).trans (same_closeSection _ _)).trans (same_displaceSectors _ _ _) |>.still u)

/-! ### What follows -/

theorem still_useFilled (u : UnitId) (d : Device) (i : Nat) (k : TrackKey) : Still u d (d.useFilled i k) := by
  unfold Device.useFilled
  split
  · dsimp only
    split
    · exact (((same_choose d 2).still u).trans (still_decodePending u _ _ _)).trans
        ((same_applyWaiting _ _ _).still u)
    · exact (((same_choose d 2).trans (same_applyWaiting _ _ _)).still u).trans (still_decodePending u _ _ _)
  · exact (still_decodePending u d _ _).trans ((same_applyWaiting _ _ _).still u)

theorem still_workOn (u : UnitId) (d : Device) (i : Nat) : Still u d (d.workOn i) := by
  unfold Device.workOn
  split
  · split
    · unfold Device.askLookup Device.setWork
      exact ((same_setBuf d i _).trans (same_modWindow _ _ _)).still u
    · split
      · unfold Device.completeFill
        dsimp only
        split
        · exact .refl u d
        · have h := fun b => ((same_setBuf d i b).trans (same_touch _ i)).still u
          split
          · exact ((h _).trans (still_useFilled u _ _ _)).trans ((same_requestFill _ _).still u)
          · exact (h _).trans (still_useFilled u _ _ _)
      · exact (same_endFlush d i).still u
  · exact .refl u d

theorem still_requestRun (u : UnitId) (d : Device) (i : Nat) (k : TrackKey) (x : RunKind) (a n : Nat) :
    Still u d (d.requestRun i k x a n) := still_request u d _ nofun nofun

theorem still_lookupAnswered (u : UnitId) (d : Device) (i a n : Nat) : Still u d (d.lookupAnswered i a n) := by
  unfold Device.lookupAnswered
  split
  · split
    · split <;> exact ((same_setBuf d i _).still u).trans (still_requestRun u _ _ _ _ _ _)
    · exact .refl u d
  · exact .refl u d

theorem still_serveLookup (u : UnitId) (d e : Device) (v : UnitId) (h : d.serveLookup v = some e) : Still u d e := by
  unfold Device.serveLookup at h
  dsimp only at h
  split at h
  · cases h
  · split at h
    · cases h
    · split at h
      · split at h
        · cases h; exact ((same_modWindow d _ _).still u).trans (still_lookupAnswered u _ _ _ _)
        · cases h
      · split at h <;> cases h
        · exact ((same_modWindow d _ _).trans (same_failLookup _ _ _ _)).still u
        · exact ((same_modWindow d _ _).still u).trans (still_request u _ _ nofun nofun)
      · cases h; exact ((same_modWindow d _ _).trans (same_failLookup _ _ _ _)).still u
      · cases h

theorem still_deliver (u : UnitId) (d : Device) (n : RunNews) (h : n.who ≠ .header u) (h' : n.who ≠ .engine) :
    Still u d (d.deliver n) := by
  unfold Device.deliver
  split
  · exact (same_windowNews d _ _ _).still u
  · split
    · unfold Device.runSucceeded
      dsimp only
      split
      · split
        · split
          · exact (same_setBuf d _ _).still u
          · exact ((same_setBuf d _ _).still u).trans (still_requestRun u _ _ _ _ _ _)
        · exact (same_setBuf d _ _).still u
        · exact .refl u d
      · exact .refl u d
    · unfold Device.runFailed
      split
      · split <;> first | exact (same_loseBlocks d _ _).still u | exact .refl u d
      · exact .refl u d
  · rename_i v hv
    have hne : v ≠ u := fun e => h (by rw [hv, e])
    have hr : ∀ e : Device, Still u e (e.requestHeader v) := fun e => by
      unfold Device.requestHeader
      split
      · split
        · exact still_request u e _ (fun e' => hne (by cases e'; rfl)) nofun
        · exact .refl u e
      · exact .refl u e
    unfold Device.headerNews
    split
    · exact .refl u d
    · rename_i m _
      have hi := still_setImage u v d (some m.headerEnded) hne
      dsimp only
      split
      · exact hi.trans (hr _)
      · refine (hi.trans ?_).trans (hr _)
        split
        · exact ((same_report _ _).trans (same_finishCommand _ _ _)).still u
        · exact (same_report _ _).still u
  · rename_i e; exact absurd e h'

theorem still_micro (u : UnitId) (d e : Device) (h : d.micro = some e) : Still u d e := fun x => by
  unfold Device.micro at h
  split at h
  · cases h; exact still_enterOffline u d x
  · split at h
    · rename_i n rest hn
      cases h
      have hm := x.news n (by rw [hn]; exact List.mem_cons_self)
      have hd : Still u d { d with news := rest } := fun y =>
        ⟨⟨fun k hk => y.news k (by rw [hn]; exact List.mem_cons_of_mem _ hk), y.mine, y.others⟩, rfl, rfl⟩
      exact (hd.trans (still_deliver u _ n hm.1 hm.2)) x
    · split at h
      · cases h; exact still_workOn u d _ x
      · rcases orElse_cases h with h | h
        · exact still_serveLookup u d e _ h x
        · rcases orElse_cases h with h | h
          · exact still_serveLookup u d e _ h x
          · rcases orElse_cases h with h | h
            · unfold Device.dropStaleWaits at h
              split at h <;> cases h
              exact ⟨⟨x.news, x.mine, x.others⟩, rfl, rfl⟩
            · rcases orElse_cases h with h | h
              · unfold Device.serveWait at h
                split at h
                · cases h
                · split at h
                  · cases h
                    refine (same_startFill _ _ _).still u ?_ |> fun h => ⟨h.1, h.2.1, h.2.2⟩
                    exact ⟨x.news, x.mine, x.others⟩
                  · unfold Device.markEviction at h
                    split at h
                    · cases h
                    · rw [Option.map_eq_some_iff] at h
                      obtain ⟨i, _, rfl⟩ := h
                      exact ((same_setBuf d i _).trans (same_joinQueue _ _)).still u x
              · unfold Device.flushDone at h
                split at h
                · split at h <;> cases h
                  exact ⟨⟨x.news, x.mine, x.others⟩, rfl, rfl⟩
                · cases h

/-- What follows an event keeps the record of a calm unit and the Mount Sequencer. -/
theorem still_settled (u : UnitId) (d : Device) : Still u d d.settled := by
  unfold Device.settled
  generalize Config.settleFuel = n
  induction n generalizing d with
  | zero => exact .refl u d
  | succ n ih =>
    unfold settle
    split
    · rename_i e h; exact (still_micro u d e h).trans (ih e)
    · exact .refl u d

end Sys2Proof.Machine
end

