-- ==== Sys2Proof/Laws/Specs.lean ====
section
/-!
SUPPORT. What single operations do, said once: the sector write test and the spans of a layout (R121, R122), the first
sector that a region meets (R123, R124), FLAG_LOST (R131), the parse and the judging of a format write on a track
without a format (R125, R126, R129), the bits of a flag byte (R180), the blocks of a sector (R51), the buffers that
join the write-back queue (R88), and the application of a sector command (R86, R173, R174).
-/

namespace Sys2Proof.Machine

/-! ### Slots and spans (R11, R12, R121) -/

/-- R16: the start of position k. -/
theorem Layout.start_eq (l : Layout) (k : Nat) :
    l.start k = preamble l.enc + k * (overhead l.enc + 128 * 2 ^ l.sizeCode + l.gap3) := rfl

/-- R101, R121: the spans of position k in MFM. -/
theorem Layout.spans_mfm (l : Layout) (k : Nat) (h : l.enc = .mfm) :
    l.idSpan k = (l.start k, l.start k + 21)
    ∧ l.dataSpan k = (l.start k + 44, l.start k + 61 + 128 * 2 ^ l.sizeCode) := by
  simp only [Layout.idSpan, Layout.dataSpan, h, idEndOffset, dataSyncOffset, gap2Len, firstDataOffset,
    Layout.dataLen, sizeLen, Prod.mk.injEq, true_and]
  omega

/-- R101, R121: the spans of position k in FM. -/
theorem Layout.spans_fm (l : Layout) (k : Nat) (h : l.enc = .fm) :
    l.idSpan k = (l.start k, l.start k + 12)
    ∧ l.dataSpan k = (l.start k + 24, l.start k + 32 + 128 * 2 ^ l.sizeCode) := by
  simp only [Layout.idSpan, Layout.dataSpan, h, idEndOffset, dataSyncOffset, gap2Len, firstDataOffset,
    Layout.dataLen, sizeLen, Prod.mk.injEq, true_and]
  omega

/-! ### The sector write test (R122) -/

/-- A start slot lies in the gap-2 window of position k (R122 b). -/
def Layout.inWindow (l : Layout) (k first : Nat) : Prop :=
  l.start k + idEndOffset l.enc ≤ first ∧ first ≤ l.start k + idEndOffset l.enc + gap2Len l.enc

/-- R122: the windows of two positions do not overlap. -/
theorem Layout.window_unique {l : Layout} {i k first : Nat} (hi : l.inWindow i first) (hk : l.inWindow k first) :
    i = k := by
  have apart : ∀ a b, a < b → l.start a + (overhead l.enc + 128) ≤ l.start b := fun a b hab => by
    have hp : 1 ≤ 2 ^ l.sizeCode := Nat.one_le_two_pow
    have h := Nat.mul_le_mul_right (overhead l.enc + 128 * 2 ^ l.sizeCode + l.gap3) (Nat.succ_le_of_lt hab)
    rw [Nat.succ_mul] at h
    simp only [Layout.start_eq]
    omega
  have room : gap2Len l.enc < overhead l.enc + 128 := by cases l.enc <;> decide
  unfold Layout.inWindow at hi hk
  rcases Nat.lt_trichotomy i k with h | h | h
  · have := apart i k h; omega
  · exact h
  · have := apart k i h; omega

/-- R122: the position that a capture writes as a sector write. -/
theorem sectorWriteAt_eq_some_iff (l : Layout) (c : Capture) (k : Nat) :
    sectorWriteAt l c = some k ↔
      k < l.sectors ∧ c.basis = l.basis ∧ l.inWindow k c.startSlot
      ∧ ∃ f rest, c.fields = f :: rest ∧ (f.kind = .data ∨ f.kind = .deleted) ∧ f.markSlot ≤ c.startSlot + 40 := by
  have kinds : ∀ m : MarkKind, m.isData = true ↔ m = .data ∨ m = .deleted := fun m => by cases m <;> decide
  unfold sectorWriteAt
  cases hf : c.fields with
  | nil => simp
  | cons f rest =>
    simp only [List.cons.injEq, Bool.and_eq_true, beq_iff_eq, decide_eq_true_eq, kinds]
    by_cases hg : (c.basis = l.basis ∧ (f.kind = .data ∨ f.kind = .deleted)) ∧ f.markSlot ≤ c.startSlot + 40
    · rw [if_pos hg]
      constructor
      · intro h
        have hm := List.mem_range.mp (List.mem_of_find?_eq_some h)
        have hp := List.find?_some h
        simp only [Bool.and_eq_true, decide_eq_true_eq] at hp
        exact ⟨hm, hg.1.1, hp, f, rest, ⟨rfl, rfl⟩, hg.1.2, hg.2⟩
      · rintro ⟨hk, -, hw, -⟩
        cases hs : (List.range l.sectors).find? (fun k =>
            decide (l.start k + idEndOffset l.enc ≤ c.startSlot)
              && decide (c.startSlot ≤ l.start k + idEndOffset l.enc + gap2Len l.enc)) with
        | none =>
          have := List.find?_eq_none.mp hs k (List.mem_range.mpr hk)
          simp only [Bool.and_eq_true, decide_eq_true_eq] at this
          exact absurd hw this
        | some i =>
          have hp := List.find?_some hs
          simp only [Bool.and_eq_true, decide_eq_true_eq] at hp
          rw [Layout.window_unique hp hw]
    · rw [if_neg hg]
      constructor
      · nofun
      · rintro ⟨-, hb, -, g, r, ⟨rfl, rfl⟩, hd, hs⟩
        exact absurd ⟨⟨hb, hd⟩, hs⟩ hg

/-! ### The first sector that a region meets (R123, R124) -/

/-- A phase of a stretch: `i` µs after its start. -/
def PhaseSpan.at (s : PhaseSpan) (i : Nat) : Nat := (s.start + i) % 200000

/-- The phase `i` µs into a region lies in a stretch. -/
def PhaseSpan.reaches (region s : PhaseSpan) (i : Nat) : Prop := ∃ j < s.len, region.at i = s.at j

/-- The overlap of a region with a stretch begins where the region first reaches it. -/
theorem PhaseSpan.overlaps_iff_reaches (region s : PhaseSpan) (hr : 0 < region.len) (hs : 0 < s.len) :
    region.overlaps s = true ↔ ∃ i < region.len, region.reaches s i := by
  unfold PhaseSpan.overlaps PhaseSpan.reaches PhaseSpan.at phaseFrom Config.revolution
  simp only [Bool.or_eq_true, decide_eq_true_eq]
  constructor
  · rintro (h | h)
    · exact ⟨_, h, 0, hs, by omega⟩
    · exact ⟨0, hr, _, h, by omega⟩
  · rintro ⟨i, hi, j, hj, h⟩
    omega

/-- No phase of the region before its `reach` lies in the stretch, and that phase does when they overlap. -/
theorem PhaseSpan.reach_spec (region s : PhaseSpan) (hr : 0 < region.len) (hs : 0 < s.len)
    (h : region.overlaps s = true) :
    region.reach s < region.len ∧ region.reaches s (region.reach s)
    ∧ ∀ i, region.reaches s i → region.reach s ≤ i := by
  unfold PhaseSpan.overlaps at h
  simp only [Bool.or_eq_true, decide_eq_true_eq] at h
  unfold PhaseSpan.reach PhaseSpan.reaches PhaseSpan.at
  unfold phaseFrom Config.revolution at *
  split
  · rename_i g
    exact ⟨hr, ⟨_, g, by omega⟩, fun i _ => Nat.zero_le i⟩
  · rename_i g
    refine ⟨by omega, ⟨0, hs, by omega⟩, ?_⟩
    rintro i ⟨j, hj, e⟩
    omega

/-- The sector that stands first among those of the least measure. -/
theorem leastBy_eq_some (f : Sector → Nat) (t : Sector) (b : List Sector) (hb : ∀ y ∈ b, f t ≤ f y) :
    ∀ a : List Sector, (∀ y ∈ a, f t < f y) → leastBy f (a ++ t :: b) = some t
  | [], _ => by
    rw [List.nil_append, leastBy]
    cases hl : leastBy f b with
    | none => rfl
    | some y =>
      have mem : ∀ (l : List Sector) y, leastBy f l = some y → y ∈ l := fun l => by
        induction l with
        | nil => nofun
        | cons x xs ih =>
          intro y h
          rw [leastBy] at h
          split at h
          · cases h; exact List.mem_cons_self
          · split at h <;> cases h
            · exact List.mem_cons_of_mem _ (ih _ ‹_›)
            · exact List.mem_cons_self
      simp only [if_neg (Nat.not_lt.mpr (hb y (mem b y hl)))]
  | x :: a, ha => by
    rw [List.cons_append, leastBy, leastBy_eq_some f t b hb a (fun y hy => ha y (List.mem_cons_of_mem _ hy))]
    simp only [if_pos (ha x List.mem_cons_self)]

/-- The phase `i` µs into a region lies in the ID or the data span of a position (R121). -/
def Layout.metAt (l : Layout) (region : PhaseSpan) (k i : Nat) : Prop :=
  region.reaches (l.phases (l.idSpan k)) i ∨ region.reaches (l.phases (l.dataSpan k)) i

/-- The spans of a position hold a phase at least (R121). -/
theorem Layout.spans_pos (l : Layout) (k : Nat) (hr : 0 < l.rate) (hm : l.rate ≤ 8000000) :
    0 < (l.phases (l.idSpan k)).len ∧ 0 < (l.phases (l.dataSpan k)).len := by
  have hs : 0 < slotLen l.rate := Nat.div_pos hm hr
  constructor <;> refine Nat.mul_pos ?_ hs <;> cases h : l.enc
  · rw [(l.spans_fm k h).1]; omega
  · rw [(l.spans_mfm k h).1]; omega
  · rw [(l.spans_fm k h).2]; simp only; omega
  · rw [(l.spans_mfm k h).2]; simp only; omega

/-- R121: a position is marked just when a phase of the region lies in one of its spans. -/
theorem Layout.marked_iff (l : Layout) (region : PhaseSpan) (k : Nat) (h : 0 < region.len) (hr : 0 < l.rate)
    (hm : l.rate ≤ 8000000) :
    (l.hitsId region k || l.hitsData region k) = true ↔ ∃ i < region.len, l.metAt region k i := by
  have hs := l.spans_pos k hr hm
  rw [Bool.or_eq_true, Layout.hitsId, Layout.hitsData, PhaseSpan.overlaps_iff_reaches _ _ h hs.1,
    PhaseSpan.overlaps_iff_reaches _ _ h hs.2]
  unfold Layout.metAt
  exact ⟨fun g => g.elim (fun ⟨i, hi, x⟩ => ⟨i, hi, .inl x⟩) (fun ⟨i, hi, x⟩ => ⟨i, hi, .inr x⟩),
    fun ⟨i, hi, g⟩ => g.elim (fun x => .inl ⟨i, hi, x⟩) (fun x => .inr ⟨i, hi, x⟩)⟩

/-- How far into the region the position is met first. -/
theorem Layout.hitAt_spec (l : Layout) (region : PhaseSpan) (k : Nat) (h : 0 < region.len) (hr : 0 < l.rate)
    (hm : l.rate ≤ 8000000) (g : (l.hitsId region k || l.hitsData region k) = true) :
    l.metAt region k (l.hitAt region k)
    ∧ ∀ i < region.len, l.metAt region k i → l.hitAt region k ≤ i := by
  have hs := l.spans_pos k hr hm
  have id := PhaseSpan.reach_spec region (l.phases (l.idSpan k)) h hs.1
  have dat := PhaseSpan.reach_spec region (l.phases (l.dataSpan k)) h hs.2
  have noId : l.hitsId region k = false → ∀ i < region.len, ¬ region.reaches (l.phases (l.idSpan k)) i :=
    fun n i hi x => by
      have := (PhaseSpan.overlaps_iff_reaches _ _ h hs.1).mpr ⟨i, hi, x⟩
      rw [Layout.hitsId, this] at n; cases n
  have noData : l.hitsData region k = false → ∀ i < region.len, ¬ region.reaches (l.phases (l.dataSpan k)) i :=
    fun n i hi x => by
      have := (PhaseSpan.overlaps_iff_reaches _ _ h hs.2).mpr ⟨i, hi, x⟩
      rw [Layout.hitsData, this] at n; cases n
  unfold Layout.hitAt Layout.metAt
  cases hi : l.hitsId region k <;> cases hd : l.hitsData region k
  · rw [hi, hd] at g; cases g
  · have d := dat hd
    simp only [Bool.false_eq_true, if_false]
    exact ⟨.inr d.2.1, fun i hl x => x.elim (fun y => absurd y (noId hi i hl)) (d.2.2 i)⟩
  · have a := id hi
    simp only [Bool.false_eq_true, if_false, if_true]
    exact ⟨.inl a.2.1, fun i hl x => x.elim (a.2.2 i) (fun y => absurd y (noData hd i hl))⟩
  · have a := id hi
    have d := dat hd
    simp only [if_true]
    refine ⟨?_, fun i _ x => x.elim (fun y => Nat.le_trans (Nat.min_le_left _ _) (a.2.2 i y))
      (fun y => Nat.le_trans (Nat.min_le_right _ _) (d.2.2 i y))⟩
    rcases Nat.le_total (region.reach (l.phases (l.idSpan k))) (region.reach (l.phases (l.dataSpan k))) with o | o
    · rw [Nat.min_eq_left o]; exact .inl a.2.1
    · rw [Nat.min_eq_right o]; exact .inr d.2.1

/-- R123, R124: the first marked sector in capture order: the one that the region meets first, and no sector when it
meets none. -/
theorem firstMarked_spec (l : Layout) (region : PhaseSpan) (ss : List Sector) (h : 0 < region.len) (hr : 0 < l.rate)
    (hm : l.rate ≤ 8000000) :
    ((∀ t ∈ ss, ∀ i < region.len, ¬ l.metAt region t.position i) → firstMarked l region ss = none)
    ∧ ∀ a t b i, ss = a ++ t :: b → i < region.len → l.metAt region t.position i →
      (∀ y ∈ ss, ∀ j < i, ¬ l.metAt region y.position j) → (∀ y ∈ a, ¬ l.metAt region y.position i) →
      firstMarked l region ss = some t := by
  constructor
  · intro none
    have : markedBy l region ss = [] := List.filter_eq_nil_iff.mpr (fun t ht g => by
      obtain ⟨i, hi, x⟩ := (l.marked_iff region t.position h hr hm).mp g
      exact none t ht i hi x)
    rw [firstMarked, this, leastBy]
  · rintro a t b i rfl hi met before none
    have marked := (l.marked_iff region t.position h hr hm).mpr ⟨i, hi, met⟩
    have at' : ∀ y ∈ a ++ t :: b, (l.hitsId region y.position || l.hitsData region y.position) = true →
        l.metAt region y.position (l.hitAt region y.position) ∧ i ≤ l.hitAt region y.position := fun y hy g => by
      have s := l.hitAt_spec region y.position h hr hm g
      exact ⟨s.1, Nat.le_of_not_lt (fun lt => before y hy _ lt s.1)⟩
    have least : l.hitAt region t.position ≤ i := (l.hitAt_spec region t.position h hr hm marked).2 i hi met
    have split : markedBy l region (a ++ t :: b) = markedBy l region a ++ t :: markedBy l region b := by
      simp only [markedBy, List.filter_append, List.filter_cons, marked, if_true]
    rw [firstMarked, split]
    refine leastBy_eq_some _ t _ ?_ _ ?_
    · intro y hy
      have y' := List.mem_filter.mp hy
      exact Nat.le_trans least (at' y (List.mem_append_right _ (List.mem_cons_of_mem _ y'.1)) y'.2).2
    · intro y hy
      have y' := List.mem_filter.mp hy
      have s := at' y (List.mem_append_left _ y'.1) y'.2
      refine Nat.lt_of_le_of_lt least (Nat.lt_of_le_of_ne s.2 (fun e => none y y'.1 ?_))
      rw [e]; exact s.1

/-! ### FLAG_LOST (R131) and the bits of a flag byte (R49, R180) -/

/-- R180: the bits of the flag byte of a flag map. -/
theorem SectorFlags.stored_toNat (f : SectorFlags) :
    f.stored.toNat = (if f.deleted then 1 else 0) + (if f.dataCrcBad then 2 else 0) + (if f.idCrcBad then 4 else 0)
      + (if f.noData then 8 else 0) := by
  obtain ⟨a, b, c, d, e⟩ := f
  revert a b c d e
  decide

/-- R180: the bits of the flag byte of a result. -/
theorem SectorFlags.reported_toNat (f : SectorFlags) :
    f.reported.toNat = (if f.deleted then 1 else 0) + (if f.dataCrcBad then 2 else 0) + (if f.idCrcBad then 4 else 0)
      + (if f.noData then 8 else 0) + (if f.unreadable then 16 else 0) := by
  obtain ⟨a, b, c, d, e⟩ := f
  revert a b c d e
  decide

/-- Two flag bytes agree when the four stored flags do. -/
theorem SectorFlags.storedDiffer_eq_false (a b : SectorFlags) :
    a.storedDiffer b = false ↔ a.deleted = b.deleted ∧ a.dataCrcBad = b.dataCrcBad ∧ a.idCrcBad = b.idCrcBad
      ∧ a.noData = b.noData := by
  obtain ⟨a1, a2, a3, a4, a5⟩ := a
  obtain ⟨b1, b2, b3, b4, b5⟩ := b
  revert a1 a2 a3 a4 a5 b1 b2 b3 b4 b5
  decide

/-- R131: FLAG_LOST is reported on an image without a flag map, of the first sector of the table with a changed
stored flag. -/
theorem reportFlagLost_spec (d : Device) (k : TrackKey) (old new : List Sector) :
    (d.hasFlagMap k.unit = true ∨ (∀ t ∈ new, (oldFlags old t).storedDiffer t.flags = false) →
      d.reportFlagLost k old new = d)
    ∧ ∀ a t b, d.hasFlagMap k.unit = false → new = a ++ t :: b →
      (∀ y ∈ a, (oldFlags old y).storedDiffer y.flags = false) → (oldFlags old t).storedDiffer t.flags = true →
      d.reportFlagLost k old new = d.reportTrack .corrected .flagLost k (some t.number) := by
  constructor
  · rintro (h | h) <;> unfold Device.reportFlagLost
    · rw [if_pos h]
    · split
      · rfl
      · rw [List.find?_eq_none.mpr (fun t ht => by rw [h t ht]; decide)]
  · rintro a t b hm rfl ha ht
    unfold Device.reportFlagLost
    rw [hm, if_neg Bool.false_ne_true, List.find?_append, List.find?_eq_none.mpr (fun y hy => by rw [ha y hy]; decide)]
    simp only [List.find?_cons_of_pos (p := fun s => (oldFlags old s).storedDiffer s.flags) ht, Option.none_or]

/-! ### Format writes (R125, R126, R129) -/

/-- R125: fields that hold an ID field parse to one written sector at least, or to a refusal. -/
theorem parseFormatWrite_ne_nil (e : Encoding) : ∀ fs : List CapField, (∃ f ∈ fs, f.kind = .ident) →
    parseFormatWrite e fs ≠ .ok []
  | [], h => by obtain ⟨f, hf, -⟩ := h; cases hf
  | f :: rest, h => by
    rw [parseFormatWrite.eq_def]
    simp only
    split
    · rename_i hk
      refine parseFormatWrite_ne_nil e rest ?_
      obtain ⟨g, hg, k⟩ := h
      rcases List.mem_cons.mp hg with rfl | hg
      · rw [k] at hk; exact absurd hk (by decide)
      · exact ⟨g, hg, k⟩
    · split
      · nofun
      · split
        · nofun
        · split
          · nofun
          · split
            · split <;> nofun
            · nofun

/-- R125, R129: on a track without a format a capture that is no format write changes nothing, and a format write
whose parse fails is refused with its cause. -/
theorem decode_none_of_parse (d : Device) (c : Capture) :
    (isFormatWrite none c = false → d.decode none c = d)
    ∧ (isFormatWrite none c = true → ∀ m, d.images.get c.key.unit = some m →
      (∀ cause, parseFormatWrite c.basis.enc c.fields = .error cause → d.decode none c = d.refuseFormat c.key cause)
      ∧ ∀ ws, parseFormatWrite c.basis.enc c.fields = .ok ws → d.decode none c = d.judgeFormat none c.key m c ws) := by
  constructor
  · intro h
    show (if isFormatWrite none c = true then d.applyFormat none c.key c else d) = d
    rw [h, if_neg Bool.false_ne_true]
  · intro h m hm
    have e : d.decode none c = d.applyFormat none c.key c := if_pos h
    constructor <;> intro x hx <;> rw [e] <;> unfold Device.applyFormat <;> rw [hm] <;> simp only [hx]

/-- R126, R129: a parsed format write on a track without a buffer is refused with FORMAT_MIXED, FORMAT_FIT or
FORMAT_SIZE, the latter two after the report of its ID check. -/
theorem judgeFormat_none (d : Device) (k : TrackKey) (m : MountRecord) (c : Capture) (w : WrittenSector)
    (ws : List WrittenSector) :
    ((∃ y ∈ ws, y.n ≠ w.n) → d.judgeFormat none k m c (w :: ws) = d.refuseFormat k .formatMixed)
    ∧ ((∀ y ∈ ws, y.n = w.n) →
      let f := writtenFormat c.basis (((m.geometry.formatOf k.cyl k.head).map TrackFormat.gap3).getD 1) (w :: ws) w.n
      (fitLayout f k.cyl k.head m.geometry.heads = none →
        d.judgeFormat none k m c (w :: ws) = (d.noteMismatch k (w :: ws)).refuseFormat k .formatFit)
      ∧ ((fitLayout f k.cyl k.head m.geometry.heads).isSome = true →
        d.judgeFormat none k m c (w :: ws) = (d.noteMismatch k (w :: ws)).refuseFormat k .formatSize)) := by
  have mixed : (w :: ws).any (fun x => x.n != w.n) = true ↔ ∃ y ∈ ws, y.n ≠ w.n := by
    simp
  constructor
  · intro h
    exact if_pos (mixed.mpr h)
  · intro h
    have n : ¬ (w :: ws).any (fun x => x.n != w.n) = true := fun g => by
      obtain ⟨y, hy, ne⟩ := mixed.mp g
      exact ne (h y hy)
    cases hf : m.geometry.formatOf k.cyl k.head <;> constructor <;> intro g <;>
      (refine (if_neg n).trans ?_; simp only [hf])
    · simp only [Option.map_none, Option.getD_none] at g
      rw [g]
    · simp only [Option.map_none, Option.getD_none] at g
      obtain ⟨l, hl⟩ := Option.isSome_iff_exists.mp g
      rw [hl]
    · simp only [Option.map_some, Option.getD_some] at g
      rw [g]
    · simp only [Option.map_some, Option.getD_some] at g
      obtain ⟨l, hl⟩ := Option.isSome_iff_exists.mp g
      rw [hl]

/-- R126 c: the least of a list that is not empty stands in it and is below none of it. -/
theorem least_spec (x : Nat) : ∀ xs : List Nat, least (x :: xs) ∈ x :: xs ∧ ∀ y ∈ x :: xs, least (x :: xs) ≤ y := by
  intro xs
  induction xs generalizing x with
  | nil => exact ⟨List.mem_cons_self, fun y hy => by rw [List.mem_singleton.mp hy]; exact Nat.le_refl x⟩
  | cons z zs ih =>
    obtain ⟨mem, low⟩ := ih z
    have e : least (x :: z :: zs) = min x (least (z :: zs)) := rfl
    rw [e]
    constructor
    · rcases Nat.le_total x (least (z :: zs)) with o | o
      · rw [Nat.min_eq_left o]; exact List.mem_cons_self
      · rw [Nat.min_eq_right o]; exact List.mem_cons_of_mem _ mem
    · intro y hy
      rcases List.mem_cons.mp hy with rfl | hy
      · exact Nat.min_le_left _ _
      · exact Nat.le_trans (Nat.min_le_right _ _) (low y hy)

/-! ### Blocks of a sector (R51) -/

/-- The blocks that a stretch of the image lies in. -/
theorem mem_blocksOf_iff (o n b : Nat) : b ∈ blocksOf o n ↔ ∃ j < n, (o + j) / 512 = b := by
  unfold blocksOf
  split
  · rename_i h
    subst h
    simp
  · simp only [List.mem_map, List.mem_range]
    constructor
    · rintro ⟨i, hi, rfl⟩
      rcases Nat.eq_zero_or_pos i with rfl | hp
      · exact ⟨0, by omega, by omega⟩
      · exact ⟨(o / 512 + i) * 512 - o, by omega, by omega⟩
    · rintro ⟨j, hj, rfl⟩
      exact ⟨(o + j) / 512 - o / 512, by omega, by omega⟩

/-- R51, R79: the blocks with a data byte of a sector, and the block of its flag byte. -/
theorem MountRecord.touches_iff (m : MountRecord) (k : TrackKey) (size : Nat) (t : Sector) (b : Nat) :
    (m.dataTouches k size t b = true ↔ ∃ j < size, (m.dataOffset k.cyl k.head t.logical size + j) / 512 = b)
    ∧ (m.flagTouches k t b = true ↔ m.hasFlagMap = true ∧ m.flagOffset k.cyl k.head t.logical / 512 = b) := by
  constructor
  · rw [MountRecord.dataTouches, List.contains_iff_mem, mem_blocksOf_iff]
  · rw [MountRecord.flagTouches, Bool.and_eq_true, beq_iff_eq, Config.blockSize]

/-! ### Joining the write-back queue (R88) -/

/-- A free order of a list holds its elements, each as often. -/
theorem Device.shuffle_perm : ∀ (n : Nat) (d : Device) (l : List Nat), l.length ≤ n → (d.shuffle n l).1.Perm l
  | 0, d, l, h => by rw [List.length_eq_zero_iff.mp (Nat.le_zero.mp h)]; exact .refl _
  | n + 1, d, [], _ => .refl _
  | n + 1, d, x :: xs, h => by
    have low : (d.choose (x :: xs).length).1 < (x :: xs).length := by
      unfold Device.choose
      split
      · exact Nat.succ_pos _
      · exact Nat.mod_lt _ (Nat.succ_pos _)
    show (((x :: xs).getD (d.choose (x :: xs).length).1 x) ::
      ((d.choose (x :: xs).length).2.shuffle n ((x :: xs).eraseIdx (d.choose (x :: xs).length).1)).1).Perm (x :: xs)
    refine .trans (.cons _ (Device.shuffle_perm n _ _ ?_)) ?_
    · rw [List.length_eraseIdx_of_lt low]
      exact Nat.sub_le_of_le_add h
    · rw [List.getD_eq_getElem _ _ low]
      exact List.getElem_cons_eraseIdx_perm low

/-- A free order moves the free-value counter alone. -/
theorem Device.shuffle_count : ∀ (n : Nat) (d : Device) (l : List Nat),
    ∃ c, (d.shuffle n l).2 = { d with freeCount := c }
  | 0, d, _ => ⟨d.freeCount, rfl⟩
  | n + 1, d, [] => ⟨d.freeCount, rfl⟩
  | n + 1, d, x :: xs => by
    obtain ⟨a, ha⟩ : ∃ a, (d.choose (x :: xs).length).2 = { d with freeCount := a } := by
      unfold Device.choose
      split
      · exact ⟨d.freeCount, rfl⟩
      · exact ⟨d.freeCount + 1, rfl⟩
    obtain ⟨b, hb⟩ := Device.shuffle_count n (d.choose (x :: xs).length).2
      ((x :: xs).eraseIdx (d.choose (x :: xs).length).1)
    refine ⟨b, ?_⟩
    show ((d.choose (x :: xs).length).2.shuffle n ((x :: xs).eraseIdx (d.choose (x :: xs).length).1)).2 = _
    rw [hb, ha]

/-- Buffers that are DIRTY and not queued join the queue in their order. -/
theorem Device.foldl_joinQueue : ∀ (l : List Nat) (d : Device), l.Nodup →
    (∀ i ∈ l, (d.buf i).state = .dirty ∧ i ∉ d.pool.queue) →
    l.foldl Device.joinQueue d = { d with pool := { d.pool with queue := d.pool.queue ++ l } }
  | [], d, _, _ => by simp
  | i :: l, d, nd, h => by
    have hi := h i List.mem_cons_self
    have e : d.joinQueue i = { d with pool := { d.pool with queue := d.pool.queue ++ [i] } } := by
      unfold Device.joinQueue
      rw [if_pos]
      simp [hi.1, hi.2]
    rw [List.foldl_cons, e, Device.foldl_joinQueue l _ (List.nodup_cons.mp nd).2]
    · simp
    · intro j hj
      refine ⟨(h j (List.mem_cons_of_mem _ hj)).1, fun m => ?_⟩
      rcases List.mem_append.mp m with m | m
      · exact (h j (List.mem_cons_of_mem _ hj)).2 m
      · rw [List.mem_singleton] at m
        subst m
        exact (List.nodup_cons.mp nd).1 hj

/-- R88: the buffers of a list that are DIRTY and not queued join the queue, each once, in a free order; nothing else
but the free-value counter changes. -/
theorem Device.joinAll_spec (d : Device) (is : List Nat) (nd : is.Nodup) : ∃ (n : Nat) (joined : List Nat), joined.Nodup
    ∧ (∀ i, i ∈ joined ↔ i ∈ is ∧ (d.buf i).state = .dirty ∧ i ∉ d.pool.queue)
    ∧ d.joinAll is = { d with freeCount := n, pool := { d.pool with queue := d.pool.queue ++ joined } } := by
  let ready := is.filter (fun i => (d.buf i).state == .dirty && !d.pool.queue.contains i)
  have ready_iff : ∀ i, i ∈ ready ↔ i ∈ is ∧ (d.buf i).state = .dirty ∧ i ∉ d.pool.queue := fun i => by
    simp [ready, List.mem_filter]
  have perm := Device.shuffle_perm ready.length d ready (Nat.le_refl _)
  obtain ⟨n, hn⟩ := Device.shuffle_count ready.length d ready
  refine ⟨n, (d.shuffle ready.length ready).1, perm.nodup_iff.mpr (nd.filter _),
    fun i => perm.mem_iff.trans (ready_iff i), ?_⟩
  show (d.shuffle ready.length ready).1.foldl Device.joinQueue (d.shuffle ready.length ready).2 = _
  rw [hn, Device.foldl_joinQueue _ _ (perm.nodup_iff.mpr (nd.filter _))]
  intro i hi
  exact ((ready_iff i).mp (perm.mem_iff.mp hi)).2

/-! ### The application of a sector command (R86, R173, R174) -/

/-- R173 f: the named sectors are all there, or one is not. -/
theorem namedSectors_spec (x : TrackBuffer) : ∀ rs : List Nat,
    (∀ ss, namedSectors x rs = some ss ↔ rs.map x.sector? = ss.map some)
    ∧ (namedSectors x rs = none ↔ ∃ r ∈ rs, x.sector? r = none)
  | [] => by
    refine ⟨fun ss => ⟨fun h => ?_, fun h => ?_⟩, nofun, fun ⟨_, h, _⟩ => nomatch h⟩
    · cases h; rfl
    · rw [List.map_eq_nil_iff.mp h.symm]; rfl
  | r :: rs => by
    obtain ⟨all, gone⟩ := namedSectors_spec x rs
    have e : namedSectors x (r :: rs)
        = (x.sector? r).bind (fun s => (namedSectors x rs).bind (fun ss => some (s :: ss))) := rfl
    rw [e]
    cases hr : x.sector? r with
    | none =>
      refine ⟨fun ss => ⟨nofun, fun h => ?_⟩, fun _ => ⟨r, List.mem_cons_self, hr⟩, fun _ => rfl⟩
      have : none ∈ ss.map some := h ▸ List.mem_map.mpr ⟨r, List.mem_cons_self, hr⟩
      simp at this
    | some s =>
      cases hs : namedSectors x rs with
      | none =>
        obtain ⟨q, hq, g⟩ := gone.mp hs
        refine ⟨fun ss => ⟨nofun, fun h => ?_⟩, fun _ => ⟨q, List.mem_cons_of_mem _ hq, g⟩, fun _ => rfl⟩
        have : none ∈ ss.map some := h ▸ List.mem_map.mpr ⟨q, List.mem_cons_of_mem _ hq, g⟩
        simp at this
      | some ss =>
        have m := (all ss).mp hs
        constructor
        · intro zs
          simp only [Option.bind_some, List.map_cons, hr, Option.some.injEq]
          constructor
          · rintro rfl; rw [List.map_cons, m]
          · intro h
            cases zs with
            | nil => cases h
            | cons z zs =>
              rw [List.map_cons, List.cons.injEq, Option.some.injEq] at h
              have := (all zs).mpr h.2
              rw [hs] at this
              cases this
              rw [h.1]
        · refine ⟨nofun, ?_⟩
          rintro ⟨q, hq, g⟩
          rcases List.mem_cons.mp hq with rfl | hq
          · rw [hr] at g; cases g
          · rw [gone.mpr ⟨q, hq, g⟩] at hs; cases hs

/-- R173 f, g: a sector command FAILS with NO_SECTOR, else with RANGE, and changes nothing else. -/
theorem Device.applySectors_refuses (d : Device) (i : Nat) (c : SectorCmd) :
    ((∃ r ∈ c.numbers, (d.buf i).sector? r = none) →
      d.applySectors i c = d.finish (Command.code (.sectors c)) .failed .noSector [])
    ∧ ((∀ r ∈ c.numbers, ((d.buf i).sector? r).isSome = true) → 8192 < c.count * (d.buf i).dataLen →
      d.applySectors i c = d.finish (Command.code (.sectors c)) .failed .range []) := by
  constructor
  · intro h
    unfold Device.applySectors
    simp only [((namedSectors_spec _ _).2).mpr h]
  · intro h big
    unfold Device.applySectors
    simp only
    split
    · rename_i n
      obtain ⟨r, hr, g⟩ := ((namedSectors_spec _ _).2).mp n
      have := h r hr
      rw [g] at this; cases this
    · exact if_pos big

/-- R86, R174, R175: the application itself, when the sectors are there and their data is within the window. -/
theorem Device.applySectors_applies (d : Device) (i : Nat) (c : SectorCmd) (ss : List Sector)
    (h : c.numbers.map (d.buf i).sector? = ss.map some) (fits : c.count * (d.buf i).dataLen ≤ 8192) :
    d.applySectors i c = match c.op with
      | .read => d.readSectorsInto i c ss
      | .verify => d.verifySectorsWith i c ss
      | .write deleted => d.writeSectorsFrom i c deleted := by
  unfold Device.applySectors
  simp only [((namedSectors_spec _ _).1 ss).mpr h]
  exact if_neg (Nat.not_lt.mpr fits)

/-- R174: no difference, or the first one: its sector number and its offset. -/
theorem firstDiffer_spec (x : TrackBuffer) (w : Mem) (n : Nat) : ∀ (ss : List Sector) (a : Nat),
    let same : Nat → Nat → Sector → Prop := fun k j t => w.read (a + k * n + j) = x.data.read (t.logical * n + j)
    ((∀ k t, ss[k]? = some t → ∀ j < n, same k j t) → firstDiffer x w n a ss = none)
    ∧ ∀ k t j, ss[k]? = some t → j < n → ¬ same k j t → (∀ j' < j, same k j' t) →
      (∀ k' < k, ∀ t', ss[k']? = some t' → ∀ j' < n, same k' j' t') → firstDiffer x w n a ss = some (t.number, j)
  | [], _ => ⟨fun _ => rfl, fun k t _ h => by simp at h⟩
  | s :: ss, a => by
    have ih := firstDiffer_spec x w n ss (a + n)
    simp only at ih ⊢
    have shift : ∀ k, a + n + k * n = a + (k + 1) * n := fun k => by rw [Nat.succ_mul]; omega
    simp only [shift] at ih
    have zero : ∀ j, a + 0 * n + j = a + j := fun j => by rw [Nat.zero_mul, Nat.add_zero]
    have head : (∀ j < n, w.read (a + j) = x.data.read (s.logical * n + j)) →
        firstDiffer x w n a (s :: ss) = firstDiffer x w n (a + n) ss := fun h => by
      rw [firstDiffer, List.find?_eq_none.mpr (fun j hj => by simp [h j (List.mem_range.mp hj)])]
    constructor
    · intro h
      rw [head (fun j hj => by have := h 0 s rfl j hj; rwa [zero] at this)]
      exact ih.1 (fun k t hk => h (k + 1) t (by simpa using hk))
    · intro k t j hk hj diff low before
      cases k with
      | zero =>
        obtain rfl : s = t := by simpa using hk
        simp only [zero] at diff low
        have f : (List.range n).find? (fun j => w.read (a + j) != x.data.read (s.logical * n + j)) = some j :=
          List.find?_range_eq_some.mpr ⟨by simpa using diff, List.mem_range.mpr hj,
            fun j' hj' => by simpa using low j' hj'⟩
        rw [firstDiffer, f]
      | succ k =>
        rw [head (fun j hj => by have := before 0 (Nat.succ_pos k) s rfl j hj; rwa [zero] at this)]
        exact ih.2 k t j (by simpa using hk) hj diff low
          (fun k' hk' t' h' => before (k' + 1) (Nat.succ_lt_succ hk') t' (by simpa using h'))

end Sys2Proof.Machine
end

