-- ==== Sys2Proof/Tests/Slice0.lean ====
section
/-!
SUPPORT. Tests: ill-formed commands that the check refuses, frames and worked values of the manual, one small test
for each kind of command, and for each statement with hypotheses a state and operands that meet them.
The source of an expected value is named in the comment before its test.
-/

namespace Sys2Proof.Tests

/- Each kernel evaluation waits for what is declared before it: one after the other, so that no thread waits. -/
set_option Elab.async false

open Sys2Proof Sys2Proof.Machine

/-! ### Ill-formed commands -/

/-- C1 names a frame type. -/
theorem test_wf_refuses_known_frame_type : (Instr.unknownFrameType 0xC1 3).wf = false := by decide

/-- 10 names a command. -/
theorem test_wf_refuses_known_command_code : (Instr.invalidCommand 0x10).wf = false := by decide

/-- More bytes than 16 blocks hold. -/
theorem test_wf_refuses_long_answer :
    (Instr.runEnd (.complete (List.replicate 8193 0))).wf = false := by decide +kernel

/-- A frame type, a code and an answer that can come. -/
theorem test_wf_takes : (Instr.unknownFrameType 0xC0 0).wf = true ∧ (Instr.invalidCommand 0x64).wf = true
    ∧ (Instr.runEnd .badCheck).wf = true := by decide

/-! ### Words and frames -/

/-- The table gives no bits. -/
theorem test_table_has_no_words : decodeTableWord 8 0 = none ∧ decodeTableWord 0 0 = none := by decide

/-- 9.8: VERIFY_SECTORS is code 32 with unit, cylinder, head, first R, count. -/
theorem test_frame_verify : decodeFrame [0xC1, 0x32, 1, 83, 1, 9, 2] = some (.verifySectors 1 83 1 9 2) := by
  decide

/-- R166 d: bytes beyond the parameters are ignored. -/
theorem test_frame_extra_bytes : decodeFrame [0xC1, 0x21, 1, 7, 7] = some (.eject 1) := by decide

/-! ### Worked values of chapters 1 and 3 -/

def caseB : TrackFormat := ⟨.mfm, 250000, 9, 2, 1, 84, 1, 0, none⟩
def caseC : TrackFormat := { caseB with sectors := 10 }
def caseD : TrackFormat := { caseB with sectors := 11 }
def caseE : TrackFormat := ⟨.fm, 125000, 16, 0, 1, 27, 1, 0, none⟩

/-- 1.7, Case B: gap 3 84, gap 4b 200, sector 4 at 2,760, its first data byte at 2,820. -/
theorem test_layout_caseB : (fitLayout caseB 0 0 2).map (fun l => ([l.gap3, l.gap4b], (l.table[4]?).map
    (fun t => [t.start, t.idMark, t.idEnd, t.dataMark, t.firstData, t.dataCrc])))
    = some ([84, 200], some [2760, 2772, 2782, 2816, 2820, 3332]) := by decide +kernel

/-- 1.7, Cases C and E: the shrunk gap 36 with gap 4b 22; gap 27 with gap 4b 53. -/
theorem test_layout_caseC_E : (fitLayout caseC 0 0 2).map (fun l => (l.gap3, l.gap4b)) = some (36, 22)
    ∧ (fitLayout caseE 0 0 2).map (fun l => (l.gap3, l.gap4b)) = some (27, 53) := by decide +kernel

/-- 1.7, Case D: refused. -/
theorem test_layout_caseD : layoutOf caseD 0 0 2 = .noFit := by decide +kernel

/-- 1.8: interleave 2 over 9 sectors; with skew 3 on track (0, 1) logical 3 stands at position 0. -/
theorem test_order : { caseB with interleave := 2 }.order 0 0 2 = [1, 6, 2, 7, 3, 8, 4, 9, 5]
    ∧ ({ caseB with interleave := 2, skew := 3 }.order 0 1 2).take 4 = [4, 9, 5, 1] := by decide +kernel

/-- 1.8: the ranks of an R list. -/
theorem test_rank : [7, 3, 200, 0, 9].map (rank [7, 3, 200, 0, 9]) = [2, 1, 4, 0, 3] := by decide

/-- Of ALayoutFillsItsRevolution: layouts with an R list, at the requested and at the shrunk gap, with none, and of a format
that is INVALID. -/
theorem test_witness_ALayoutHasItsNumbers :
    (fitLayout { caseB with sectors := 5, rList := some [7, 3, 200, 0, 9] } 0 0 2).map (fun l =>
        l.table.map (fun t => (t.number, t.logical)))
      = some [(7, 2), (3, 1), (200, 4), (0, 0), (9, 3)]
    ∧ (fitLayout caseB 0 0 2).map (fun l => l.table.map LayoutSector.number) = some [1, 2, 3, 4, 5, 6, 7, 8, 9]
    ∧ caseC.valid = true ∧ layoutOf { caseB with interleave := 0 } 0 0 2 = .invalid := by decide +kernel

/-- 3.2: 734,720 bytes of data, 1,447 sectors, track (2, 1) at 20,480 with sector base 52. -/
theorem test_offsets :
    let g : Geometry := ⟨caseB, 80, 2, [⟨0, 0, .head0, caseE⟩]⟩
    let m := buildRecord 9980 [] g
    m.totalData = 734720 ∧ m.sectorCount = 1447 ∧ m.offsetOf 2 1 = 20480 ∧ m.baseOf 2 1 = 52 := by
  decide +kernel

/-! ### Small states -/

/-- Two sectors of 128 bytes on each track. -/
def small : TrackFormat := ⟨.fm, 125000, 2, 0, 1, 27, 1, 0, none⟩

def image : MountRecord := buildRecord 100 [] ⟨small, 84, 2, []⟩

def key00 : TrackKey := { unit := .u0, cyl := 0, head := 0 }

/-- Unit 0 selected and at speed. -/
def spinning : Device :=
  { Device.reset with
    lines := { Lines.released with sel0 := true, mota := true }
    units := ⟨{ UnitRecord.reset .u0 with motor := true, atSpeed := true }, UnitRecord.reset .u1⟩ }

/-- A card of 1,000 blocks. -/
def withCard (d : Device) : Device :=
  { d with card := { CardRecord.reset with state := .ready, capacity := some 1000 } }

/-- The image on Unit 0. -/
def withImage (d : Device) : Device := { withCard d with images := ⟨some image, none⟩ }

/-- Track (0, 0) of Unit 0 in buffer 0, in a state. -/
def holding (d : Device) (b : BufferState) : Device :=
  (withImage d).setBuf 0
    { TrackBuffer.free with
      state := b, key := some key00, layout := fitLayout small 0 0 2
      sectors := ((fitLayout small 0 0 2).map Layout.sectorTable).getD [] }

def ready : Device := holding spinning .clean

def gate (d : Device) : Device := { d with lines := { d.lines with wgate := true } }

def engine (d : Device) (e : Engine) : Device := { d with port := { d.port with engine := e } }

def at' (d : Device) : State := { dev := d, pending := [] }

def run (i : Instr) (d : Device) : Device :=
  match exec i (at' d) with
  | .next t => t.dev
  | _ => d

/-- A request of a class: the engine's is class D, a window's class A. -/
def ask (w : Requester) (t : Nat) : Request :=
  { who := w, kind := .read, block := 5, count := 1, time := t, op := .loader, unit := none, track := none }

/-- A run of the engine on the card. -/
def onCard (d : Device) (first : Option RunCause) : Device :=
  let run : Run :=
    { req := ask .engine 0, cls := .d, firstCause := first, granted := 0, bytes := [], withdrawn := false }
  { withCard d with card := { (withCard d).card with run := some run } }

/-! ### One small test for each kind of command -/

/-- R45: an asserted MOTA starts the motor at power-on. R191: the reset line keeps the counts. -/
theorem test_resets : (run .powerOn spinning).units.u0.spinUp = some 0
    ∧ (run .resetLine { spinning with banks := { FaultBanks.powerOn with
        drive := { FaultBanks.powerOn.drive with count := 7 }, fip := true } }).banks.drive.count = 7 := by
  decide +kernel

/-- R24 and R27: SEL0 selects Unit 0; MOTA starts its motor and its release stops it. -/
theorem test_lines : (run (.selectLineChange .sel0 true) Device.reset).selected = some .u0
    ∧ (run (.motorLineChange .mota true) Device.reset).units.u0.motor = true
    ∧ (run (.motorLineChange .mota false) spinning).units.u0.atSpeed = false := by decide +kernel

/-- 2.9: at the end of the spin-up the phase is 100,000 µs. -/
theorem test_atSpeed : (run (.atSpeed .u0) (run (.motorLineChange .mota true) Device.reset)).units.u0.phase
    = 100000 := by decide +kernel

/-- R31 and R32: the wrap, and the end of the index pulse. -/
theorem test_rotation : (run (.revolutionStart .u0) spinning).now = 200000
    ∧ (run .indexPulseEnd ready).indexLine = false ∧ ready.indexLine = true := by decide +kernel

/-- R33 and R42: a step inward, and the latch with an image. -/
theorem test_step : (run (.stepPulse true) spinning).units.u0.cylinder = 1
    ∧ (run (.stepPulse true) spinning).units.u0.latch = true
    ∧ (run (.stepPulse false) ready).units.u0.latch = false := by decide +kernel

/-- R36: the side waits for the release of the gate. -/
theorem test_side : (run (.sideChange true) (gate spinning)).units.u0.side = false
    ∧ (run .writeGateRelease (run (.sideChange true) (gate spinning))).units.u0.side = true := by
  decide +kernel

/-- R116, R117, R118: a capture begins, takes a byte, and ends with the gate. -/
theorem test_capture :
    let d := run .writeGateAssert ready
    (d.captures.u0.map Capture.state) = some .capturing
    ∧ ((run (.writeDataByte 0xFB .fm125 true) d).captures.u0.map Capture.fields)
      = some [{ kind := .data, markSlot := 0, bytes := [], slots := [] }]
    ∧ (run .writeGateRelease d).captures.u0 = none := by decide +kernel

/-- R100 and R102: filler of FM, in slots of 64 µs. -/
theorem test_readSlot :
    let d := run .readSlot ready
    d.readData.map StreamByte.value = some 0xFF ∧ (run .readSlot d).now = 64 := by decide +kernel

/-- R99: from slots of 32 µs to slots of 64 µs at phase 32: the slot begun at 0 is skipped, and the next begins 32 µs on;
back to 32 µs at that moment, the slot that begins there comes at once. -/
theorem test_finishSlot :
    let at32 := fun d : Device => d.modUnit .u0 (fun r => { r with phase := 32 })
    let d := Device.finishSlot (at32 spinning) (at32 (withImage spinning)) .u0
    d.nextSlot .u0 = (32, 1)
    ∧ (Device.finishSlot d { d with images := ⟨none, none⟩ } .u0).nextSlot .u0 = (0, 1) := by decide +kernel

/-- R135: insertion, the answer and the time-out. -/
theorem test_init :
    let d := run .cardDetectAssert Device.reset
    d.card.state = .initializing ∧ (run (.cardInitAnswer 1000) d).card.capacity = some 1000
    ∧ (run .cardInitTimeout d).card.state = .failed ∧ (run .cardDetectRelease d).card.state = .absent := by
  decide +kernel

/-- R138, R140, R142: class A before class D; a bad check value owes a retry; a time-out after a time-out. -/
theorem test_runs :
    let d := { withCard Device.reset with card := { (withCard Device.reset).card with
      requests := [ask .engine 0, ask (.window .u0) 9] } }
    (run .runGrant d).card.run.map (fun r => r.req.who) = some (.window .u0)
    ∧ (run (.runEnd .badCheck) (onCard Device.reset none)).card.retry.map Prod.snd = some .crc
    ∧ (run .runTimeout (onCard Device.reset (some .timeout))).card.state = .failed := by decide +kernel

/-- R88 and R90: the expiry queues a DIRTY buffer, and a flush takes it. -/
theorem test_flush :
    let d := (holding Device.reset .dirty).setBuf 0 { (holding Device.reset .dirty).buf 0 with
      dirtySince := some 0
      sectors := ((holding Device.reset .dirty).buf 0).sectors.map (fun t => { t with dirty := true }) }
    let e := run (.dirtySinceExpiry 0) d
    e.now = 2000000 ∧ e.pool.queue = [0] ∧ ((run (.flushStart .u0) e).buf 0).state = .flushing := by
  decide +kernel

/-- R159: a change that waits on a unit at speed applies at the motor off. -/
theorem test_apply_at_motor_off :
    (run (.motorLineChange .mota false) (run (.eject 0) ready)).images.u0 = none := by decide +kernel

/-- R160: an eject applies with the motor off. -/
theorem test_apply :
    let d := { withImage Device.reset with seq := { pending := ⟨some ⟨some .eject, none⟩, none⟩, group := none } }
    (run (.pendingChangeApply .u0) d).images.u0 = none
    ∧ (run (.pendingChangeApply .u0) d).units.u0.applied = true := by decide +kernel

/-- R168, R169, R170, R171: a result is delivered and ended; the cursor's limit; bytes in and out; PORT_RESET. -/
theorem test_frames :
    let d := engine Device.reset (.result ⟨.done, .equal, 0x32, []⟩)
    (run (.resultFrame 4) d).port.frameOut = [2, 0, 3, 0x32, 0] ∧ (run (.resultFrame 4) d).port.engine = .idle
    ∧ (run (.cursorFrame [0x20, 0x01]) d).port.cursor = 8192
    ∧ (run (.dataOutFrame 1) (run (.cursorFrame [0, 0]) (run (.dataInFrame [7, 8]) d))).port.frameOut = [2, 7]
    ∧ (run .portReset d).port.engine = .idle := by decide +kernel

/-- R164 c and R166: frames that are dropped, and a code that names no command. -/
theorem test_bad_frames : (run (.unknownFrameType 0xC0 2) Device.reset).port.frameOut = [0, 0, 0]
    ∧ (run .commandFrameDropped Device.reset).port.frameFault = true
    ∧ (run (.invalidCommand 0x64) Device.reset).port.engine = .result ⟨.refused, .invalidCommand, 0x64, []⟩ := by
  decide +kernel

/-- R22 and R172: Unit 1 is enabled; SEL0 is taken; a mask. -/
theorem test_configure : (run (.configureUnit 1 1 1 1 0) Device.reset).units.u1.enabled = true
    ∧ (run (.configureUnit 1 1 0 1 0) Device.reset).port.engine = .result ⟨.refused, .range, 0x10, []⟩
    ∧ (run (.setInterruptMask 4) Device.reset).port.mask.unit = true := by decide +kernel

/-- R152 to R157. R159: an EJECT waits for a revolution start of a running motor, and applies at once without one. -/
theorem test_mounting : (run (.mount 0 100 0) (withCard Device.reset)).card.requests.length = 1
    ∧ (run (.eject 0) ready).seq.pending.u0 = some ⟨some .eject, none⟩
    ∧ (run (.eject 0) (withImage Device.reset)).images.u0 = none
    ∧ (run (.setProtect 0 1) (withImage Device.reset)).units.u0.protect = true
    ∧ (run .hold Device.reset).seq.group = some ⟨Change.empty, Change.empty⟩
    ∧ (run .release Device.reset).port.engine = .result ⟨.refused, .groupState, 0x24, []⟩
    ∧ (run .discard Device.reset).port.engine = .result ⟨.refused, .groupState, 0x25, []⟩ := by decide +kernel

/-- R173 to R175: sector 1 is read, written with a deleted mark, and verified. -/
theorem test_sectors :
    (run (.readSectors 0 0 0 1 1) ready).port.engine = .result ⟨.done, .none, 0x30, [1, 0]⟩
    ∧ (run (.writeSectors 0 0 0 2 1 1) ready).port.engine = .result ⟨.done, .none, 0x31, []⟩
    ∧ (run (.verifySectors 0 0 0 1 2) ready).port.engine = .result ⟨.done, .equal, 0x32, []⟩ := by
  decide +kernel

/-- R149, R176, R177. -/
theorem test_card_commands : (run (.readBlocks 999 1) (withCard Device.reset)).card.requests.length = 1
    ∧ (run (.writeBlocks 999 2) (withCard Device.reset)).port.engine = .result ⟨.refused, .range, 0x41, []⟩
    ∧ (run (.flush 0xFF) Device.reset).port.engine = .result ⟨.done, .none, 0x33, []⟩
    ∧ (run .cardReset (withCard Device.reset)).card.state = .initializing := by decide +kernel

/-- R46, R183, R189, R190: UNIT_STATUS of Unit 0 after power-on (9.8), and the bank commands. -/
theorem test_status_and_banks : (run (.unitStatus 0) Device.reset).port.engine
      = .result ⟨.done, .none, 0x50, [0x21, 0, 0x10, 0xFF, 0xFF, 0xFF, 0xFF, 0]⟩
    ∧ (run (.readBank 3) Device.reset).port.engine = .result ⟨.done, .none, 0x60, List.replicate 14 0⟩
    ∧ (run (.clearBank 0xFF) Device.reset).banks = FaultBanks.powerOn
    ∧ (run (.setBankEnable 0 1 1) Device.reset).banks.drive.enabled .doubleSelect = true
    ∧ (run .resume ready).units.u0.latch = true := by decide +kernel

/-! ### States and operands that meet the hypotheses of the statements, at the ends of their ranges -/

/-- The head of Unit 0 at cylinder 83. -/
def highest (d : Device) : Device := d.modUnit .u0 (fun r => { r with cylinder := 83 })

/-- The motor of Unit 0 off. -/
def stopped (d : Device) : Device := d.modUnit .u0 (fun r => { r with motor := false, atSpeed := false })

/-- The motor of Unit 0 right after its start. -/
def starting : Device :=
  (stopped spinning).modUnit .u0 (fun r => { r with motor := true, spinUp := some 0 })

/-- A pending change of Unit 0. -/
def pendingOf (d : Device) (c : Change) : Device := { d with seq := { d.seq with pending := ⟨some c, none⟩ } }

/-- An OPEN group with a staged record of Unit 0. -/
def groupOf (d : Device) (c : Change) : Device := { d with seq := { d.seq with group := some ⟨c, Change.empty⟩ } }

/-- A capture of Unit 0. -/
def capture (d : Device) (c : Capture) : Device := d.setCapture .u0 (some c)

/-- A capture of track (0, 0) that began after the ID field of position 0: slot 64 + 13 at 64 µs a slot. -/
def writing : Capture :=
  { state := .capturing, key := key00, startPhase := 4928, startTime := 0, basis := ⟨.fm, 125000⟩
    basisFixed := true, lastPhase := some 5000, fields := [{ kind := .data, markSlot := 94, bytes := [], slots := [] }]
    capReached := false, specials := [] }

/-- Sectors 1 and 2 of track (0, 0) of Unit 0. -/
def sectors1 : SectorCmd := { op := .read, key := key00, first := 1, count := 2 }

theorem test_witness_StepTakesTheFrontCommand : ({ dev := ready, pending := [.resume, .hold] } : State).pending
    = .resume :: [.hold] := rfl

theorem test_witness_AnIdleStepLetsTimePass :
    (at' Device.reset).pending = [] ∧ (∀ f ∈ Device.reset.dueSteps, f = none) ∧ Device.reset.AtRest
    ∧ spinning.units.u0.motor = true ∧ spinning.units.u1.motor = false ∧ 0 < 1
    ∧ (starting.units.u0.motor = true ∧ (starting.advance 399999).units.u0.revDue = 0
      ∧ (starting.advance 400000).units.u0.revDue = 1) := by
  have h : Device.reset.dueSteps.all Option.isNone = true := by decide +kernel
  have q : Device.reset.micro.isNone = true := by decide +kernel
  exact ⟨rfl, fun f hf => Option.isNone_iff_eq_none.mp (List.all_eq_true.mp h f hf),
    Option.isNone_iff_eq_none.mp q, rfl, rfl, by decide, by decide +kernel⟩

/-- No revolution start is due, and one that is. -/
theorem test_witness_ResetLineKeepsTheBanks : Device.reset.units.u0.revDue = 0 ∧ Device.reset.units.u1.revDue = 0
    ∧ (spinning.advance 200000).units.u0.revDue = 1 := by decide +kernel

/-- A selection that leaves a unit and enters another, a motor that starts and one that stops with a start due. -/
theorem test_witness_SelectAndMotorLinesAreFollowed :
    let d := spinning.advance 200000
    spinning.selected = some .u0 ∧ Device.reset.selected = none ∧ spinning.units.u0.motor = true
    ∧ (d.stopsMotor (fun x => { x with lines := { x.lines with mota := false } }) .u0 = true
      ∧ d.units.u0.revDue = 1)
    ∧ ((holding Device.reset .dirty).ownedBy 0 .u0 = true ∧ ((holding Device.reset .dirty).buf 0).state = .dirty) := by
  decide +kernel

/-- A part with its head at cylinder 83 and its cursor at 8,192. -/
def edge : Device :=
  { Device.reset with
    units := ⟨{ UnitRecord.reset .u0 with cylinder := 83 }, UnitRecord.reset .u1⟩
    port := { LoaderPort.reset with cursor := 8192 } }

theorem edge_units (u : UnitId) : (edge.units.get u).Good := by
  cases u <;> exact ⟨by decide, by decide, by decide, by decide, nofun⟩

theorem edge_banks (i : BankId) : (edge.banks.get i).Good i ∧ (edge.banks.get i).enables.length = i.causes := by
  have h : (edge.banks.get i).record = none := by cases i <;> rfl
  have g : (edge.banks.get i).count ≤ 255 ∧ (edge.banks.get i).overflow = false
    ∧ (edge.banks.get i).enables.length = i.causes := by cases i <;> decide
  exact ⟨⟨g.1, by rw [g.2.1]; nofun, by rw [h]; nofun⟩, g.2.2⟩

theorem edge_card : edge.card.Good :=
  ⟨by decide, nofun, by decide, nofun, by decide, by decide, by decide, by decide⟩

theorem edge_pool : edge.pool.Good := ⟨by decide, by decide, by decide, by decide, by decide, by decide⟩

/-- No buffer is held, queued or waited for. -/
theorem edge_held : edge.pool.Held := by
  have h : ∀ i, edge.pool.buf i = TrackBuffer.free := fun i => by
    unfold Pool.buf
    rw [List.getD_eq_getElem?_getD]
    cases hb : edge.pool.buffers[i]? with
    | none => rfl
    | some b => exact List.eq_of_mem_replicate (List.mem_of_getElem? hb : b ∈ List.replicate 8 TrackBuffer.free)
  exact ⟨fun i _ _ g => absurd (congrArg TrackBuffer.state (h i)) g, nofun, fun i g => by (rw [h] at g; cases g), nofun⟩

theorem edge_inv : edge.Inv :=
  ⟨edge_units, by decide, edge_card, fun i => (edge_banks i).1, fun i => (edge_banks i).2, by decide, by decide,
    by decide, edge_pool, edge_held⟩

theorem test_witness_EveryStepKeepsTheMachineGood :
    ∃ s t : State, s.dev.Inv ∧ s.dev.units.u0.cylinder = 83 ∧ step s = .next t :=
  ⟨{ dev := edge, pending := [.hold] }, _, edge_inv, rfl, rfl⟩

theorem test_witness_FramesReadBackAsTheirCommands :
    (Instr.mount 1 0xFFFFFFFF 0).wf = true
    ∧ encodeFrame (.mount 1 0xFFFFFFFF 0) = some [0xC1, 0x20, 1, 0xFF, 0xFF, 0xFF, 0xFF, 0] := by decide

theorem test_witness_AtSpeedEndsTheSpinUp :
    let d := (stopped spinning).modUnit .u0 (fun r => { r with motor := true, spinUp := some 300000, phase := 100000 })
    (d.units.u0.motor = true ∧ d.units.u0.spinUp = some 300000 ∧ 300000 ≤ 300000
      ∧ d.units.u0.phase = 300000 % 200000)
    ∧ Device.reset.units.u0.motor = false ∧ spinning.units.u0.spinUp = none := by decide

theorem test_witness_ARevolutionStartIsHanded :
    (spinning.units.u0.motor = true ∧ spinning.units.u0.atSpeed = true ∧ spinning.units.u0.revDue = 0
      ∧ (spinning.advance 400001).units.u0.revDue = 2)
    ∧ (let d := pendingOf ready ⟨some .eject, none⟩
      d.units.u0.startUsed = false ∧ d.unitClear .u0 = true ∧ d.seq.pending.u0 = some ⟨some .eject, none⟩)
    ∧ (let d := (withImage spinning).advance 200000
      d.selected = some .u0 ∧ d.currentTrack .u0 = some key00 ∧ (d.formatOf key00).isSome = true
        ∧ d.readableHolder key00 = none)
    ∧ (let d := ready.advance 200000
      d.selected = some .u0 ∧ d.currentTrack .u0 = some key00 ∧ (d.readableHolder key00).isSome = true)
    ∧ Device.reset.units.u0.motor = false := by decide +kernel

theorem test_witness_TheIndexPulseEnds :
    let d := (withImage spinning).modUnit .u0 (fun r => { r with phase := 1999 })
    (d.selected = some .u0 ∧ d.indexLine = true)
    ∧ ((withImage spinning).modUnit .u0 (fun r => { r with phase := 2000 })).indexLine = false := by
  decide +kernel

theorem test_witness_AStepMovesTheHead :
    ((highest ready).selected = some .u0 ∧ (highest ready).lines.wgate = false
      ∧ (highest ready).units.u0.cylinder = 83)
    ∧ (spinning.selected = some .u0 ∧ spinning.units.u0.cylinder = 0 ∧ spinning.mounted .u0 = false)
    ∧ ((stopped ready).selected = some .u0 ∧ (stopped ready).units.u0.motor = false)
    ∧ Device.reset.selected = none
    ∧ (let before := (holding spinning .dirty).modUnit .u0 (fun r => { r with phase := 1 })
      let after := before.modUnit .u0 (fun r => { r with cylinder := 1 })
      before.bufCurrent 0 = true ∧ after.bufCurrent 0 = false ∧ (after.buf 0).state = .dirty ∧ 0 ∉ after.pool.queue
        ∧ (after.currentTrack .u0).isSome = true ∧ after.units.u0.motor = true
        ∧ before.selected = some .u0 ∧ after.selected = some .u0 ∧ 1 % (8000000 / (before.streamBasis .u0).rate) ≠ 0
        ∧ (after.delivery.get .u0).slotEnd = none ∧ before.currentTrack .u0 ≠ after.currentTrack .u0)
    ∧ 64 % (8000000 / (ready.streamBasis .u0).rate) = 0 := by
  decide +kernel

theorem test_witness_AStepDuringAWriteIsIgnored :
    (gate ready).selected = some .u0 ∧ (gate ready).lines.wgate = true := by decide +kernel

theorem test_witness_TheSideFollowsItsInput :
    (ready.selected = some .u0 ∧ ready.lines.wgate = false ∧ ready.units.u0.side = false)
    ∧ Device.reset.selected = none ∧ (gate ready).lines.wgate = true := by decide +kernel

theorem test_witness_OutputsFollowTheState :
    Device.reset.selected = none ∧ ready.selected = some .u0 ∧ ready.units.u0.lineMode = .change
    ∧ (ready.modUnit .u0 (fun r => { r with lineMode := .ready })).units.u0.lineMode = .ready := by
  decide +kernel

theorem test_witness_AWriteStartIsJudged :
    (gate ready).lines.wgate = true ∧ (ready.lines.wgate = false ∧ Device.reset.selected = none)
    ∧ (ready.selected = some .u0 ∧ ready.mounted .u0 = true ∧ ready.units.u0.motor = true
      ∧ ready.units.u0.atSpeed = true ∧ ready.units.u0.protect = false ∧ ready.captures.u0 = none
      ∧ ready.banks.offline = false)
    ∧ spinning.mounted .u0 = false
    ∧ (ready.modUnit .u0 (fun r => { r with protect := true })).units.u0.protect = true
    ∧ (capture ready { writing with state := .pending }).captures.u0.isSome = true
    ∧ ({ ready with banks := { ready.banks with fip := true, offline := true } } : Device).banks.offline = true := by
  decide +kernel

/-- The three special bytes have come, at slots 94 to 96 of MFM at 250,000 bit/s. -/
theorem test_witness_WriteDataIsCaptured :
    ((capture (gate ready) writing).selected = some .u0 ∧ (capture (gate ready) writing).lines.wgate = true
      ∧ (capture (gate ready) writing).captures.u0 = some writing ∧ writing.state = .capturing)
    ∧ Device.reset.selected = none
    ∧ (let c := { writing with
        basis := ⟨.mfm, 250000⟩, startPhase := 0, fields := [⟨.data, 3, [1, 0xA1, 0xA1, 0xA1], [7, 94, 95, 96]⟩]
        specials := [(3072, 0xA1, .mfm250), (3040, 0xA1, .mfm250), (3008, 0xA1, .mfm250)] }
      (wireBasis .mfm250).enc = .mfm ∧ c.basis = wireBasis .mfm250
        ∧ slotAt c.basis.rate 199999 < c.startSlot + slotsPerRev c.basis.rate
        ∧ c.fields = [] ++ [⟨.data, 3, [1, 0xA1, 0xA1, 0xA1], [7, 94, 95, 96]⟩]
        ∧ c.startSlot + slotsPerRev c.basis.rate ≤ slotAt c.basis.rate 200000) := by decide +kernel

theorem test_witness_AWriteGateReleaseEndsTheCapture :
    let d := capture ready writing
    (d.lines.wgate = false ∧ (gate d).lines.wgate = true ∧ (gate Device.reset).selected = none
      ∧ (gate d).selected = some .u0 ∧ d.units.u0.side = d.lines.side ∧ d.captures.u0 = some writing
      ∧ writing.lastPhase.isSome = true ∧ writing.capReached = false ∧ (d.formatOf writing.key).isSome = true
      ∧ d.readableHolder writing.key = some 0
      ∧ ((d.buf 0).layout.any (fun l =>
        decide (sectorWriteAt l writing = some 0 ∧ spillRegion l writing 0 = none))) = true
      ∧ writing.fields = { kind := .data, markSlot := 94, bytes := [], slots := [] } :: [])
    ∧ ready.captures.u0 = none
    ∧ ({ gate d with lines := { (gate d).lines with side := true } } : Device).units.u0.side = false
    ∧ (capture ready { writing with lastPhase := none }).captures.u0.map Capture.lastPhase = some none := by
  decide +kernel

set_option maxRecDepth 4000 in
/-- A field of 128 bytes of 00 and their CRC, with a deleted-data mark, on the last position of the track. -/
theorem test_witness_ASectorWriteReplacesItsSector :
    ∃ (l : Layout) (f : CapField), fitLayout small 0 0 2 = some l
      ∧ ((ready.buf 0).sectors.find? (fun t => t.position == 1)).isSome = true ∧ (f.kind = .data ∨ f.kind = .deleted)
      ∧ l.dataLen + 2 ≤ f.bytes.length
      ∧ bytesAt f.bytes l.dataLen 2
        = crcBytes (dataCrc l.enc (if f.kind = .deleted then 0xF8 else 0xFB) (bytesAt f.bytes 0 l.dataLen)) := by
  have h : ∀ x : BitVec 16, bytesAt (List.replicate 128 0 ++ crcBytes x) 128 2 = crcBytes x := fun x => rfl
  have g : ∀ x : BitVec 16, bytesAt (List.replicate 128 0 ++ crcBytes x) 0 128 = List.replicate 128 0 := fun x => rfl
  refine ⟨{ (fitLayout small 0 0 2).getD ⟨.fm, 0, 0, 0, 0, 0, []⟩ with sizeCode := 0 },
    ⟨.deleted, 94, List.replicate 128 0 ++ crcBytes (dataCrc .fm 0xF8 (List.replicate 128 0)), []⟩,
    by decide +kernel, by decide +kernel, .inr rfl, by decide +kernel, ?_⟩
  exact (h _).trans (congrArg (fun x => crcBytes (dataCrc .fm 0xF8 x)) (g _).symm)

set_option maxRecDepth 4000 in
/-- Of ASectorWriteReplacesItsSector, R123 b and c: D + 2 bytes of 00, which is no good CRC, and 0, D - 1, D and D + 1
bytes of 07 over the second sector of 128 bytes of 00. -/
theorem test_witness_SectorWritesOfEveryLength :
    let field : Nat → Byte → CapField := fun n b => ⟨.data, 94, List.replicate n b, []⟩
    ((field 130 0).kind = .data ∧ 128 + 2 ≤ (field 130 0).bytes.length
      ∧ bytesAt (field 130 0).bytes 128 2 ≠ crcBytes (dataCrc .fm 0xFB (bytesAt (field 130 0).bytes 0 128)))
    ∧ (fitLayout small 0 0 2).any (fun l => [0, 127, 128, 129].all (fun n =>
      let y := (ready.buf 0).writeSector l 1 (field n 7)
      (field n 7).bytes.length == n && decide (n < l.dataLen + 2)
        && [127, 128, 254, 255, 256].map y.data.read
          == [0, if n = 0 then 0 else 7, if n = 0 then 0 else 7, if n < 128 then 0 else 7, 0])) = true := by
  decide +kernel

/-- The modes and the bases of a stream: with no unit selected, with a track held, with none held, with an unformatted
track under the head, and with no image. -/
theorem test_witness_FillerIsDelivered :
    Device.reset.selected = none ∧ spinning.selected = some .u0 ∧ spinning.streamMode .u0 = .filler
    ∧ Device.reset.streamMode .u0 = .silent ∧ ready.streamMode .u0 = .track ∧ (gate ready).streamMode .u0 = .filler
    ∧ (ready.streamBuffer .u0 = some 0 ∧ (ready.buf 0).layout.isSome = true)
    ∧ (let one := { image with geometry := ⟨small, 84, 1, []⟩ }
      let d := { withImage spinning with images := ⟨some one, none⟩ }
      (d.streamBuffer .u0 = none ∧ one.geometry.formatOf 0 0 = some small ∧ one.geometry.formatOf 0 1 = none)
      ∧ (d.modUnit .u0 (fun r => { r with side := true })).streamBuffer .u0 = none)
    ∧ spinning.images.u0 = none
    ∧ (let d := { ready.modUnit .u0 (fun r => { r with phase := 100 }) with now := 500 }
      let slot : Nat → Nat × Nat := fun t =>
        ({ d with delivery := d.delivery.set .u0 { Delivery.empty with slotEnd := some t } } : Device).nextSlot .u0
      (d.streamBasis .u0).rate = 125000 ∧ [slot 464, slot 465, slot 529] = [(0, 1), (28, 2), (92, 3)]) := by
  decide +kernel

/-- The head stands at the start of position 0, slot 64. -/
theorem test_witness_AnIdSectionIsDelivered :
    let d := ready.modUnit .u0 (fun r => { r with phase := 4096 })
    d.selected = some .u0 ∧ d.streamMode .u0 = .track ∧ d.streamBuffer .u0 = some 0
    ∧ (d.buf 0).key = some key00 ∧ ((d.buf 0).sectorAt 0).isSome = true
    ∧ ((d.buf 0).layout.any (fun l =>
      decide (0 < l.sectors ∧ (d.nextSlot .u0).2 = l.start 0 ∧ (d.buf 0).visible l 0 = true))) = true
    ∧ (fitLayout caseB 0 0 2).map Layout.enc = some .mfm := by decide +kernel

theorem test_witness_AnInsertedCardIsInitialized :
    (Device.reset.card.state = .absent ∧ Device.reset.lines.cardDetect = false ∧ Device.reset.card.requests = [])
    ∧ ready.card.state ≠ .absent := by decide +kernel

theorem test_witness_AnInitializationEnds :
    let d := { Device.reset with card := { CardRecord.reset with state := .initializing, initTime := some 999999 } }
    (d.card.state = .initializing ∧ d.card.initTime = some 999999 ∧ 999999 < 1000000 ∧ (1 : BitVec 32) ≠ 0)
    ∧ ready.card.state ≠ .initializing ∧ ready.card.initTime = none
    ∧ (d.advance 1).card.initTime = some 1000000 := by decide +kernel

theorem test_witness_ARemovedCardTakesEverything :
    Device.reset.card.state = .absent ∧ ready.card.state ≠ .absent := by decide +kernel

/-- The starvation bound with class D waiting, the highest class else, and a retry owed. -/
theorem test_witness_AGrantGoesByClassAndAge :
    let d : Nat → Device := fun n => { withCard Device.reset with card := { (withCard Device.reset).card with
      grants := n, requests := [ask (.window .u0) 3, ask .engine 5] } }
    Device.reset.canGrant = false
    ∧ ((d 8).card.state = .ready ∧ (d 8).card.run = none ∧ (d 8).card.retry = none ∧ 8 ≤ (d 8).card.grants
      ∧ ∃ q ∈ (d 8).card.requests, (d 8).requestClass q = .d)
    ∧ (¬ 8 ≤ (d 7).card.grants ∧ (∃ q ∈ (d 7).card.requests, (d 7).requestClass q = .a) ∧ ArbClass.rank .a = 0)
    ∧ (let e := run (.runEnd .error) (onCard Device.reset none)
      e.card.state = .ready ∧ e.card.run = none ∧ e.card.retry.isSome = true) := by decide +kernel

/-- Of AGrantGoesByClassAndAge: a fill of a current track, of one that a command waits on and of neither; flushes with
none, with five and with six buffers to be saved, and with the eviction mark; a header write; a group fetch. -/
theorem test_witness_RequestsHaveClasses :
    let fill : Device → Device := fun d => holding d .filling
    let asked := engine (fill Device.reset) (.executing (.sectors sectors1))
    let saving : Nat → Bool → Device := fun n e => (List.range n).foldl (fun (d : Device) i =>
      d.setBuf i { TrackBuffer.free with state := .flushing, key := some { key00 with cyl := i }, evict := e }) Device.reset
    let cls : Device → Requester → ArbClass := fun d w => d.requestClass (ask w 0)
    (((fill spinning).buf 0).state = .filling ∧ ((fill spinning).buf 0).key = some key00)
    ∧ [cls (fill spinning) (.buffer 0), cls asked (.buffer 0), cls (fill Device.reset) (.buffer 0)] = [.b, .d, .e]
    ∧ [cls (saving 5 false) (.buffer 0), cls (saving 6 false) (.buffer 0), cls (saving 5 true) (.buffer 0)] = [.f, .c, .c]
    ∧ [cls (saving 5 true) (.header .u0), cls (saving 6 false) (.header .u0)] = [.f, .c]
    ∧ [cls Device.reset (.window .u1), cls Device.reset .engine] = [.a, .d] := by decide +kernel

theorem test_witness_TheCardAnswersARun :
    let d : Nat → Option RunCause → Device := fun t c => { onCard Device.reset c with now := t }
    Device.reset.card.run = none
    ∧ ((d 250000 none).card.run.map Run.granted = some 0 ∧ 0 + 250000 ≤ (d 250000 none).now)
    ∧ ((d 249999 none).card.run.isSome = true ∧ (d 249999 none).now < 0 + 250000
      ∧ (d 249999 none).card.resetWaits = false ∧ (d 249999 none).card.run.map Run.firstCause = some none)
    ∧ (d 249999 (some .crc)).card.run.map Run.firstCause = some (some .crc)
    ∧ ((CardAnswer.badCheck = .badCheck ∧ RunCause.crc = .crc) ∧ CardAnswer.error = .error) := by decide +kernel

theorem test_witness_ARunTimesOut :
    Device.reset.card.run = none ∧ (onCard Device.reset none).card.resetWaits = false
    ∧ (onCard Device.reset none).card.run.map (fun r => (r.firstCause, r.withdrawn)) = some (none, false)
    ∧ (onCard Device.reset (some .timeout)).card.run.map Run.firstCause = some (some .timeout)
    ∧ (onCard Device.reset (some .crc)).card.run.map Run.firstCause = some (some .crc) := by decide +kernel

theorem test_witness_AFlushStarts :
    let d := { holding Device.reset .dirty with pool := { (holding Device.reset .dirty).pool with queue := [0] } }
    let mine := d.pool.queue.filter (fun j => d.ownedBy j .u0)
    (d.card.state = .ready ∧ d.flushing .u0 = false ∧ (d.buf 0).key = some key00 ∧ d.images.u0.isSome = true
      ∧ mine.find? (fun j => (d.buf j).evict) = none ∧ mine.head? = some 0)
    ∧ (let e := d.setBuf 0 { d.buf 0 with evict := true }
      (e.pool.queue.filter (fun j => e.ownedBy j .u0)).find? (fun j => (e.buf j).evict) = some 0)
    ∧ Device.reset.card.state ≠ .ready ∧ (holding Device.reset .flushing).flushing .u0 = true := by decide +kernel

theorem test_witness_AnExpiryQueuesItsBuffer :
    let d := (holding Device.reset .dirty).setBuf 0 { (holding Device.reset .dirty).buf 0 with dirtySince := some 0 }
    ((d.buf 0).dirtySince = some 0 ∧ (d.buf 0).state = .dirty ∧ 0 ∉ d.pool.queue)
    ∧ (let e := d.setBuf 0 { d.buf 0 with state := .flushing }
      (e.buf 0).dirtySince = some 0 ∧ (e.buf 0).state ≠ .dirty)
    ∧ (d.buf 7).dirtySince = none := by decide +kernel

theorem test_witness_APendingChangeApplies :
    let d : Change → Device := fun c => pendingOf (withImage Device.reset) c
    (ready.seq.pending.u0 = none)
    ∧ ((d ⟨none, some false⟩).seq.pending.u0 = some ⟨none, some false⟩
      ∧ (d ⟨none, some false⟩).unitClear .u0 = true ∧ (d ⟨none, some false⟩).units.u0.applyMoment = true)
    ∧ ((d ⟨some (.mount image true), none⟩).unitClear .u0 = true
      ∧ (d ⟨some (.mount image true), none⟩).units.u0.applyMoment = true)
    ∧ ((d ⟨some .eject, none⟩).unitClear .u0 = true ∧ (d ⟨some .eject, none⟩).units.u0.applyMoment = true)
    ∧ (pendingOf (holding spinning .dirty) ⟨some .eject, none⟩).unitClear .u0 = false
    ∧ (pendingOf ready ⟨some .eject, none⟩).units.u0.applyMoment = false
    ∧ (pendingOf (holding Device.reset .dirty) ⟨some .eject, none⟩).unitClear .u0 = false
    ∧ ((d ⟨some .eject, none⟩).units.u0.motor = false ∧ ready.units.u0.motor = true
      ∧ Device.reset.seq.pending = ⟨none, none⟩)
    ∧ (let e := (pendingOf ready ⟨some .eject, none⟩).advance 200000
      e.unitClear .u0 = true ∧ e.units.u0.applyMoment = true ∧ e.ownedBy 0 .u0 = true ∧ e.card.resetWaits = false
        ∧ e.captures.u1 = none ∧ e.micro.isNone = true) := by decide +kernel

/-- A result of four bytes, read in full by four and cut short by three. -/
theorem test_witness_AResultFrameDeliversTheResult :
    let r : CmdResult := ⟨.done, .none, 0x33, []⟩
    ((engine Device.reset (.result r)).port.engine = .result r ∧ r.frame.length ≤ 4 ∧ 3 < r.frame.length)
    ∧ Device.reset.port.engine = .idle := by decide

theorem test_witness_ACursorFrameSetsTheCursor : ([0xFF] : List Byte).length < 2 := by decide

/-- Of ADataInFrameFillsTheWindow and ADataOutFrameReadsTheWindow, with the cursor at its end. -/
theorem test_witness_DataFrames :
    let d := { Device.reset with port := { LoaderPort.reset with cursor := 8192 } }
    ((engine d (.executing .cardReset)).port.engine.busy = true)
    ∧ d.port.engine.busy = false ∧ d.port.cursor ≤ 8192 := by decide

theorem test_witness_APortResetEndsTheCommand :
    Device.reset.port.engine.busy = false
    ∧ (engine Device.reset (.executing (.readBlocks 5 1))).port.engine = .executing (.readBlocks 5 1)
    ∧ (engine Device.reset (.executing (.flush .both))).port.engine = .executing (.flush .both)
    ∧ Device.reset.card.resetWaits = false := by decide

theorem test_witness_BadFramesAreDropped :
    (0xC0 : Byte) ∉ frameTypes ∧ (0x64 : Byte) ∉ commandCodes ∧ Device.reset.port.engine = .idle := by decide

theorem test_witness_ABusyEngineDropsCommands :
    Instr.resume.wf = true ∧ encodeFrame .resume = some (0xC1 :: [0x63])
    ∧ (engine Device.reset (.executing .cardReset)).port.engine ≠ .idle := by decide

theorem test_witness_ParametersOutOfRangeAreRefused :
    Device.reset.port.engine = .idle ∧ 1 < (2 : Byte).toNat ∧ 3 < (4 : Byte).toNat ∧ 2 < (3 : Byte).toNat
    ∧ 7 < (8 : Byte).toNat ∧ 83 < (84 : Byte).toNat ∧ 64 < (65 : Byte).toNat ∧ 16 < (17 : Byte).toNat
    ∧ 255 < (255 : Byte).toNat + (2 : Byte).toNat - 1 ∧ (2 : Byte) ≠ 0xFF ∧ 6 < (7 : Byte).toNat
    ∧ 11 < (12 : Byte).toNat ∧ 4 < (5 : Byte).toNat ∧ 5 < (6 : Byte).toNat := by decide

theorem test_witness_AUnitIsConfigured :
    (Device.reset.port.engine = .idle ∧ unitParam 1 = some .u1
      ∧ configParams 1 1 2 0 = some ⟨true, .sel1, .select, .ready⟩
      ∧ Device.reset.mounted .u1 = false ∧ Device.reset.seq.pending.u1 = none ∧ Device.reset.seq.group = none)
    ∧ ready.mounted .u0 = true
    ∧ (configParams 1 0 2 0 = some ⟨true, .sel0, .select, .ready⟩ ∧ Device.reset.units.u0.enabled = true
      ∧ Device.reset.units.u0.selectLine = .sel0) := by decide +kernel

/-- The header's last block is the last one of the card, and the one after it. -/
theorem test_witness_AMountIsJudged :
    let d := withCard Device.reset
    (unitParam 0 = some .u0 ∧ unitParam 1 = some .u1 ∧ flagParam 1 = some true)
    ∧ d.units.u1.enabled = false ∧ d.units.u0.enabled = true
    ∧ (d.banks.offline = false ∧ d.card.state = .ready ∧ d.seq.pending.u0 = none)
    ∧ ((996 : BitVec 32).toNat + 3 < d.card.capacity.getD 0 ∧ d.card.capacity.getD 0 ≤ (997 : BitVec 32).toNat + 3)
    ∧ Device.reset.card.state ≠ .ready ∧ (pendingOf d ⟨some .eject, none⟩).seq.pending.u0.isSome = true
    ∧ ({ d with banks := { d.banks with fip := true, offline := true } } : Device).banks.offline = true := by
  decide +kernel

theorem test_witness_AValidatedImageIsStagedOrPending :
    let d := ready
    let w : Nat → Nat → Walk := fun n h => { Walk.start with sum := n, dataHigh := h }
    image.blocksNeeded = 84 ∧ (w 83 0).sum < image.blocksNeeded ∧ image.blocksNeeded ≤ (w 84 999).sum
    ∧ d.card.capacity.getD 0 ≤ (w 84 1000).dataHigh ∧ (w 84 999).dataHigh < d.card.capacity.getD 0
    ∧ (∃ x ∈ d.recordsOf .u0, x.spanLow ≤ image.spanHigh ∧ image.spanLow ≤ x.spanHigh)
    ∧ d.recordsOf .u1 = [] ∧ d.seq.group = none ∧ (groupOf d Change.empty).seq.group.isSome = true
    ∧ (let e := holding Device.reset .dirty
      0 < 8 ∧ e.ownedBy 0 .u0 = true ∧ (e.buf 0).state = .dirty) := by decide +kernel

theorem test_witness_AnEjectIsJudged :
    (ready.port.engine = .idle ∧ unitParam 0 = some .u0 ∧ ready.seq.pending.u0 = none ∧ ready.seq.group = none
      ∧ ready.mounted .u0 = true)
    ∧ (pendingOf ready ⟨some .eject, none⟩).seq.pending.u0 ≠ none ∧ Device.reset.mounted .u0 = false
    ∧ ((groupOf ready Change.empty).seq.group.isSome = true ∧ (groupOf ready Change.empty).mounted .u0 = true)
    ∧ (groupOf Device.reset ⟨some (.mount image true), none⟩).seq.group
      = some ⟨⟨some (.mount image true), none⟩, Change.empty⟩ := by decide +kernel

/-- Of AnEjectIsJudged and TheGroupIsHeldReleasedOrDiscarded, R158 a and b: the DIRTY buffer of the unit is queued, and the
write of its DIRTY header is asked for. -/
theorem test_placement :
    let d := { holding spinning .dirty with images := ⟨some { image with headerState := .dirty }, none⟩ }
    (((d.buf 0).state = .dirty ∧ d.ownedBy 0 .u0 = true ∧ d.pool.queue = [] ∧ d.card.requests = [])
      ∧ d.port.engine = .idle ∧ d.seq.group = none ∧ d.seq.pending.u0 = none ∧ d.mounted .u0 = true)
    ∧ ((run (.eject 0) d).pool.queue = [0] ∧ (run (.eject 0) d).card.requests.map Request.who = [.header .u0])
    ∧ (let e := run .release (groupOf d ⟨some .eject, none⟩)
      e.pool.queue = [0] ∧ e.card.requests.map Request.who = [.header .u0]) := by decide +kernel

theorem test_witness_ProtectIsSetOrStaged :
    (ready.port.engine = .idle ∧ unitParam 0 = some .u0 ∧ flagParam 0 = some false ∧ ready.seq.group = none
      ∧ ready.images.u0 = some image ∧ image.readOnly = false)
    ∧ Device.reset.images.u0 = none
    ∧ (groupOf ready ⟨some (.mount { image with readOnly := true } true), none⟩).seq.group.isSome = true := by
  decide +kernel

theorem test_witness_TheGroupIsHeldReleasedOrDiscarded :
    (Device.reset.port.engine = .idle ∧ Device.reset.seq.group = none)
    ∧ (let g : PerUnit Change := ⟨⟨some .eject, none⟩, Change.empty⟩
      (groupOf ready ⟨some .eject, none⟩).seq.group = some g
        ∧ g.u0 ≠ ⟨none, none⟩ ∧ g.u1 = ⟨none, none⟩ ∧ (groupOf ready ⟨some .eject, none⟩).seq.pending.u0 = none
        ∧ (pendingOf (groupOf ready ⟨some .eject, none⟩) ⟨some .eject, none⟩).seq.pending.u0 ≠ none) := by
  decide +kernel

/-- Sectors 192 to 255, the last numbers that 64 sectors can have; and two sectors, which fit the window. -/
theorem test_witness_SectorCommandsAreJudged :
    (Device.reset.port.engine = .idle ∧ sectorParams .verify 0 83 1 192 64
        = some ⟨.verify, ⟨.u0, 83, 1⟩, 192, 64⟩ ∧ 192 + 64 ≤ 256)
    ∧ (sectorParams .read 0 0 0 1 2 = some sectors1 ∧ sectors1.first + sectors1.count ≤ 256)
    ∧ (flagParam 1 = some true ∧ (sectorParams (.write true) 0 0 0 1 2).isSome = true
      ∧ image.readOnly = false)
    ∧ Device.reset.mounted .u0 = false ∧ (withImage Device.reset).mounted .u0 = true
    ∧ (withImage Device.reset).banks.offline = false
    ∧ ({ withImage Device.reset with images := ⟨some { image with geometry := ⟨small, 1, 1, []⟩ }, none⟩ } :
        Device).formatOf ⟨.u0, 83, 1⟩ = none
    ∧ ((withImage Device.reset).formatOf key00 = some small ∧ 8192 < 64 * sizeLen 6
      ∧ 2 * sizeLen small.sizeCode ≤ 8192 ∧ (withImage Device.reset).readableHolder key00 = none) := by
  decide +kernel

/-- Of SectorsAreRead, SectorsAreWritten and SectorsAreVerified: what the three commands on sectors 1 and 2 of a readable track rest on; sector 3 is
not there. -/
theorem test_witness_SectorsAreServed :
    (ready.port.engine = .idle ∧ (∀ j < 8, j ∈ ready.pool.lru) ∧ ready.banks.offline = false
      ∧ ready.mounted .u0 = true ∧ ready.formatOf key00 = some small ∧ 2 * sizeLen small.sizeCode ≤ 8192
      ∧ ready.readableHolder key00 = some 0 ∧ 2 * (ready.buf 0).dataLen ≤ 8192)
    ∧ ((ready.buf 0).sector? 3 = none
      ∧ sectorParams .verify 0 0 0 2 2 = some { sectors1 with op := .verify, first := 2 })
    ∧ (∃ a b, [1, 2].map (ready.buf 0).sector? = [a, b].map some
      ∧ (∀ j < 128, ready.port.window.read (1 * 128 + j) = (ready.buf 0).data.read (b.logical * 128 + j)))
    ∧ (sectorParams .read 0 0 0 1 2 = some sectors1
      ∧ sectorParams (.write false) 0 0 0 1 2 = some { sectors1 with op := .write false }
      ∧ sectorParams .verify 0 0 0 1 2 = some { sectors1 with op := .verify } ∧ flagParam 0 = some false)
    ∧ (ready.images.u0 = some image ∧ image.readOnly = false
      ∧ ({ image with readOnly := true } : MountRecord).readOnly = true)
    ∧ ((∀ y ∈ [1, 2], ((ready.buf 0).sector? y).isSome = true) ∧ ((ready.buf 0).sectors.map Sector.number).Nodup
      ∧ ((ready.buf 0).sectors.map Sector.logical).Nodup ∧ (ready.buf 0).data.wf = true)
    ∧ (let w := ready.port.window.write 255 [9]
      w.read (1 * 128 + 127) ≠ (ready.buf 0).data.read (1 * 128 + 127)
        ∧ ∀ j' < 127, w.read (1 * 128 + j') = (ready.buf 0).data.read (1 * 128 + j')) := by
  refine ⟨by decide +kernel, by decide +kernel, ?_, by decide +kernel, by decide +kernel, by decide +kernel,
    by decide +kernel⟩
  refine ⟨((ready.buf 0).sectors.getD 0 ⟨0, 0, 0, SectorFlags.clear, false, false⟩),
    ((ready.buf 0).sectors.getD 1 ⟨0, 0, 0, SectorFlags.clear, false, false⟩), by decide +kernel, by decide +kernel⟩

/-- Sixteen blocks that end with the card, one more, and a block of the image's span. -/
theorem test_witness_BlockCommandsWaitForOneRun :
    let d := withImage Device.reset
    (d.port.engine = .idle ∧ 1 ≤ (16 : Byte).toNat ∧ (16 : Byte).toNat ≤ 16 ∧ d.card.state = .ready)
    ∧ ((984 : BitVec 32).toNat + (16 : Byte).toNat - 1 < d.card.capacity.getD 0
      ∧ d.card.capacity.getD 0 ≤ (985 : BitVec 32).toNat + (16 : Byte).toNat - 1)
    ∧ Device.reset.card.state ≠ .ready
    ∧ (∃ m ∈ d.recordsOf .u0, m.spanLow ≤ (103 : BitVec 32).toNat + 0 ∧ (103 : BitVec 32).toNat + 0 ≤ m.spanHigh)
    ∧ (d.recordsOf .u1 = [] ∧ ∀ m ∈ d.recordsOf .u0, m.spanHigh < (984 : BitVec 32).toNat)
    ∧ (engine d (.executing (.readBlocks 5 1))).port.engine = .executing (.readBlocks 5 1)
    ∧ (engine d (.executing (.writeBlocks 5 1))).port.engine = .executing (.writeBlocks 5 1) := by decide +kernel

theorem test_witness_AFlushWaitsForItsUnits :
    let d := holding Device.reset .dirty
    (d.port.engine = .idle ∧ flushParam 0xFF = some .both ∧ flushParam 1 = some (.one .u1)
      ∧ FlushSel.names .both .u0 = true)
    ∧ (d.ownedBy 0 .u0 = true ∧ (d.buf 0).state = .dirty ∧ d.card.state = .ready)
    ∧ (Device.reset.card.state ≠ .ready ∧ Device.reset.images = ⟨none, none⟩
      ∧ ∀ i < 8, (Device.reset.buf i).state = .free)
    ∧ ({ d with card := CardRecord.reset } : Device).card.state ≠ .ready
    ∧ (let waiting := engine d (.executing (.flush .both))
      waiting.port.engine = .executing (.flush .both) ∧ waiting.flushNames .u0 = true ∧ d.flushNames .u0 = false
        ∧ waiting.banks.entryOwed = false ∧ waiting.news = [] ∧ bufferIds.find? waiting.workIdle = none
        ∧ (waiting.serveLookup .u0).isNone = true ∧ (waiting.serveLookup .u1).isNone = true ∧ waiting.pool.waits = []
        ∧ waiting.flushHolds .both = false ∧ waiting.flushHolds (.one .u1) = true)
    ∧ (d.images.u0 = some image ∧ image.headerState = .clean ∧ d.card.requests = [] ∧ d.news = []
      ∧ ({ image with headerState := .dirty } : MountRecord).headerState = .dirty) := by decide +kernel

theorem test_witness_UnitStatusReadsAndClearsTheEvents :
    ready.port.engine = .idle ∧ unitParam 1 = some .u1 := by decide +kernel

theorem test_witness_ACardResetInitializesAgain :
    (Device.reset.port.engine = .idle ∧ (∀ p ∈ [Device.reset.mounted .u0, Device.reset.mounted .u1], p = false)
      ∧ Device.reset.seq.pending = ⟨none, none⟩ ∧ Device.reset.card.state = .absent)
    ∧ ready.mounted .u0 = true
    ∧ (let d := onCard Device.reset none
      d.images = ⟨none, none⟩ ∧ d.card.state = .ready ∧ d.card.run ≠ none)
    ∧ (let d := withCard Device.reset
      d.card.state = .ready ∧ d.card.run = none ∧ d.card.retry = none ∧ d.card.requests = []) := by decide +kernel

theorem test_witness_TheBankCommandsActOnTheBanks :
    Device.reset.port.engine = .idle ∧ (7 : Byte).toNat < 8 ∧ bankParam 3 = some .card
    ∧ causeParam .card 5 = some .initFail ∧ causeParam .track 11 = some .formatTableFull
    ∧ flagParam 1 = some true := by decide

theorem test_witness_AReportReachesItsBank :
    let b := FaultBanks.powerOn
    b.drive.enabled .stepLimit = false ∧ b.drive.enabled .writeNoTrack = true ∧ b.drive.record = none
    ∧ ({ b.drive with record := some ⟨.note, .writeNoDisk, .drive, none, none, none⟩ } : Bank).record.isSome = true
    ∧ (let lost : Report := ⟨.uncorrected, .writeNoTrack, .drive, none, none, none⟩
      ((ready.report lost).report lost).banks.entryOwed = true ∧ ready.port.engine = .idle
        ∧ (engine ready (.executing (.sectors sectors1))).port.engine = .executing (.sectors sectors1)) := by
  decide +kernel

theorem test_witness_ALayoutFillsItsRevolution :
    (fitLayout caseC 0 0 2).map (fun l => (l.gap3, l.table.length)) = some (36, 10) := by decide +kernel

/-- 3.2 and 3.3: image block 44 lies in E1, 14 blocks from its start; block 129 is its last. -/
theorem test_witness_ALookupStaysInItsExtent :
    (0 ≤ 44 ∧ locate [⟨10000, 30⟩, ⟨20000, 100⟩] 0 44 = some (20014, 86))
    ∧ locate [⟨10000, 30⟩, ⟨20000, 100⟩] 0 129 = some (20099, 1) := by decide

theorem test_witness_AWrittenHeaderIsGood :
    let m := { image with
      headerCopy := List.replicate 2048 0
      geometry := { image.geometry with overrides := List.replicate 16 ⟨0, 0, .both, small⟩ } }
    m.headerCopy.length = 2048 ∧ m.geometry.overrides.length ≤ 16 := by decide +kernel

set_option maxRecDepth 8000 in
/-- Of AWrittenHeaderIsGood: a table whose first entry is the track's own; the second moves up and the new one follows it,
with an R list; and with no new one the second is left. -/
theorem test_witness_TheHeaderCopyIsChanged :
    let old : List OverrideEntry := [⟨0, 0, .head0, small⟩, ⟨0, 83, .both, small⟩]
    let m := { image with
      headerCopy := List.replicate 88 0 ++ encodeEntry ⟨0, 0, .head0, small⟩ ++ encodeEntry ⟨0, 83, .both, small⟩
        ++ List.replicate 1808 0
      geometry := { image.geometry with overrides := old } }
    let swapped : TrackFormat := { small with rList := some [2, 1] }
    (m.headerCopy.length = 2048 ∧ m.geometry.overrides.length ≤ 16 ∧ swapped.valid = true)
    ∧ (match m.changeOverride 0 0 (some swapped) with
      | .changed m1 => byteAt m1.headerCopy 13 == 2 && parseEntry m1.headerCopy 0 == old[1]?
        && parseEntry m1.headerCopy 1 == some ⟨0, 0, .head0, swapped⟩
      | _ => false) = true
    ∧ (match m.changeOverride 0 0 none with
      | .changed m1 => byteAt m1.headerCopy 13 == 1 && parseEntry m1.headerCopy 0 == old[1]?
      | _ => false) = true := by decide +kernel

/-- The wait for a run ends the reset; a run just within and just beyond the capacity; one whose requester withdrew. -/
theorem test_witness_ARunEndsAReset :
    let d : Nat → Device := fun n =>
      { onCard Device.reset none with card := { (onCard Device.reset none).card with capacity := some n, resetWaits := true } }
    ((d 6).card.run.any (fun r => decide (r.req.block + r.req.count ≤ (d 6).card.capacity.getD 0))) = true
    ∧ ((d 5).card.run.any (fun r => decide (r.req.block + r.req.count ≤ (d 5).card.capacity.getD 0))) = false
    ∧ (d 6).card.resetWaits = true
    ∧ ({ (onCard Device.reset none).card with run := (onCard Device.reset none).card.run.map (fun r =>
        { r with withdrawn := true }) } : CardRecord).run.map Run.withdrawn = some true := by decide +kernel

/-- Of WriteDataIsCaptured: the first mark, index marks, FM marks and plain bytes. -/
theorem test_witness_MarksAreCaptured :
    let special : Byte := 0xC2
    let first : Capture := { writing with
      basis := ⟨.mfm, 500000⟩, basisFixed := false, startPhase := 0, fields := []
      specials := [(3072, special, .mfm500), (3056, special, .mfm500), (3040, special, .mfm500)] }
    (first.basisFixed = false ∧ slotAt first.basis.rate 199999 < first.startSlot + slotsPerRev first.basis.rate
      ∧ (wireBasis .mfm500).enc = .mfm)
    ∧ (writing.basisFixed = true ∧ writing.basis = wireBasis .fm125 ∧ (wireBasis .fm125).enc = .fm
      ∧ slotAt 125000 204927 < writing.startSlot + slotsPerRev 125000
      ∧ writing.startSlot + slotsPerRev 125000 ≤ slotAt 125000 204928)
    ∧ (writing.specials.length ≤ 3 ∧ writing.basis ≠ wireBasis .mfm250)
    ∧ (first.specials.length ≤ 3 ∧ (0xFE : Byte) ≠ 0xFC) := by decide +kernel

/-- A sector of a format write: its ID field with a CRC of 00 00, and its data field of 128 × 2^n bytes and a CRC. -/
def writtenFields (r n : Nat) : List CapField :=
  [⟨.ident, 70, [0, 0, BitVec.ofNat 8 r, BitVec.ofNat 8 n, 0, 0], []⟩,
    ⟨.data, 94, List.replicate (128 * 2 ^ n + 2) 0, (List.range (128 * 2 ^ n + 2)).map (95 + ·)⟩]

/-- A capture of a format write of track (0, 0). -/
def formatting (fs : List CapField) : Capture := { writing with startPhase := 4095, fields := fs }

/-- The outcome of the parse of the fields of a format write. -/
def parsed (fs : List CapField) : Except Cause (List WrittenSector) := parseFormatWrite .fm fs

/-- Of AWriteGateReleaseEndsTheCapture: a capture past its cap, of an unformatted track, of a track that is not readable;
a spill to the next sector, and the last slot before it; a stray write. -/
theorem test_witness_CapturesAreDecoded :
    (({ writing with capReached := true } : Capture).capReached = true ∧ ready.formatOf ⟨.u0, 84, 0⟩ = none
      ∧ (withImage spinning).readableHolder key00 = none ∧ ready.hasFlagMap .u0 = false)
    ∧ (ready.buf 0).layout.any (fun l =>
      let last (p : Nat) : Capture := { writing with lastPhase := some p }
      decide (sectorWriteAt l (last 16127) = some 0 ∧ l.start 1 = 252 ∧ (last 16127).endSlot? = some 251
        ∧ sectorWriteAt l (last 16128) = some 0 ∧ (last 16128).endSlot? = some 252
        ∧ sectorWriteAt l { writing with fields := [] } = none ∧ writing.endSlot?.isSome = true)) = true
    ∧ 4928 ≥ slotPhase 125000 (preamble .fm) := by decide +kernel

/-- Of AWriteGateReleaseEndsTheCapture: format writes, up to the last phase at which one begins. -/
theorem test_witness_FormatsAreDecoded :
    (∃ f ∈ (formatting (writtenFields 1 0)).fields, f.kind = .ident)
    ∧ (formatting []).startPhase < slotPhase 125000 (preamble .fm)
    ∧ parsed [⟨.data, 0, [], []⟩] = .ok [] ∧ parsed [⟨.ident, 0, [0, 0, 1, 0, 0], []⟩] = .error .formatSize
    ∧ parsed [⟨.ident, 0, [0, 0, 1, 7, 0, 0], []⟩] = .error .formatFit
    ∧ parsed [⟨.ident, 0, [0, 0, 1, 6, 0, 0], []⟩] = .error .formatSize
    ∧ (parsed (writtenFields 1 0 ++ writtenFields 2 1)).toOption.map (List.map WrittenSector.n) = some [0, 1]
    ∧ (parsed (writtenFields 1 0 ++ writtenFields 2 0)).toOption.map (List.map WrittenSector.r) = some [1, 2]
    ∧ image.geometry.formatOf 0 0 = some small ∧ small.equalOn { small with interleave := 2 } 0 0 2 = true
    ∧ fitLayout { small with sectors := 25 } 0 0 2 = none := by decide +kernel

/-- Of AWriteGateReleaseEndsTheCapture: the sectors swapped change the format, sixteen other entries refuse it. -/
theorem test_witness_OverridesAreChanged :
    let swapped : TrackFormat := { small with rList := some [2, 1] }
    let full : MountRecord := { image with geometry := { image.geometry with
      overrides := List.replicate 16 ⟨0, 83, .both, small⟩ } }
    swapped.dataSize = small.dataSize ∧ swapped.equalOn small 0 0 2 = false
    ∧ image.changeOverride 0 0 (some swapped) ≠ .full ∧ full.changeOverride 0 0 (some swapped) = .full
    ∧ (match image.changeOverride 0 0 (some swapped) with
      | .changed m => m.headerState == .dirty && m.geometry.formatOf 0 0 == some swapped
      | _ => false) = true
    ∧ (match ({ image with headerState := .writing } : MountRecord).changeOverride 0 0 (some swapped) with
      | .changed m => m.reDirtied
      | _ => false) = true
    ∧ (({ small with sizeCode := 1 } : TrackFormat).dataSize ≠ small.dataSize)
    ∧ (∀ a ∈ [(⟨199999, 1⟩ : PhaseSpan), ⟨0, 200000⟩], 0 < a.len) := by decide +kernel

/-- The state of the stream at a slot, with an open section. -/
def atSlot (n : Nat) (x : Delivery) (flags : SectorFlags) : Device :=
  let d := { ready.modUnit .u0 (fun r => { r with phase := n * 64 }) with delivery := ⟨x, Delivery.empty⟩ }
  d.setBuf 0 { d.buf 0 with sectors := (d.buf 0).sectors.map (fun t => { t with flags := flags }) }

/-- Of AnIdSectionIsDelivered: the first slots of the INDEX and DATA sections, and the data mark slot of an open one. -/
theorem test_witness_SectionsAreDelivered :
    let open0 : Delivery := ⟨some (.data 0), none, some .present, none, none⟩
    ((atSlot 32 Delivery.empty SectorFlags.clear).nextSlot .u0).2 = 32
    ∧ ((atSlot 88 Delivery.empty SectorFlags.clear).nextSlot .u0).2 = 64 + 24
    ∧ ((atSlot 94 open0 SectorFlags.clear).nextSlot .u0).2 = 64 + 30
    ∧ ((atSlot 94 open0 SectorFlags.clear).delivery.get .u0).openSection = some (.data 0)
    ∧ ((atSlot 94 open0 SectorFlags.clear).delivery.get .u0).dataDecision = some .present
    ∧ (∀ j < 8, j ∈ (atSlot 94 open0 SectorFlags.clear).pool.lru)
    ∧ (∀ b ∈ [true, false],
      ((((atSlot 94 open0 { SectorFlags.clear with noData := b }).buf 0).sectorAt 0).map (fun t => t.flags.noData))
        = some b)
    ∧ ((ready.buf 0).layout.any (fun l => decide (l.start 0 = 64 ∧ open0.byteAt l (64 + 24 + 5) = (0x00, false)))) = true
    := by decide +kernel

/-- Of AnIdSectionIsDelivered: the slots of an open section, its last one and the ones outside; slots that begin the sections
of a sector that is not visible. -/
theorem test_witness_SlotsOfASection :
    let at0 (n : Nat) (sec : Option StreamSection) : Device :=
      atSlot n { Delivery.empty with openSection := sec } SectorFlags.clear
    (∀ n ∈ [33, 38, 65, 76, 77, 93, 95], ((at0 n none).nextSlot .u0).2 = n ∧ (at0 n none).streamMode .u0 = .track
      ∧ n ≠ 32 ∧ (ready.buf 0).layout.any (fun l => decide (∀ k < l.sectors, n ≠ l.start k ∧ n ≠ l.start k + 24)) = true)
    ∧ ((at0 38 (some .index)).delivery.get .u0).openSection = some .index
    ∧ (ready.buf 0).layout.any (fun l => decide ((l.idSpan 0).2 = 76 ∧ (l.dataSpan 0).2 = 224 ∧ l.indexSpan = (32, 38)))
      = true
    ∧ (let hidden := (atSlot 64 Delivery.empty SectorFlags.clear).setBuf 0 { ready.buf 0 with completion := some 4097 }
      (hidden.nextSlot .u0).2 = 64
        ∧ (hidden.buf 0).layout.any (fun l => !(hidden.buf 0).visible l 0 && decide (l.start 0 = 64)) = true) := by
  decide +kernel

/-- Of ARemovedCardTakesEverything: nothing carried; unsaved buffers of one unit, of both and of none. -/
theorem test_witness_ARemovalIsReported :
    let both := (holding Device.reset .dirty).setBuf 1 { (holding Device.reset .dirty).buf 0 with
      key := some { key00 with unit := .u1 } }
    (withCard Device.reset).card.state ≠ .absent ∧ (withCard Device.reset).mounted .u0 = false
    ∧ (withCard Device.reset).seq.pending = ⟨none, none⟩
    ∧ (∀ d ∈ [withCard Device.reset, holding Device.reset .dirty, both, ready], ∀ i < 8,
      (d.buf i).state = .free → (d.buf i).work = none)
    ∧ ((holding Device.reset .dirty).unsavedCount .u0 = 1 ∧ (holding Device.reset .dirty).unsavedCount .u1 = 0)
    ∧ (both.unsavedCount .u0 = 1 ∧ both.unsavedCount .u1 = 1)
    ∧ (ready.unsavedCount .u0 = 0 ∧ ready.unsavedCount .u1 = 0 ∧ ready.mounted .u0 = true) := by decide +kernel

/-- Of AFlushStarts: blocks written whole and in part, and the ends of a flush. -/
theorem test_witness_AFlushEnds :
    let big : TrackFormat := ⟨.mfm, 250000, 2, 2, 1, 84, 1, 0, none⟩
    let m := buildRecord 100 [] ⟨big, 84, 2, []⟩
    let work : Work := { todo := [], stage := .next, taken := [], failed := [] }
    let x : Layout → TrackBuffer := fun l =>
      { (ready.buf 0) with
        layout := some l, state := .flushing, work := some work
        sectors := l.sectorTable.map (fun t => { t with inFlush := true }) }
    let d : Layout → Device := fun l => ready.setBuf 0 (x l)
    ((fitLayout big 0 0 2).any (fun l => flushBlocks m key00 (x l) == [⟨0, .whole⟩, ⟨1, .whole⟩]
      && (x l).sectors.all (fun t => decide (t.logical < (x l).sectors.length))
      && decide (((x l).sectors.map Sector.logical).Nodup))) = true
    ∧ ((fitLayout small 0 0 2).any (fun l => flushBlocks image key00 (x l) == [⟨0, .partialBlock⟩]
      && (bufferIds.find? (d l).workIdle == some 0) && ((d l).buf 0).key == some key00
      && ((d l).buf 0).work == some work && !(d l).banks.entryOwed && (d l).news.isEmpty
      && !((d l).buf 0).reDirtied && (d l).images.get key00.unit == some image
      && !(d l).flushNames .u0 && (engine (d l) (.executing (.flush .both))).flushNames .u0)) = true
    ∧ ready.bufCurrent 0 = true ∧ (holding Device.reset .dirty).bufCurrent 0 = false
    ∧ (0 ∉ ready.pool.queue ∧ 2000000 ≤ ({ ready with now := 2000000 } : Device).now)
    ∧ ({ work with failed := [0] } : Work).failed ≠ [] := by decide +kernel

/-- A header of one cylinder and one head of two sectors, with a CRC. -/
def headerStart : List Byte :=
  [0x44, 0x45, 0x49, 0x31, 1, 0, 1, 1, 0, 0, 0, 200, 7, 0, 0, 0, 0, 2, 0, 1, 27, 1, 0, 0] ++ List.replicate 2022 0
def header : List Byte := headerStart ++ crcBytes (crc headerStart)

/-- Of AValidatedImageIsStagedOrPending: a header that passes, one with three heads, and one of another version. -/
theorem test_witness_AHeaderIsValidated :
    (bytesAt header 0 4 = [0x44, 0x45, 0x49, 0x31] ∧ byteAt header 4 = 1
      ∧ bytesAt header 2046 2 = crcBytes (crc (bytesAt header 0 2046)) ∧ bytesAt header 0 2048 = header)
    ∧ (headerGeometry header).map Geometry.heads = some 1 ∧ headerGeometry (putBytes header 7 [3]) = none
    ∧ byteAt (putBytes header 4 [2]) 4 ≠ 1 := by
  have len : headerStart.length = 2046 := by decide +kernel
  have left : bytesAt header 0 2046 = headerStart := len ▸ bytesAt_append_left headerStart _
  have right : bytesAt header 2046 2 = crcBytes (crc headerStart) := len ▸ bytesAt_append_right headerStart _
  have whole : bytesAt header 0 2048 = header := by
    have h := bytesAt_append_left header []
    rwa [List.append_nil, show header.length = 2048 by simp [header, len, crcBytes]] at h
  exact ⟨⟨by decide +kernel, by decide +kernel, by rw [left, right], whole⟩, by decide +kernel, by decide +kernel,
    by decide +kernel⟩

/-- A MOUNT of the header at block 100 in execution, with its run of four blocks on the card. -/
def validating (w : Walk) : Device :=
  let r : Run :=
    { req := { ask .engine 0 with count := 4, op := .mount, unit := some .u0 }, cls := .d, firstCause := none, granted := 0
      bytes := [], withdrawn := false }
  engine { withCard Device.reset with
      card := { (withCard Device.reset).card with capacity := some 9, run := some r }, now := 249999 }
    (.executing (.mount { unit := .u0, header := 5, protect := false, walk := w }))

/-- Of AValidatedImageIsStagedOrPending: the run of the header, the run of a block of descriptors, and the walk at a DATA,
a JUMP, an END, a block it does not hold, the capacity, and the 256th and the 257th fetch. -/
theorem test_witness_AChainIsWalked :
    (∀ w ∈ [Walk.start, { Walk.start with draft := some image }],
      (validating w).micro.isNone = true ∧ (validating w).card.state = .ready
      ∧ (validating w).card.run.any (fun r => decide (r.req.who = .engine ∧ r.req.kind = .read
        ∧ r.firstCause = none ∧ r.withdrawn = false ∧ r.req.count = 4)) = true
      ∧ (validating w).card.resetWaits = false ∧ (validating w).now < 0 + 250000
      ∧ 5 + 4 ≤ (validating w).card.capacity.getD 0)
    ∧ Walk.start.draft = none
    ∧ (readDescriptor [1, 0, 0, 9, 0, 0, 0, 7] ⟨8, 0, 0⟩ = .data ⟨7, 9⟩
      ∧ readDescriptor [2, 7, 0, 0, 0, 0, 0, 8] ⟨8, 0, 0⟩ = .jump 8 7
      ∧ readDescriptor [] ⟨8, 7, 7⟩ = .fin)
    ∧ (let w : Walk := { Walk.start with buffer := some (8, []), pos := ⟨9, 0, 0⟩, fetches := 255 }
      w.buffer.map Prod.fst ≠ some w.pos.block ∧ 9 ≤ w.pos.block ∧ ¬ 256 < w.fetches + 1 ∧ 256 < 256 + 1) := by
  decide +kernel

/-- A track to be filled into buffer 0. -/
def filling : Device :=
  { ({ withImage spinning with pool := { (withImage spinning).pool with waits := [] } } : Device).startFill 0 key00 with
    news := [] }

/-- Of SectorCommandsAreJudged: fills that are requested for the current track, for a command and ahead; the buffer each is
given, FREE, CLEAN or none; and a DIRTY buffer to be marked. -/
theorem test_witness_FillsAreAllocated :
    let other : TrackKey := { key00 with head := 1 }
    let asked := engine (withImage Device.reset) (.executing (.sectors { sectors1 with key := other }))
    let held : BufferState → Device := fun b => { withImage spinning with pool := { (withImage spinning).pool with
      buffers := List.replicate 8 { (ready.buf 0) with state := b, key := some { key00 with cyl := 83 } } } }
    let waiting : Device → TrackKey → Device := fun d k => { d with pool := { d.pool with waits := [k] } }
    ((withImage spinning).layoutFor key00 ≠ none ∧ (∀ i < 8, ((withImage spinning).buf i).state = .free)
      ∧ key00 ∉ (withImage spinning).pool.waits ∧ (withImage spinning).purpose key00 = .current)
    ∧ asked.purpose other = .loader ∧ (withImage spinning).purpose other = .prefetch
    ∧ (withImage spinning).pool.lru = [0, 1, 2, 3, 4, 5, 6] ++ 7 :: []
    ∧ (withImage spinning).allocatable = some 7 ∧ (held .clean).allocatable = some 7
    ∧ (held .dirty).allocatable = none ∧ (held .clean).bufCurrent 7 = false
    ∧ (∀ d ∈ [waiting (held .dirty) key00, waiting (withImage spinning) key00, waiting (held .dirty) other],
      d.banks.entryOwed = false ∧ d.news = [] ∧ bufferIds.find? d.workIdle = none ∧ (d.serveLookup .u0).isNone = true
      ∧ (d.serveLookup .u1).isNone = true ∧ ∀ i < 8, (d.buf i).evict = false)
    ∧ (waiting (held .dirty) key00).purpose key00 = .current
    ∧ (waiting (held .dirty) other).purpose other = .prefetch
    ∧ (waiting asked other).pool.waits.head? = some other := by decide +kernel

/-- Of SectorCommandsAreJudged: a fill with its run on the card, and a fill that is complete, with and without a capture and
a command that wait on it. -/
theorem test_witness_FillsComplete :
    let fill (stage : WorkStage) (todo : List WorkBlock) : Device :=
      filling.setBuf 0 { filling.buf 0 with work := some { todo := todo, stage := stage, taken := [], failed := [] } }
    let read := fill (.reading 300 1) [⟨0, .data⟩]
    let done := fill .next []
    ((read.buf 0).state = .filling ∧ (read.buf 0).key = some key00
      ∧ (read.buf 0).work.map Work.stage = some (.reading 300 1) ∧ read.images.u0 = some image)
    ∧ (done.banks.entryOwed = false ∧ done.news = [] ∧ bufferIds.find? done.workIdle = some 0
      ∧ (done.buf 0).state = .filling ∧ (done.buf 0).key = some key00 ∧ (done.buf 0).work.map Work.todo = some [])
    ∧ done.captures.u0 = none
    ∧ (capture done { writing with state := .pending }).captures.u0.map (fun c => (c.state, c.key))
      = some (.pending, key00)
    ∧ (engine done (.executing (.sectors sectors1))).port.engine = .executing (.sectors sectors1)
    ∧ sectors1.key = key00 ∧ done.purpose key00 = .current
    ∧ (filling.buf 0).sectors[1]?.isSome = true ∧ 255 < (filling.buf 0).sectors.length * (filling.buf 0).dataLen := by
  decide +kernel

/-- R78, R51: 17 sectors of 128 bytes on one track and a flag map: image block 4 holds the data of sector 16 and, from its
byte 128 on, the 17 flag bytes; a fill takes both, the flags of sector 16 from byte 144. -/
theorem test_takeBlock :
    let m := { buildRecord 100 [] ⟨{ small with sectors := 17 }, 1, 1, []⟩ with hasFlagMap := true }
    let x := { TrackBuffer.free with
      layout := fitLayout { small with sectors := 17, gap3 := 1 } 0 0 1
      sectors := (List.range 17).map (fun j => (⟨j, j, j, ⟨false, false, false, false, false⟩, false, false⟩ : Sector)) }
    let y := x.takeBlock m key00 4 (List.replicate 128 0x55 ++ List.replicate 16 0 ++ [0x03])
    x.dataLen = 128 ∧ y.data.read 2048 = 0x55 ∧ y.data.read 2047 = 0
    ∧ (y.sectors[16]?.map Sector.flags) = some ⟨true, true, false, false, false⟩
    ∧ (y.sectors[15]?.map Sector.flags) = some ⟨false, false, false, false, false⟩ := by decide +kernel

/-- R126 d, R115: a pause of one slot of 64 µs before the CRC's low byte puts the end of the CRC one slot later, and the
measured gap is one less; here the last byte stands at slot 225, and the next sector starts at slot 240. -/
theorem test_measuredGap :
    let g : CapField := ⟨.data, 94, List.replicate 130 0, (List.range 129).map (95 + ·) ++ [225]⟩
    let w := writtenSector .fm ⟨.ident, 70, [0, 0, 1, 0, 0, 0], []⟩ g
    w.crcEnd = 226 ∧ measuredGap .fm 1 [w, { w with idSlot := 246 }] = 14 := by decide +kernel

/-- Of AFlushStarts, AGrantGoesByClassAndAge and ALookupStaysInItsExtent: a FLUSHING buffer whose READ or WRITE is on the
card, its next block whole or partial, a header and the Data Window to be written, and the card not READY. -/
theorem test_witness_ARunOfAFlush :
    let flush (stage : WorkStage) (kind : BlockKind) : Device :=
      let d := holding Device.reset .flushing
      d.setBuf 0 { d.buf 0 with work := some { todo := [⟨0, kind⟩], stage := stage, taken := [], failed := [] } }
    (∀ stage ∈ [WorkStage.reading 300 1, .writing 300 1, .lookup 1], ∀ kind ∈ [BlockKind.whole, .partialBlock],
      ((flush stage kind).buf 0).state = .flushing ∧ ((flush stage kind).buf 0).key = some key00
      ∧ ((flush stage kind).buf 0).work.map Work.stage = some stage
      ∧ ((flush stage kind).buf 0).work.map Work.todo = some [⟨0, kind⟩]
      ∧ (flush stage kind).images.u0 = some image ∧ (flush stage kind).card.state = .ready)
    ∧ (ask .engine 0).kind = .read ∧ ({ ask (.header .u0) 0 with kind := .write } : Request).who = .header .u0
    ∧ Device.reset.card.state ≠ .ready ∧ (filling.buf 0).state = .filling := by decide +kernel

/-- Of SectorsAreWritten: a CLEAN buffer that is current, one that is not, and a FLUSHING one. -/
theorem test_witness_AWriteIsApplied :
    0 < ready.pool.buffers.length ∧ (ready.buf 0).state = .clean ∧ 0 ∉ ready.pool.queue
    ∧ ready.bufCurrent 0 = true ∧ (ready.seq.pending.get .u0).isSome = false ∧ ready.flushNames .u0 = false
    ∧ (stopped ready).bufCurrent 0 = false ∧ ((holding spinning .flushing).buf 0).state = .flushing := by
  decide +kernel

/-- Of TheBankCommandsActOnTheBanks: a bank with a record that has every part, and one with none. -/
theorem test_witness_ARecordIsRead :
    let r : Report :=
      { cls := .uncorrected, cause := .cardTimeout, op := .drive, unit := some .u1, track := some ⟨83, 1, some 255⟩
        block := some (2 ^ 32 - 1) }
    ({ FaultBanks.powerOn.card with record := some r, overflow := true, count := 255 } : Bank).resultBytes
      = [7, 2, 3, 8, 15, 1, 83, 1, 255, 255, 255, 255, 255, 255]
    ∧ FaultBanks.powerOn.card.record = none := by decide +kernel

/-- Of ALookupStaysInItsExtent: a lookup asked for, below the base, covered, at a fetch, at the 257th one, at END, and a
chain that goes round; the first of four entries leaves. -/
theorem test_witness_ALookupIsServed :
    let look (n : Nat) : Lookup := { buffer := 0, block := 4, count := 2, fetches := n }
    let w : ExtentWindow := { ExtentWindow.empty ⟨8, 0, 0⟩ with lookups := [look 255] }
    let full : ExtentWindow := { w with entries := List.replicate 4 ⟨7, 1⟩, base := 0 }
    let jump : List Byte := [2, 0, 0, 0, 0, 0, 0, 8]
    (0 ≤ 3 ∧ 3 < 0 + (full.entries.map Extent.count).sum ∧ ¬ 4 < 0 + (full.entries.map Extent.count).sum)
    ∧ (full.entries.length = 3 + 1 ∧ w.entries.length < 4 ∧ w.endSeen = false)
    ∧ (filling.banks.entryOwed = false ∧ filling.news = [] ∧ bufferIds.find? filling.workIdle = some 0
      ∧ (filling.buf 0).work.map (fun x => x.todo.length) = some 1)
    ∧ (slide (slideFuel 4) w 4).2 = .fetch ∧ 255 < 256 ∧ (look 256).block < 5
    ∧ (slide (slideFuel 4) { w with groupBuf := some (8, []) } 4).2 = .short
    ∧ (slide (slideFuel 4) { w with groupBuf := some (8, jump) } 4).2 = .endless
    ∧ (slide (slideFuel 4) { w with groupBuf := some (8, [1, 0, 0, 5, 0, 0, 0, 7]) } 4).2 = .covered
    ∧ ({ w with fetching := true } : ExtentWindow).fetching = true
    ∧ (let d := ready.modWindow .u0 (fun _ => w)
      d.banks.entryOwed = false ∧ d.news = [] ∧ bufferIds.find? d.workIdle = none
      ∧ (d.serveLookup .u0).isSome = true) := by decide +kernel

/-! ### Sector writes, spills and flags (6.4, 6.6, 6.8) -/

/-- A capture at 32 µs a slot with one data field, by its start slot and its mark slot. -/
def began (first mark : Nat) : Capture :=
  { writing with basis := ⟨.mfm, 250000⟩, startPhase := first * 32, fields := [⟨.data, mark, [], []⟩] }

/-- 6.8, R122: position 4 of Case B has the window 2,782 to 2,804, and a mark at 40 slots is the last; no ID field and no
other basis. -/
theorem test_sectorWriteWindow : (fitLayout caseB 0 0 2).any (fun l =>
    [2781, 2782, 2804, 2805].map (fun n => sectorWriteAt l (began n (n + 12))) == [none, some 4, some 4, none]
    && [40, 41].map (fun n => sectorWriteAt l (began 2804 (2804 + n))) == [some 4, none]
    && (sectorWriteAt l { began 2804 2816 with fields := [⟨.ident, 2816, [], []⟩] }).isNone
    && (sectorWriteAt l { began 1402 1408 with basis := ⟨.fm, 125000⟩ }).isNone) = true := by decide +kernel

/-- R122, in FM: s_1 = 252 gives the window 265 to 276; and R123 on a position that the table does not hold. -/
theorem test_sectorWriteWindow_fm : (fitLayout small 0 0 2).any (fun l =>
    [264, 265, 276, 277].map (fun n => sectorWriteAt l
      { writing with startPhase := n * 64, fields := [⟨.deleted, n + 6, [], []⟩] }) == [none, some 1, some 1, none])
    = true ∧ ∀ t ∈ (ready.buf 0).sectors, t.position ≠ 2 := by decide +kernel

/-- The sector that a region of Case B names first, from slot `a` to slot `b`. -/
def namedFirst (a b : Nat) : Option Nat :=
  (fitLayout caseB 0 0 2).bind (fun l => (firstMarked l (slotSpan 250000 a b) l.sectorTable).map Sector.number)

/-- 6.8, Cases W3 and W4: sector 6, and sector 5; R124: a region that goes round names the sector that it meets first,
and one in the preamble or in gap 3 names none. -/
theorem test_firstMarked : namedFirst 3418 3500 = some 6 ∧ namedFirst 2830 3334 = some 5
    ∧ namedFirst 5900 6500 = some 9 ∧ namedFirst 0 127 = none ∧ namedFirst 3334 3417 = none := by decide +kernel

/-- Of AWriteGateReleaseEndsTheCapture: the region of Case W3, which meets the ID of position 5 with its first phase and
nothing that stands before it in the table, and a region of the preamble, which meets nothing. -/
theorem test_witness_ARegionMeetsASector : ∃ l : Layout, fitLayout caseB 0 0 2 = some l ∧ 0 < l.rate ∧ l.rate ≤ 8000000
    ∧ (let region := slotSpan 250000 3418 3500
      0 < region.len ∧ l.sectorTable.drop 5 ≠ []
      ∧ (region.start + 0) % 200000 = ((slotSpan l.rate (l.idSpan 5).1 (l.idSpan 5).2).start + 0) % 200000
      ∧ 0 < (slotSpan l.rate (l.idSpan 5).1 (l.idSpan 5).2).len
      ∧ ∀ k < 5, ¬ l.metAt region k 0)
    ∧ ∀ t ∈ l.sectorTable, ∀ i < (slotSpan 250000 0 127).len, ¬ l.metAt (slotSpan 250000 0 127) t.position i := by
  have fit : ∃ l, fitLayout caseB 0 0 2 = some l ∧ 0 < l.rate ∧ l.rate ≤ 8000000 ∧ l.sectorTable.drop 5 ≠ []
      ∧ (slotSpan 250000 3418 3500).start = (slotSpan l.rate (l.idSpan 5).1 (l.idSpan 5).2).start
      ∧ 0 < (slotSpan l.rate (l.idSpan 5).1 (l.idSpan 5).2).len
      ∧ (∀ k < 5, (l.hitsId (slotSpan 250000 3418 3500) k || l.hitsData (slotSpan 250000 3418 3500) k) = false)
      ∧ ∀ t ∈ l.sectorTable,
        (l.hitsId (slotSpan 250000 0 127) t.position || l.hitsData (slotSpan 250000 0 127) t.position) = false :=
    ⟨(fitLayout caseB 0 0 2).getD ⟨.fm, 0, 0, 0, 0, 0, []⟩, by decide +kernel⟩
  obtain ⟨l, hl, hr, hm, hd, hs, hp, before, none⟩ := fit
  refine ⟨l, hl, hr, hm, ⟨by decide, hd, by rw [hs], hp, fun k hk m => ?_⟩, fun t ht i hi m => ?_⟩
  · have := (l.marked_iff (slotSpan 250000 3418 3500) k (by decide) hr hm).mpr ⟨0, by decide, m⟩
    rw [before k hk] at this; cases this
  · have := (l.marked_iff (slotSpan 250000 0 127) t.position (by decide) hr hm).mpr ⟨i, hi, m⟩
    rw [none t ht] at this; cases this

/-- R131: a changed flag of the second sector is reported on an image without a flag map, one of both sectors names the
first in physical order, and nothing is reported on an image with a flag map. -/
theorem test_flagLost :
    let old := (ready.buf 0).sectors
    let bad (rs : List Nat) : List Sector := old.map (fun t =>
      if t.number ∈ rs then { t with flags := { t.flags with dataCrcBad := true } } else t)
    let lost (d : Device) (rs : List Nat) : Option (Cause × Option TrackLoc) :=
      ((d.reportFlagLost key00 old (bad rs)).banks.get .track).record.map (fun r => (r.cause, r.track))
    (ready.images.u0 = some image ∧ image.hasFlagMap = false)
    ∧ lost ready [2] = some (.flagLost, some ⟨0, 0, some 2⟩) ∧ lost ready [1, 2] = some (.flagLost, some ⟨0, 0, some 1⟩)
    ∧ lost ready [] = none
    ∧ lost { ready with images := ⟨some { image with hasFlagMap := true }, none⟩ } [2] = none := by decide +kernel

/-- Of AWriteGateReleaseEndsTheCapture, R125, R126, R129: format writes of the other head, which an image with one head does
not format: an ID without its bytes, two sizes, one sector number twice, and one that passes; and no format write. -/
theorem test_unformattedFormatWrites :
    let d := { ready with images := ⟨some { image with geometry := ⟨small, 84, 1, []⟩ }, none⟩ }
    let cause (fs : List CapField) : Option Cause :=
      ((d.decode none { formatting fs with key := { key00 with head := 1 } }).banks.get .track).record.map Report.cause
    d.formatOf { key00 with head := 1 } = none
    ∧ cause [⟨.ident, 0, [0, 0, 1, 0, 0], []⟩] = some .formatSize
    ∧ cause (writtenFields 1 0 ++ writtenFields 2 1) = some .formatMixed
    ∧ cause (writtenFields 1 0 ++ writtenFields 1 0) = some .formatFit
    ∧ cause (writtenFields 1 0) = some .formatSize
    ∧ cause [⟨.data, 94, [], []⟩] = none := by decide +kernel

/-! ### Records, places and flag bytes (3.2, 9.5, 9.8) -/

/-- R180: header byte 5 is flags, bytes 8 to 12 the chain start, high byte first; R54 b: a selector 3; R2: an R list of 65. -/
theorem test_buildRecord :
    let m (b : Byte) := buildRecord 5 [0, 0, 0, 0, 0, b, 0, 0, 1, 2, 3, 4, 5] ⟨small, 1, 1, []⟩
    ((m 1).readOnly, (m 1).hasFlagMap, (m 2).readOnly, (m 2).hasFlagMap) = (true, false, false, true)
    ∧ (m 0).chainStart = ⟨16909060, 5, 0⟩ ∧ ((m 2).flagMapLen, (m 0).flagMapLen) = (2, 0)
    ∧ parseEntry (putBytes (List.replicate 200 0) 90 [3]) 0 = none
    ∧ (parseFormat [2, 9, 2, 1, 84, 1, 0, 65] 0).valid = false
    ∧ (parseFormat [2, 2, 2, 1, 84, 1, 0, 2, 7, 3] 0).rList = some [7, 3] := by decide +kernel

/-- Of AValidatedImageIsStagedOrPending: a place of each table, the last one among them. -/
theorem test_witness_PlacesOfATrack :
    image.trackOffset[83 * 2 + 1]? = some (167 * 256) ∧ image.sectorBase[83 * 2 + 1]? = some (167 * 2)
    ∧ image.dataOffset 83 1 1 128 = 167 * 256 + 128 ∧ image.flagOffset 83 1 1 = 168 * 256 + 167 * 2 + 1 := by
  decide +kernel

/-- A readable track whose buffer has the layout of larger sectors than the format in force. -/
def large : Device :=
  ready.setBuf 0 { ready.buf 0 with layout := (fitLayout small 0 0 2).map (fun l => { l with sizeCode := 6 }) }

/-- R173 g: the sectors are there, and their data by the layout of the buffer is more than the window holds. -/
theorem test_witness_FailedRange :
    (large.readableHolder key00 = some 0 ∧ large.formatOf key00 = some small ∧ 2 * sizeLen small.sizeCode ≤ 8192
      ∧ (∀ q ∈ [1, 2], ((large.buf 0).sector? q).isSome = true) ∧ 8192 < 2 * (large.buf 0).dataLen)
    ∧ (run (.readSectors 0 0 0 1 2) large).port.engine = .result ⟨.failed, .range, 0x30, []⟩
    ∧ (run (.writeSectors 0 0 0 1 2 0) large).port.engine = .result ⟨.failed, .range, 0x31, []⟩
    ∧ (run (.verifySectors 0 0 0 1 2) large).port.engine = .result ⟨.failed, .range, 0x32, []⟩ := by decide +kernel

/-- Of SectorsAreWritten, R86 and R112: the application itself asks nothing of OFFLINE; R173 b: the command is refused. -/
theorem test_applicationOffline :
    let offline := { ready with banks := { ready.banks with offline := true } }
    (((offline.applySectors 0 { sectors1 with op := .write true }).buf 0).sectors.map (fun t => t.flags.deleted))
      = [true, true]
    ∧ (run (.writeSectors 0 0 0 1 2 1) offline).port.engine = .result ⟨.refused, .offline, 0x31, []⟩ := by decide +kernel

/-- R82 e, R112, R119: a fill completes with FIP set; the stray capture that waits on it takes the part OFFLINE, and the
WRITE_SECTORS that waits on it too is applied there, DONE, with nothing left for the entry to displace. -/
theorem test_writeAtTheEntry :
    let command : SectorCmd := { sectors1 with op := .write true }
    let d := engine (capture { ready with banks := { ready.banks with fip := true } }
      { writing with state := .pending, startPhase := 4160, fields := [] }) (.executing (.sectors command))
    let e := (d.decodePending 0 .u0).applyWaiting 0 key00
    (e.banks.offline = true ∧ e.banks.entryOwed = true)
    ∧ (e.buf 0).sectors.map (fun t => t.flags.deleted) = [true, true]
    ∧ e.enterOffline.port.engine = .result ⟨.done, .none, 0x31, []⟩ := by decide +kernel

/-- 9.8: the bits of a flag byte; UNREADABLE is in results only. -/
theorem test_flagByte :
    let f (a b c d e : Bool) : List Nat :=
      [(SectorFlags.stored ⟨a, b, c, d, e⟩).toNat, (SectorFlags.reported ⟨a, b, c, d, e⟩).toNat]
    f true false false false false = [1, 1] ∧ f false true false false false = [2, 2]
    ∧ f false false true false false = [4, 4] ∧ f false false false true false = [8, 8]
    ∧ f false false false false true = [0, 16] := by decide

/-- Of SectorCommandsAreJudged: a PENDING capture of the track in buffer 0, and a command of another track. -/
theorem test_witness_WhatAFillServes :
    let d := capture ready { writing with state := .pending }
    (d.captures.u0.map Capture.state = some .pending ∧ (d.buf 0).key = some writing.key)
    ∧ (engine d (.executing (.sectors sectors1))).port.engine = .executing (.sectors sectors1)
    ∧ sectors1.key ≠ { key00 with head := 1 } := by decide +kernel

end Sys2Proof.Tests
end

section
namespace Sys2Proof.Proofs
open Sys2Proof Sys2Proof.Machine

/-- R6: the test is the chain of its six comparisons, and each Boolean comparison is equality. -/
theorem equalOn_iff (a b : TrackFormat) (c h heads : Nat) :
    a.equalOn b c h heads = true ↔
      a.enc = b.enc ∧ a.rate = b.rate ∧ a.sectors = b.sectors ∧ a.sizeCode = b.sizeCode ∧ a.gap3 = b.gap3
        ∧ a.order c h heads = b.order c h heads := by
  rw [TrackFormat.equalOn]
  simp only [Bool.and_eq_true, beq_iff_eq, and_assoc]

/-- Settles O58: the comparisons that `equalOn` makes are the six equalities of R6. -/
theorem formatsAreEqualPerTrack : Obligations.FormatsAreEqualPerTrack :=
  equalOn_iff

end Sys2Proof.Proofs
end

section
namespace Sys2Proof.Proofs
open Sys2Proof Sys2Proof.Machine

/-! ### A step while the write gate is asserted (R35) -/

/-- R35, R37: a report of the current track carries the place of the head with R absent, and none without an image. -/
theorem currentLoc_eq (d : Device) (u : UnitId) :
    d.currentLoc u = if d.mounted u then
        some { cyl := (d.units.get u).cylinder, head := if (d.units.get u).side then 1 else 0, r := none }
      else none := by
  unfold Device.currentLoc Device.currentTrack
  cases d.mounted u <;> rfl

/-- R24: selection does not read the direction input. -/
theorem selected_setDir (d : Device) (inward : Bool) :
    ({ d with lines := { d.lines with dir := inward } } : Device).selected = d.selected := by
  have hsel : ∀ l, ({ d.lines with dir := inward } : Lines).sel l = d.lines.sel l := fun l => by cases l <;> rfl
  have hunit : ∀ u, ({ d with lines := { d.lines with dir := inward } } : Device).selectable u = d.selectable u :=
    fun u => congrArg ((d.units.get u).enabled && ·) (hsel _)
  rw [Device.selected, hunit, hunit, ← Device.selected]

/-- R35: under the write gate a step pulse of the selected unit samples the direction and makes one report. -/
theorem onStep_of_wgate {d : Device} {u : UnitId} (inward : Bool) (hu : d.selected = some u)
    (hw : d.lines.wgate = true) :
    d.onStep inward = Device.report { d with lines := { d.lines with dir := inward } }
      (mkReport .corrected .stepDuringWrite .drive (some u) (d.currentLoc u)) := by
  have hs := (selected_setDir d inward).trans hu
  unfold Device.onStep
  dsimp only
  split
  next hnone => exact nomatch hnone.symm.trans hs
  next v hv =>
    obtain rfl : v = u := Option.some.inj (hv.symm.trans hs)
    exact if_pos hw

/-- Settles O15: the effect is the direction and the report, and a report below UNCORRECTED makes nothing owed. -/
theorem aStepDuringAWriteIsIgnored : Obligations.AStepDuringAWriteIsIgnored := by
  intro s u inward hu hw
  rw [← currentLoc_eq]
  refine Follows.answers (onStep_of_wgate inward hu hw) (fun hrest => report_rest _ _ ?_ nofun)
  exact rest_engine (d := s.dev) rfl rfl rfl rfl rfl rfl (fun _ => ⟨rfl, rfl, rfl⟩) rfl hrest

end Sys2Proof.Proofs
end

section
namespace Sys2Proof.Proofs
open Sys2Proof Sys2Proof.Machine

/-! ### The bytes of UNIT_STATUS (R46, R180) -/

/-- R180: a field that begins at bit `i`, above the bits of `n`, adds its value. -/
theorem ofNat_or_field {n i : Nat} (m : Nat) (h : n < 2 ^ i) :
    (BitVec.ofNat 8 n ||| BitVec.ofNat 8 (2 ^ i * m) : Byte) = BitVec.ofNat 8 (n + 2 ^ i * m) := by
  rw [Nat.add_comm, Nat.two_pow_add_eq_or_of_lt h, Nat.or_comm, BitVec.ofNat_or]

/-- R180: a value shifted into its field. -/
theorem ofNat_shiftLeft (m i : Nat) : (BitVec.ofNat 8 m <<< i : Byte) = BitVec.ofNat 8 (2 ^ i * m) := by
  apply BitVec.eq_of_toNat_eq
  simp [Nat.shiftLeft_eq, Nat.mul_comm]

/-- R180: the flag at bit 0. -/
theorem bitByte_zero (b : Bool) : bitByte 0 b = BitVec.ofNat 8 (if b then 1 else 0) := by
  cases b <;> rfl

/-- R180: four bytes, high byte first. -/
theorem toBytes_four (v : Nat) : toBytes 4 v =
    [BitVec.ofNat 8 (v / 16777216), BitVec.ofNat 8 (v / 65536), BitVec.ofNat 8 (v / 256), BitVec.ofNat 8 v] := by
  simp [toBytes, Nat.div_div_eq_div_mul]

/-- R46: the unsaved buffers are those in DIRTY and in FLUSHING. -/
theorem unsaved_eq (b : BufferState) : b.unsaved = (b == .dirty || b == .flushing) := by
  cases b <;> rfl

/-- R46, R180: the byte of the configuration, ENABLED, select line, motor source and line mode. -/
theorem configurationByte_eq (r : UnitRecord) :
    bitByte 0 r.enabled ||| BitVec.ofNat 8 (selectLineCode r.selectLine) <<< 1
      ||| BitVec.ofNat 8 r.motorSource.code <<< 3 ||| BitVec.ofNat 8 r.lineMode.code <<< 5
    = BitVec.ofNat 8 ((if r.enabled then 1 else 0) + 2 * selectLineCode r.selectLine + 8 * r.motorSource.code
        + 32 * r.lineMode.code) := by
  have hs : selectLineCode r.selectLine < 4 := by cases r.selectLine <;> decide
  have hm : r.motorSource.code < 3 := by cases r.motorSource <;> decide
  simp only [ofNat_shiftLeft, bitByte_zero]
  rw [ofNat_or_field _ (by split <;> decide), ofNat_or_field _ (by split <;> omega),
    ofNat_or_field _ (by split <;> omega)]
  rfl

/-- R46, R180: eight flags in the order of their bits. The bytes are finitely many, one for each choice of the flags. -/
theorem flagsByte_eq (a b c d e f g h : Bool) :
    bitByte 0 a ||| bitByte 1 b ||| bitByte 2 c ||| bitByte 3 d ||| bitByte 4 e ||| bitByte 5 f ||| bitByte 6 g
      ||| bitByte 7 h
    = BitVec.ofNat 8 ((if a then 1 else 0) + (if b then 2 else 0) + (if c then 4 else 0) + (if d then 8 else 0)
      + (if e then 16 else 0) + (if f then 32 else 0) + (if g then 64 else 0) + (if h then 128 else 0)) := by
  revert a b c d e f g h
  decide

/-- R46: the number of the unit's buffers in DIRTY and in FLUSHING. -/
theorem unsavedCount_eq (d : Device) (u : UnitId) :
    d.unsavedCount u = ((List.range 8).filter (fun i => d.ownedBy i u
      && ((d.buf i).state == .dirty || (d.buf i).state == .flushing))).length := by
  simp only [Device.unsavedCount, unsaved_eq]
  rfl

/-- R46, R180: the eight result bytes. -/
theorem unitStatusBytes_eq (d : Device) (u : UnitId) :
    let r := d.units.get u
    let bit : Bool → Nat → Nat := fun b n => if b then n else 0
    let header := match d.images.get u with
      | some m => m.headerBlock
      | none => 0xFFFFFFFF
    d.unitStatusBytes u =
      [ BitVec.ofNat 8 (bit r.enabled 1 + 2 * selectLineCode r.selectLine + 8 * r.motorSource.code
          + 32 * r.lineMode.code),
        BitVec.ofNat 8 r.cylinder,
        BitVec.ofNat 8 (bit r.side 1 + bit r.motor 2 + bit r.atSpeed 4 + bit r.protect 8 + bit r.latch 16
          + bit (d.seq.pending.get u).isSome 32 + bit r.applied 64 + bit r.lost 128),
        BitVec.ofNat 8 (header / 16777216), BitVec.ofNat 8 (header / 65536),
        BitVec.ofNat 8 (header / 256), BitVec.ofNat 8 header,
        BitVec.ofNat 8 ((List.range 8).filter (fun i => d.ownedBy i u
          && ((d.buf i).state == .dirty || (d.buf i).state == .flushing))).length ] := by
  dsimp only
  rw [Device.unitStatusBytes, configurationByte_eq, flagsByte_eq, toBytes_four, unsavedCount_eq]
  rfl

/-! ### UNIT_STATUS -/

/-- R166 a: with the engine IDLE a COMMAND frame is judged in the part that the frame has opened. -/
theorem onCommand_of_idle {d : Device} (f : Device → Device) (h : d.port.engine = .idle) :
    d.onCommand f = f d.openFrame := by
  simp only [Device.onCommand, Device.openFrame_engine, h]

/-- R43, R46: UNIT_STATUS ends DONE with the result bytes of the part as it stood, and clears the unit's events. -/
theorem effect_unitStatus {d : Device} {unit : Byte} {u : UnitId} (h : d.port.engine = .idle)
    (hu : unitParam unit = some u) :
    effect (.unitStatus unit) d =
      { d.answered 0x50 .done .none (d.unitStatusBytes u) with
        units := d.units.set u (d.units.get u).clearEvents } := by
  have hj := onCommand_of_idle (fun x => x.judgeStatus unit) h
  rw [Device.judgeStatus, hu] at hj
  exact hj

/-- Settles O53: the command is answered at once, and the events it clears decide nothing that is owed. -/
theorem unitStatusReadsAndClearsTheEvents : Obligations.UnitStatusReadsAndClearsTheEvents := by
  intro s unit u hidle hu r bit header
  refine Follows.answers ((effect_unitStatus hidle hu).trans ?_) (fun hrest => ?_)
  · rw [unitStatusBytes_eq]
    rfl
  · exact rest_idle (d := s.dev) rfl rfl rfl rfl rfl rfl
      (modUnit_keep s.dev u UnitRecord.clearEvents (fun _ => ⟨rfl, rfl, rfl⟩)) (by rw [hidle]; rfl) rfl hrest

end Sys2Proof.Proofs
end

section
namespace Sys2Proof.Proofs
open Sys2Proof Sys2Proof.Machine

/-! ### A RESULT frame (R168) -/

/-- R168: the first `n` bytes from the start of a list, with 00 beyond its end. -/
theorem bytesAt_zero_eq_take (bs : List Byte) (n : Nat) :
    bytesAt bs 0 n = (bs ++ List.replicate (n - bs.length) 0).take n := by
  apply List.ext_getElem
  · simp only [bytesAt, List.length_map, List.length_range, List.length_take, List.length_append,
      List.length_replicate]
    omega
  · intro i hi _
    rcases Nat.lt_or_ge i bs.length with h | h
    · simp [bytesAt, byteAt, h]
    · simp [bytesAt, byteAt, List.getElem_append_right h, List.getElem?_eq_none h]

/-- R168: a result goes out as its bytes in the codes of R180, however those codes are given. -/
theorem frame_of_codes {cls : TermClass → Byte} {detail : Detail → Byte}
    (hcls : ∀ c, cls c = BitVec.ofNat 8 c.code) (hdetail : ∀ x, detail x = BitVec.ofNat 8 x.code) (r : CmdResult) :
    [cls r.cls, detail r.detail, r.code, BitVec.ofNat 8 r.bytes.length] ++ r.bytes = r.frame := by
  rw [hcls, hdetail, CmdResult.frame]

/-- R164, R165: a frame that delivers bytes sends them after the Port Status, and clears the frame-fault flag. -/
theorem openFrame_sendOut (d : Device) (bs : List Byte) : d.openFrame.sendOut bs =
    { d with port := { d.port with frameOut := d.portStatus :: bs, frameFault := false } } := rfl

/-- R168: in RESULT a frame that reads the whole result delivers it and leaves the engine IDLE. -/
theorem effect_resultFrame_whole {d : Device} {r : CmdResult} {n : Nat} (h : d.port.engine = .result r)
    (hn : r.frame.length ≤ n) :
    effect (.resultFrame n) d =
      { d with port := { d.port with
        engine := .idle, frameOut := d.portStatus :: bytesAt r.frame 0 n, frameFault := false } } := by
  simp only [effect, Device.onResultFrame, Device.openFrame_engine, openFrame_sendOut, h, if_pos hn]

/-- R168: in RESULT a frame that is cut short delivers the bytes it reads and keeps the result. -/
theorem effect_resultFrame_cut {d : Device} {r : CmdResult} {n : Nat} (h : d.port.engine = .result r)
    (hn : n < r.frame.length) :
    effect (.resultFrame n) d =
      { d with port := { d.port with
        frameOut := d.portStatus :: bytesAt r.frame 0 n, frameFault := false } } := by
  simp only [effect, Device.onResultFrame, Device.openFrame_engine, openFrame_sendOut, h,
    if_neg (Nat.not_le.mpr hn)]

/-- R168: in IDLE and in EXECUTING a RESULT frame delivers 00. -/
theorem effect_resultFrame_none {d : Device} (n : Nat) (h : ∀ r, d.port.engine ≠ .result r) :
    effect (.resultFrame n) d =
      { d with port := { d.port with
        frameOut := d.portStatus :: List.replicate n 0, frameFault := false } } := by
  cases he : d.port.engine with
  | result r => exact absurd he (h r)
  | idle | executing c =>
    simp only [effect, Device.onResultFrame, Device.openFrame_engine, openFrame_sendOut, he]

/-- A change of the Loader Port that keeps the engine makes nothing owed. -/
theorem setPort_rest {d : Device} {p : LoaderPort} (hp : p.engine = d.port.engine) (h : d.AtRest) :
    ({ d with port := p } : Device).micro = none :=
  rest_engine (d := d) rfl rfl rfl rfl rfl rfl (fun _ => ⟨rfl, rfl, rfl⟩) hp h

/-- The end of a result makes nothing owed: neither RESULT nor IDLE executes a command. -/
theorem endResult_rest {d : Device} {p : LoaderPort} {r : CmdResult} (hr : d.port.engine = .result r)
    (hp : p.engine = .idle) (h : d.AtRest) : ({ d with port := p } : Device).micro = none :=
  rest_idle (d := d) rfl rfl rfl rfl rfl rfl (fun _ => ⟨rfl, rfl, rfl⟩) (by rw [hr]; rfl)
    (by rw [hp]; rfl) h

/-- Settles O33: one effect for each of the three cases, each a change of the Loader Port alone. -/
theorem aResultFrameDeliversTheResult : Obligations.AResultFrameDeliversTheResult := by
  intro s n cls detail
  have hcls : ∀ c, cls c = BitVec.ofNat 8 c.code := fun c => by cases c <;> rfl
  have hdetail : ∀ x, detail x = BitVec.ofNat 8 x.code := fun x => by cases x <;> rfl
  refine ⟨fun r hr => ?_, fun hnone => ?_⟩
  · rw [frame_of_codes hcls hdetail]
    dsimp only
    rw [← bytesAt_zero_eq_take]
    refine ⟨fun hn => ?_, fun hn => ?_⟩
    · exact Follows.answers (effect_resultFrame_whole hr hn) (endResult_rest hr rfl)
    · exact Follows.answers (effect_resultFrame_cut hr hn) (setPort_rest rfl)
  · exact Follows.answers (effect_resultFrame_none n hnone) (setPort_rest rfl)

end Sys2Proof.Proofs
end

section
namespace Sys2Proof.Proofs
open Sys2Proof Sys2Proof.Machine

/-! ### The reset values (R22, R45, R150, R179, R182) -/

/-- Settles O1: the arm of `step` for a queue that is not empty. -/
theorem stepTakesTheFrontCommand : Obligations.StepTakesTheFrontCommand := by
  intro c rest s h
  unfold step
  rw [h]

/-- R70, R97: every buffer of the reset pool is FREE, the places past its end among them. -/
theorem resetPool_buf (i : Nat) : Pool.reset.buf i = TrackBuffer.free := by
  unfold Pool.buf
  rw [List.getD_eq_getElem?_getD]
  cases hb : Pool.reset.buffers[i]? with
  | none => rfl
  | some b => exact List.eq_of_mem_replicate (List.mem_of_getElem? hb : b ∈ List.replicate 8 TrackBuffer.free)

/-- R182: at power-on three causes are not enabled. -/
theorem powerOn_enabled (c : Cause) : (FaultBanks.powerOn.get c.bank).enabled c = true ↔
    c ≠ .doubleSelect ∧ c ≠ .stepLimit ∧ c ≠ .trackNotReady := by
  cases c <;> decide

/-- R191: at power-on the banks are empty. -/
theorem powerOn_empty (i : BankId) : (FaultBanks.powerOn.get i).record = none
    ∧ (FaultBanks.powerOn.get i).overflow = false ∧ (FaultBanks.powerOn.get i).count = 0 := by
  cases i <;> exact ⟨rfl, rfl, rfl⟩

/-- R22, R45: what the two unit records have in common at reset. -/
theorem resetUnit_common (u : UnitId) :
    let r := Device.reset.units.get u
    r.cylinder = 0 ∧ r.side = false ∧ r.motor = false ∧ r.atSpeed = false ∧ r.phase = 0 ∧ r.spinUp = none
    ∧ r.protect = false ∧ r.latch = true ∧ r.applied = false ∧ r.lost = false := by
  cases u <;> exact ⟨rfl, rfl, rfl, rfl, rfl, rfl, rfl, rfl, rfl, rfl⟩

/-- At reset a unit has no image, no capture and no pending change. -/
theorem resetUnit_bare (u : UnitId) : Device.reset.images.get u = none ∧ Device.reset.captures.get u = none
    ∧ Device.reset.seq.pending.get u = none := by
  cases u <;> exact ⟨rfl, rfl, rfl⟩

/-- Settles O3: the values stand in the definition of the reset state; the banks, buffers and units are given above. -/
theorem resetLeavesTheValuesOfTheManual : Obligations.ResetLeavesTheValuesOfTheManual := by
  refine ⟨rfl, ⟨rfl, rfl, rfl, rfl⟩, ⟨rfl, rfl, rfl, rfl⟩, fun u => ?_, rfl, fun i => ?_, rfl, rfl, rfl, rfl, rfl, rfl,
    rfl, rfl, rfl, rfl, fun _ => rfl, rfl, rfl, rfl, powerOn_empty, powerOn_enabled, rfl, rfl⟩
  · obtain ⟨h1, h2, h3, h4, h5, h6, h7, h8, h9, h10⟩ := resetUnit_common u
    exact ⟨h1, h2, h3, h4, h5, h6, h7, h8, h9, h10, resetUnit_bare u⟩
  · exact congrArg TrackBuffer.state (resetPool_buf i)

/-- R2.1: a unit with its motor off and its head at cylinder 0. -/
theorem resetUnit_good (u : UnitId) : (Device.reset.units.get u).Good := by
  obtain ⟨hc, -, hm, ha, hp, hs, -⟩ := resetUnit_common u
  exact ⟨by omega, by omega, fun _ => ⟨ha, hp⟩, by rw [hs, hm]; rfl, by rw [hs]; exact nofun⟩

/-- R182, R191: an empty bank is good. -/
theorem powerOn_good (i : BankId) : (FaultBanks.powerOn.get i).Good i := by
  obtain ⟨hr, ho, hc⟩ := powerOn_empty i
  exact ⟨by omega, by rw [ho]; exact nofun, by rw [hr]; exact fun _ h => nomatch h⟩

/-- R182: as many enables as causes. -/
theorem powerOn_enables (i : BankId) : (FaultBanks.powerOn.get i).enables.length = i.causes := by
  cases i <;> rfl

/-- R97: the pool at reset. -/
theorem resetPool_good : Pool.reset.Good :=
  ⟨rfl, by decide, by decide, .nil, .nil, fun b hb => by rw [List.eq_of_mem_replicate hb]; rfl⟩

/-- R150: the card record with no card. -/
theorem resetCard_good : CardRecord.reset.Good := ⟨rfl, nofun, rfl, nofun, nofun, nofun, nofun, by decide⟩

/-- Settles O6: each part of the invariant at its reset value. -/
theorem resetIsGood : Obligations.ResetIsGood :=
  { units := resetUnit_good, selectLines := nofun, card := resetCard_good, banks := powerOn_good
    enables := powerOn_enables, offline := nofun, cursor := by decide, window := rfl, pool := resetPool_good
    held := reset_sound.2 }

/-- Settles O9: the decoder run on the fifteen frames. -/
theorem framesOfTheManualAreRead : Obligations.FramesOfTheManualAreRead := by
  refine ⟨?_, ?_, ?_, ?_, ?_, ?_, ?_, ?_, ?_, ?_, ?_, ?_, ?_, ?_, ?_⟩ <;> decide

/-! ### POWER_ON and RESET_LINE (R45, R150, R191) -/

/-- The part at its reset values, before the lines are sampled, with the banks that the reset leaves. -/
def bare (now count : Nat) (b : FaultBanks) : Device :=
  { Device.reset with now := now, freeCount := count, banks := b }

/-- R37: with no image and no buffer in use, a notice closes the open section and does nothing more. -/
theorem withNotice_bare {b d : Device} (u : UnitId) (app : Bool) (hp : b.pool = Pool.reset)
    (hb : b.images.get u = none) (hd : d.images.get u = none) : Device.withNotice b u app d = d.closeSection u := by
  have hcur : ∀ i, b.bufCurrent i = false := fun i => by
    have hbuf : b.buf i = TrackBuffer.free := by rw [← resetPool_buf i, ← hp]; rfl
    unfold Device.bufCurrent
    rw [hbuf]; rfl
  have hjoin : Device.joinLost b d = d := joinLost_self b d (fun i hi => by rw [hcur i] at hi; exact nomatch hi)
  have hnone : ∀ x : Device, x.images.get u = none → x.currentTrack u = none := fun x hx => by
    unfold Device.currentTrack Device.mounted; rw [hx]; rfl
  have hbasis : ∀ x : Device, x.images.get u = none → x.streamBasis u = { enc := .mfm, rate := 250000 } := fun x hx => by
    unfold Device.streamBasis; rw [hx]
  have hfin : Device.finishSlot b (d.closeSection u) u = d.closeSection u := by
    unfold Device.finishSlot
    dsimp only
    rw [hnone b hb, hnone (d.closeSection u) hd, hbasis b hb, hbasis (d.closeSection u) hd]
    simp
  unfold Device.withNotice
  dsimp only
  rw [hjoin, hfin, hnone (d.closeSection u) hd]

/-- The part with the lines taken, its motors still off: with SEL0, Unit 0 has the side of its input. -/
theorem moveSelection_bare (n c : Nat) (b : FaultBanks) (l : Lines) :
    Device.moveSelection { bare n c b with lines := l } none =
      { bare n c b with
        lines := l
        units := ⟨{ UnitRecord.reset .u0 with side := l.sel0 && l.side }, UnitRecord.reset .u1⟩ } := by
  obtain ⟨s0, s1, s2, s3, ma, mb, di, sd, wg, cd⟩ := l
  cases s0
  · rfl
  · show Device.select _ .u0 = _
    unfold Device.select Device.sampleSide
    cases sd
    · rfl
    · rw [if_neg (by exact nofun), withNotice_bare .u0 false rfl rfl rfl]
      rfl

/-- R27: with MOTA, the motor of Unit 0 starts. -/
theorem followMotor_bare (n c : Nat) (b : FaultBanks) (l : Lines) (r : UnitRecord) (hr : r.enabled = true)
    (hs : r.motorSource = .mota) (hm : r.motor = false) (hp : r.phase = 0) (ht : r.spinUp = none) :
    Device.followMotor { bare n c b with lines := l, units := ⟨r, UnitRecord.reset .u1⟩ } .u0 =
      { bare n c b with
        lines := l
        units := ⟨{ r with motor := l.mota, spinUp := if l.mota then some 0 else none }, UnitRecord.reset .u1⟩ } := by
  obtain ⟨en, sl, ms, lm, cy, si, mo, as, ph, sp, pr, la, ap, lo, rd, su⟩ := r
  subst hr hs hm hp ht
  unfold Device.followMotor
  cases hl : l.mota
  · rw [show Device.motorAsserted _ .u0 = l.mota from rfl, hl]; rfl
  · rw [show Device.motorAsserted _ .u0 = l.mota from rfl, hl]
    exact withNotice_bare .u0 false rfl rfl rfl

/-- R45: the lines are sampled with everything at its reset value: Unit 0 may be selected and take the side, its motor may
start, and no image, capture or buffer is there for what else a change of the lines does. -/
theorem followLines_bare (n c : Nat) (b : FaultBanks) (l : Lines) :
    Device.followLines { bare n c b with lines := Lines.released } (fun x => { x with lines := l }) =
      { bare n c b with
        lines := l
        units := ⟨{ UnitRecord.reset .u0 with
                    side := l.sel0 && l.side, motor := l.mota, spinUp := if l.mota then some 0 else none },
                  UnitRecord.reset .u1⟩ } := by
  have hb : Device.startsBefore { bare n c b with lines := Lines.released } (fun x => { x with lines := l })
      = { bare n c b with lines := Lines.released } := rfl
  unfold Device.followLines Device.evaluate
  rw [hb]
  show Device.followMotor (Device.followMotor (Device.reportDouble
    (Device.moveSelection { bare n c b with lines := l } none) false) .u0) .u1 = _
  rw [moveSelection_bare]
  have hd : ∀ r, Device.reportDouble { bare n c b with lines := l, units := ⟨r, UnitRecord.reset .u1⟩ } false
      = { bare n c b with lines := l, units := ⟨r, UnitRecord.reset .u1⟩ } := fun r => by
    unfold Device.reportDouble Device.doubleSelect
    rw [show Device.selectable _ .u1 = false from rfl]
    simp
  rw [hd, followMotor_bare n c b l _ rfl rfl rfl rfl rfl]
  rfl

/-- R45, R150: the lines as they stand, and the card detect line among them. -/
theorem sampleLines_bare (d : Device) (b : FaultBanks) :
    (bare d.now d.freeCount b).sampleLines d.lines = d.afterReset b := by
  unfold Device.sampleLines Device.sampleCard
  rw [followLines_bare]
  show (if d.lines.cardDetect = true then _ else _) = _
  unfold Device.afterReset
  cases d.lines.cardDetect <;> rfl

/-- After a reset nothing is owed. -/
theorem afterReset_rest (d : Device) (b : FaultBanks) (h : b.entryOwed = false) : (d.afterReset b).micro = none :=
  (micro_none_iff _).mpr ⟨rfl, rfl, rfl, rfl, rfl, rfl, h, rfl⟩

/-- What follows a reset within its step: nothing. -/
theorem afterReset_settled (d : Device) (b : FaultBanks) (h : b.entryOwed = false) :
    (d.afterReset b).settled.tested = d.afterReset b := by
  rw [settled_of_quiet _ (afterReset_rest d b h)]
  exact tested_eq _ (fun u => .inr (.inl (by cases u <;> rfl)))

/-- R45: power-on samples the lines at the power-on values. -/
theorem onPowerOn_eq (d : Device) : d.onPowerOn = d.afterReset FaultBanks.powerOn :=
  (congrArg (Device.sampleLines · d.lines) (rfl : d.poweredOn = bare d.now d.freeCount FaultBanks.powerOn)).trans
    (sampleLines_bare d FaultBanks.powerOn)

/-- R191: the reset line samples the lines at the reset values, with the banks as the starts that are due left them. -/
theorem onResetLine_eq (d : Device) : d.onResetLine =
    ((d.handStarts .u0).handStarts .u1).afterReset ((d.handStarts .u0).handStarts .u1).banks.resetLine := by
  unfold Device.onResetLine
  generalize (d.handStarts .u0).handStarts .u1 = h
  have hb : { h.poweredOn with banks := h.banks.resetLine } = bare h.now h.freeCount h.banks.resetLine := rfl
  exact (congrArg (Device.sampleLines · h.lines) hb).trans (sampleLines_bare h h.banks.resetLine)

/-- Settles O4: the lines sampled at the power-on values, with nothing owed after. -/
theorem powerOnResetsEverything : Obligations.PowerOnResetsEverything := by
  intro s
  have h : effect .powerOn s.dev = s.dev.afterReset FaultBanks.powerOn := onPowerOn_eq s.dev
  rw [exec_eq, h, afterReset_settled _ _ rfl]

/-- R30: starts that are due, taken one after the other, are the iterated event. -/
theorem takeStarts_eq (u : UnitId) : ∀ (n : Nat) (d : Device), takeStarts u n d = (fun x => x.revolutionEvent u)^[n] d
  | 0, _ => rfl
  | n + 1, d => takeStarts_eq u n (d.revolutionEvent u)

/-- R191: the lines sampled at the reset values, with the banks kept. -/
theorem exec_resetLine (s : State) :
    let h := (s.dev.handStarts .u0).handStarts .u1
    exec .resetLine s = .next { s with dev := h.afterReset h.banks.resetLine } := by
  intro h
  have he : effect .resetLine s.dev = h.afterReset h.banks.resetLine := onResetLine_eq s.dev
  rw [exec_eq, he, afterReset_settled _ _ rfl]

/-- Settles O5: the starts that are due are handed, and then the part is reset with its banks kept. -/
theorem resetLineKeepsTheBanks : Obligations.ResetLineKeepsTheBanks := by
  intro s h0 h
  have hs0 : s.dev.handStarts .u0 = h0 := takeStarts_eq .u0 s.dev.units.u0.revDue s.dev
  have hs1 : h0.handStarts .u1 = h := takeStarts_eq .u1 h0.units.u1.revDue h0
  have hs : (s.dev.handStarts .u0).handStarts .u1 = h := (congrArg (Device.handStarts · .u1) hs0).trans hs1
  refine ⟨hs ▸ exec_resetLine s, fun hu0 hu1 => ?_⟩
  have h0d : s.dev.handStarts .u0 = s.dev := by
    rw [Device.handStarts, show (s.dev.units.get .u0).revDue = 0 from hu0]; rfl
  have h1d : s.dev.handStarts .u1 = s.dev := by
    rw [Device.handStarts, show (s.dev.units.get .u1).revDue = 0 from hu1]; rfl
  have hx := exec_resetLine s
  rw [h0d, h1d] at hx
  exact hx

end Sys2Proof.Proofs
end

section
namespace Sys2Proof.Proofs
open Sys2Proof Sys2Proof.Machine

/-! ### Frames as bytes (R164, R180) -/

/-- R180: a 32-bit value read back from its four bytes. -/
theorem wordOf_wordBytes (w : BitVec 32) :
    wordOf (w.extractLsb' 24 8) (w.extractLsb' 16 8) (w.extractLsb' 8 8) (w.extractLsb' 0 8) = w := by
  unfold wordOf
  ext i hi
  simp only [BitVec.getElem_append, BitVec.getElem_extractLsb']
  split
  · simp [BitVec.getLsbD_eq_getElem hi]
  · split
    · rw [show 8 + (i - 8) = i by omega, BitVec.getLsbD_eq_getElem hi]
    · split
      · rw [show 16 + (i - 8 - 8) = i by omega, BitVec.getLsbD_eq_getElem hi]
      · rw [show 24 + (i - 8 - 8 - 8) = i by omega, BitVec.getLsbD_eq_getElem hi]

/-- R164 c: a frame type that R180 does not list is read as an unknown one. -/
theorem decodeFrame_unknown {t : Byte} (n : Nat) (h : frameTypes.contains t = false) :
    decodeFrame (t :: List.replicate n 0) = some (.unknownFrameType t n) := by
  simp only [frameTypes, List.contains_cons, Bool.or_eq_false_iff, beq_eq_false_iff_ne] at h
  obtain ⟨h1, h2, h3, h4, h5, h6, -⟩ := h
  simp only [decodeFrame, h1, h2, h3, h4, h5, h6, ↓reduceIte, List.length_replicate]

/-- R166 b: a code that R180 does not list is read as an invalid command. -/
theorem decodeFrame_invalid {c : Byte} (h : commandCodes.contains c = false) :
    decodeFrame [0xC1, c] = some (.invalidCommand c) := by
  simp only [commandCodes, List.contains_cons, Bool.or_eq_false_iff, beq_eq_false_iff_ne] at h
  show some (decodeCommand [c]) = _
  simp only [decodeCommand, h, ↓reduceIte]

/-- R168, R170: a frame from which bytes are clocked out, with as many bytes in. -/
theorem decodeFrame_out (n : Nat) : decodeFrame (0xC2 :: List.replicate n 0) = some (.resultFrame n)
    ∧ decodeFrame (0xC5 :: List.replicate n 0) = some (.dataOutFrame n) := by
  simp [decodeFrame]

/-- Settles O8: each frame holds the code and the parameters of its command in the order of R180. -/
theorem framesReadBackAsTheirCommands : Obligations.FramesReadBackAsTheirCommands := by
  intro i bs hwf h
  cases i with
  | unknownFrameType t n =>
    obtain rfl := Option.some.inj h
    exact decodeFrame_unknown n (by simpa [Instr.wf] using hwf)
  | invalidCommand c =>
    obtain rfl := Option.some.inj h
    exact decodeFrame_invalid (by simpa [Instr.wf] using hwf)
  | resultFrame n => exact Option.some.inj h ▸ (decodeFrame_out n).1
  | dataOutFrame n => exact Option.some.inj h ▸ (decodeFrame_out n).2
  | mount u w p =>
    obtain rfl := Option.some.inj h
    exact congrArg (fun x => some (Instr.mount u x p)) (wordOf_wordBytes w)
  | readBlocks w n =>
    obtain rfl := Option.some.inj h
    exact congrArg (fun x => some (Instr.readBlocks x n)) (wordOf_wordBytes w)
  | writeBlocks w n =>
    obtain rfl := Option.some.inj h
    exact congrArg (fun x => some (Instr.writeBlocks x n)) (wordOf_wordBytes w)
  | cursorFrame | dataInFrame | portReset | configureUnit | setInterruptMask | eject | setProtect | hold | release
  | discard | readSectors | writeSectors | verifySectors | flush | unitStatus | cardReset | readBank | clearBank
  | setBankEnable | resume | commandFrameDropped =>
    obtain rfl := Option.some.inj h
    rfl
  | powerOn | resetLine | selectLineChange | motorLineChange | atSpeed | revolutionStart | indexPulseEnd | stepPulse
  | sideChange | writeGateAssert | writeDataByte | writeGateRelease | readSlot | cardDetectAssert | cardInitAnswer
  | cardInitTimeout | cardDetectRelease | runGrant | runEnd | runTimeout | flushStart | dirtySinceExpiry
  | pendingChangeApply => exact nomatch h

end Sys2Proof.Proofs
end

section
namespace Sys2Proof.Proofs
open Sys2Proof Sys2Proof.Machine

/-! ### What `Device.Inv` says of the blocks -/

/-- `Device.Inv` without what it says of the buffers' keys, work and queue, which `keeps_effect` carries. -/
structure Sane (d : Device) : Prop where
  units : ∀ u, (d.units.get u).Good
  selectLines : d.units.u0.enabled = true → d.units.u1.enabled = true →
    d.units.u0.selectLine ≠ d.units.u1.selectLine
  card : d.card.Good
  banks : ∀ i, (d.banks.get i).Good i
  enables : ∀ i, (d.banks.get i).enables.length = i.causes
  offline : d.banks.offline = true → d.banks.fip = true
  cursor : d.port.cursor ≤ 8192
  window : d.port.window.wf = true
  pool : d.pool.Good

theorem Sane.of_inv {d : Device} (h : d.Inv) : Sane d :=
  ⟨h.units, h.selectLines, h.card, h.banks, h.enables, h.offline, h.cursor, h.window, h.pool⟩

theorem Sane.inv {d : Device} (h : Sane d) (k : d.pool.Sound) : d.Inv :=
  ⟨h.units, h.selectLines, h.card, h.banks, h.enables, h.offline, h.cursor, h.window, h.pool, k.2⟩

/-- An effect that keeps `Sane`. -/
def Safe (d e : Device) : Prop := Sane d → Sane e

theorem Safe.refl (d : Device) : Safe d d := id

theorem Safe.trans {a b c : Device} (h : Safe a b) (k : Safe b c) : Safe a c := fun x => k (h x)

theorem Safe.foldl {α : Type} (f : Device → α → Device) (hf : ∀ d a, Safe d (f d a)) :
    ∀ (l : List α) (d : Device), Safe d (l.foldl f d)
  | [], d => .refl d
  | a :: l, d => (hf d a).trans (Safe.foldl f hf l (f d a))

/-- A change of the card's record. -/
theorem Sane.with_card {d e : Device} (h : Sane d) (hc : e.card.Good) (hu : e.units = d.units) (hb : e.banks = d.banks)
    (hp : e.port = d.port) (hl : e.pool = d.pool) : Sane e :=
  ⟨by rw [hu]; exact h.units, by rw [hu]; exact h.selectLines, hc, by rw [hb]; exact h.banks,
   by rw [hb]; exact h.enables, by rw [hb]; exact h.offline, by rw [hp]; exact h.cursor, by rw [hp]; exact h.window,
   by rw [hl]; exact h.pool⟩

/-- The blocks that `Sane` speaks of stay, but for the port's engine, flags and frame. -/
theorem Safe.of_eq {d e : Device} (hu : e.units = d.units) (hd : e.card = d.card) (hb : e.banks = d.banks)
    (hc : e.port.cursor = d.port.cursor) (hw : e.port.window = d.port.window) (hl : e.pool = d.pool) : Safe d e := fun h =>
  ⟨by rw [hu]; exact h.units, by rw [hu]; exact h.selectLines, by rw [hd]; exact h.card, by rw [hb]; exact h.banks,
   by rw [hb]; exact h.enables, by rw [hb]; exact h.offline, by rw [hc]; exact h.cursor, by rw [hw]; exact h.window,
   by rw [hl]; exact h.pool⟩

/-- The effects that follow an event keep the card's record, but for its requests and a count that may fall. -/
theorem cardGood_of_settles {d e : Device} (h : d.card.Good) (k : Settles d e)
    (hg : e.card.grants ≤ d.card.grants) : e.card.Good :=
  ⟨by rw [k.capacity, k.cardState]; exact h.capacity, by rw [k.capacity]; exact h.blocks,
   by rw [k.initTime, k.cardState]; exact h.initTime, by rw [k.initTime]; exact h.initLimit,
   by rw [k.run, k.cardState, k.retry]; exact h.run, by rw [k.retry, k.cardState]; exact h.retry,
   by rw [k.resetWaits, k.run, k.retry]; exact h.waits, hg.trans h.grants⟩

/-- The effects that follow an event. -/
theorem Safe.of_follows {d e : Device} (k : Follows d e) : Safe d e := fun h =>
  ⟨by rw [k.settles.units]; exact h.units, by rw [k.settles.units]; exact h.selectLines,
   cardGood_of_settles h.card k.settles k.grants, k.banks h.banks, fun i => by rw [k.settles.enables i]; exact h.enables i,
   k.offFip h.offline, by rw [k.settles.cursor]; exact h.cursor, k.window h.window, k.pool h.pool⟩

theorem safe_settled (d : Device) : Safe d d.settled := .of_follows (follows_settled d)

/-- R184 to R186: a report, to whichever bank. -/
theorem safe_report (d : Device) (r : Report) : Safe d (d.report r) := fun h =>
  ⟨h.units, h.selectLines, h.card, report_good d r h.banks, fun i => by
    rw [Device.report_get]
    split
    · rw [Bank.receive_enables]; exact h.enables i
    · exact h.enables i,
   report_offFip d r h.offline, h.cursor, h.window, h.pool⟩

/-- The pool changed. -/
theorem Safe.of_pool {d : Device} {p : Pool} (hp : d.pool.Good → p.Good) : Safe d { d with pool := p } := fun h =>
  ⟨h.units, h.selectLines, h.card, h.banks, h.enables, h.offline, h.cursor, h.window, hp h.pool⟩

/-! ### Unit records -/

/-- The records agree on all that `UnitRecord.Good` and the select lines speak of. -/
def Alike (r s : UnitRecord) : Prop :=
  s.enabled = r.enabled ∧ s.selectLine = r.selectLine ∧ s.cylinder = r.cylinder ∧ s.motor = r.motor
    ∧ s.atSpeed = r.atSpeed ∧ s.phase = r.phase ∧ s.spinUp = r.spinUp

theorem Alike.refl (r : UnitRecord) : Alike r r := ⟨rfl, rfl, rfl, rfl, rfl, rfl, rfl⟩

theorem Alike.trans {a b c : UnitRecord} (h : Alike a b) (k : Alike b c) : Alike a c := by
  obtain ⟨h1, h2, h3, h4, h5, h6, h7⟩ := h
  obtain ⟨k1, k2, k3, k4, k5, k6, k7⟩ := k
  exact ⟨k1.trans h1, k2.trans h2, k3.trans h3, k4.trans h4, k5.trans h5, k6.trans h6, k7.trans h7⟩

theorem Alike.good {r s : UnitRecord} (h : Alike r s) (g : r.Good) : s.Good := by
  obtain ⟨-, -, hc, hm, ha, hp, hs⟩ := h
  exact ⟨by rw [hc]; exact g.cylinder, by rw [hp]; exact g.phase, by rw [hm, ha, hp]; exact g.stopped,
    by rw [hs, hm, ha]; exact g.spinUp, by rw [hs]; exact g.spinTime⟩

/-- The unit records change and their select lines stay. -/
theorem Sane.with_units {d e : Device} (h : Sane d) (hg : ∀ u, (e.units.get u).Good)
    (hs : ∀ u, (e.units.get u).enabled = (d.units.get u).enabled ∧ (e.units.get u).selectLine = (d.units.get u).selectLine)
    (hd : e.card = d.card) (hb : e.banks = d.banks) (hp : e.port = d.port) (hl : e.pool = d.pool) : Sane e :=
  ⟨hg, by
    have h0 : e.units.u0.enabled = d.units.u0.enabled ∧ e.units.u0.selectLine = d.units.u0.selectLine := hs .u0
    have h1 : e.units.u1.enabled = d.units.u1.enabled ∧ e.units.u1.selectLine = d.units.u1.selectLine := hs .u1
    rw [h0.1, h0.2, h1.1, h1.2]
    exact h.selectLines,
   by rw [hd]; exact h.card, by rw [hb]; exact h.banks, by rw [hb]; exact h.enables, by rw [hb]; exact h.offline,
   by rw [hp]; exact h.cursor, by rw [hp]; exact h.window, by rw [hl]; exact h.pool⟩

/-- One unit's record changes, and its select line stays. -/
theorem Sane.modUnit {d : Device} (h : Sane d) (u : UnitId) (f : UnitRecord → UnitRecord)
    (hg : (d.units.get u).Good → (f (d.units.get u)).Good)
    (hs : (f (d.units.get u)).enabled = (d.units.get u).enabled
      ∧ (f (d.units.get u)).selectLine = (d.units.get u).selectLine) : Sane (d.modUnit u f) := by
  have hget : ∀ v, (d.modUnit u f).units.get v = if v = u then f (d.units.get u) else d.units.get v := fun v => by
    split
    · next hv => subst hv; exact Device.modUnit_get d v f
    · next hv => exact PerUnit.get_set_ne _ _ hv
  refine h.with_units (fun v => ?_) (fun v => ?_) rfl rfl rfl rfl
  · rw [hget]
    split
    · exact hg (h.units u)
    · exact h.units v
  · rw [hget]
    split
    · next hv => subst hv; exact hs
    · exact ⟨rfl, rfl⟩

theorem safe_modUnit (d : Device) (u : UnitId) (f : UnitRecord → UnitRecord) (hf : ∀ r, Alike r (f r)) :
    Safe d (d.modUnit u f) := fun h =>
  h.modUnit u f (fun g => (hf _).good g) ⟨(hf _).1, (hf _).2.1⟩

/-- R28, R30: time in a unit record. -/
theorem unitGood_advance {r : UnitRecord} (g : r.Good) (dt : Nat) : (r.advance dt).Good := by
  unfold UnitRecord.advance
  split
  · next hm =>
    refine ⟨g.cylinder, Nat.mod_lt _ (by decide), fun hf => ?_, ?_, fun t ht => ?_⟩
    · exact absurd (hm.symm.trans hf) (by decide)
    · rw [Option.isSome_map]; exact g.spinUp
    · obtain ⟨x, -, rfl⟩ := Option.map_eq_some_iff.mp ht
      exact Nat.min_le_left _ _
  · exact g

theorem safe_advance (d : Device) (dt : Nat) : Safe d (d.advance dt) := by
  intro h
  refine ⟨fun u => ?_, ?_, ?_, h.banks, h.enables, h.offline, h.cursor, h.window, h.pool⟩
  · rw [Device.advance_unit]; exact unitGood_advance (h.units u) dt
  · show (d.units.u0.advance dt).enabled = true → (d.units.u1.advance dt).enabled = true →
      (d.units.u0.advance dt).selectLine ≠ (d.units.u1.advance dt).selectLine
    simp only [UnitRecord.advance_enabled, UnitRecord.advance_selectLine]
    exact h.selectLines
  · have c := h.card
    refine ⟨c.capacity, c.blocks, ?_, fun t ht => ?_, c.run, c.retry, c.waits, c.grants⟩
    · show (d.card.initTime.map _).isSome = _
      rw [Option.isSome_map]; exact c.initTime
    · obtain ⟨x, -, rfl⟩ := Option.map_eq_some_iff.mp ht
      exact Nat.min_le_left _ _

/-! ### The card's record -/

/-- R135, R149: a card in initialization has no run and no retry. -/
theorem cardGood_initializing {c : CardRecord} (hr : c.run = none) (hy : c.retry = none) (hg : c.grants ≤ 8)
    (rs : List Request) : ({ c with
      requests := rs, state := .initializing, capacity := none, initTime := some 0, resetWaits := false } : CardRecord).Good :=
  ⟨rfl, nofun, rfl, fun t ht => by cases ht; decide, by simp [hr], by simp [hy], nofun, hg⟩

/-- R135, R149: initialization begins with no run and no retry. -/
theorem Sane.beginInit {d x : Device} (h : Sane d) (hr : x.card.run = none) (hy : x.card.retry = none)
    (hg : x.card.grants ≤ 8) (hu : x.units = d.units) (hb : x.banks = d.banks) (hp : x.port = d.port)
    (hl : x.pool = d.pool) : Sane x.beginInit := by
  unfold Device.beginInit
  rw [Device.failRequests_eq]
  exact h.with_card (cardGood_initializing hr hy hg []) hu hb hp hl

/-- R149: the end of a run, with all of the card's record in order but for a CARD_RESET that waits for it. -/
theorem Sane.afterRun {d x : Device} (h : Sane d)
    (hx : ({ x.card with resetWaits := false } : CardRecord).Good) (hr : x.card.run = none) (hy : x.card.retry = none)
    (hu : x.units = d.units) (hb : x.banks = d.banks) (hp : x.port = d.port) (hl : x.pool = d.pool) :
    Sane x.afterRun := by
  unfold Device.afterRun
  split
  · exact h.beginInit hr hy hx.grants hu hb hp hl
  · next hw =>
    refine h.with_card ?_ hu hb hp hl
    rwa [show x.card = { x.card with resetWaits := false } by rw [← Bool.eq_false_iff.mpr hw]]

/-- A record whose run or retry has ended, but for a CARD_RESET that waited for it. -/
theorem cardGood_ended {c : CardRecord} (g : c.Good) :
    ({ c with run := none, retry := none, resetWaits := false } : CardRecord).Good :=
  ⟨g.capacity, g.blocks, g.initTime, g.initLimit, nofun, nofun, nofun, g.grants⟩

theorem safe_dropRetry (d : Device) (w : Requester) : Safe d (d.dropRetry w) := by
  intro h
  unfold Device.dropRetry
  split
  · next run c hy =>
    split
    · have hr : d.card.run = none := by
        by_contra hn
        have := (h.card.run (Option.isSome_iff_ne_none.mpr hn)).2
        rw [hy] at this; cases this
      refine (safe_report d (run.report .uncorrected c) h).afterRun ?_ hr rfl rfl rfl rfl rfl
      have hc : ({ d.card with retry := none, resetWaits := false } : CardRecord)
          = { d.card with run := none, retry := none, resetWaits := false } := by rw [← hr]
      exact hc ▸ cardGood_ended h.card
    · exact h
  · exact h

theorem safe_withdraw (d : Device) (w : Requester) : Safe d (d.withdraw w) := by
  intro h
  unfold Device.withdraw
  refine safe_dropRetry _ w (h.with_card ?_ rfl rfl rfl rfl)
  have c := h.card
  exact ⟨c.capacity, c.blocks, c.initTime, c.initLimit, by simpa only [Option.isSome_map] using c.run, c.retry,
    by simpa only [Option.isSome_map] using c.waits, c.grants⟩

/-! ### Buffers that become FREE -/

theorem safe_freeBuf (d : Device) (i : Nat) : Safe d (d.freeBuf i) := by
  refine Safe.of_pool (d := d) (fun g => ?_)
  have g1 : ({ d.pool with buffers := d.pool.buffers.set i TrackBuffer.free } : Pool).Good := g.set i _ rfl
  refine ⟨g1.buffers, nodup_move_back g.lru i, fun j hj => ?_, g.queue.filter _, g.waits, g1.data⟩
  by_cases e : j = i
  · subst e; exact List.mem_append_right _ (List.mem_singleton.mpr rfl)
  · exact List.mem_append_left _ (List.mem_filter.mpr ⟨g.ordered j hj, by simpa using e⟩)

theorem safe_freeAll (d : Device) (is : List Nat) : Safe d (d.freeAll is) := by
  unfold Device.freeAll
  dsimp only
  exact (Safe.of_follows (follows_shuffle _ _ _)).trans (.foldl _ safe_freeBuf _ _)

theorem safe_dropCompletion (d : Device) (u : UnitId) : Safe d (d.dropCompletion u) := by
  refine Safe.of_pool (d := d) (fun g => ⟨(List.length_map ..).trans g.buffers, g.lru, g.ordered, g.queue, g.waits, fun b hb => ?_⟩)
  obtain ⟨x, hx, rfl⟩ := List.mem_map.mp hb
  have hw := g.data x hx
  split
  · split
    · exact hw
    · exact hw
  · exact hw

end Sys2Proof.Proofs
end

section
namespace Sys2Proof.Proofs
open Sys2Proof Sys2Proof.Machine

/-! ### The application of a change and the revolution start (R31, R160) -/

/-- Two parts with the same unit records. -/
def SameUnits (d e : Device) : Prop := e.units = d.units

theorem SameUnits.foldl {α : Type} (f : Device → α → Device) (hf : ∀ d a, SameUnits d (f d a)) :
    ∀ (l : List α) (d : Device), SameUnits d (l.foldl f d)
  | [], _ => rfl
  | a :: l, d => (SameUnits.foldl f hf l (f d a)).trans (hf d a)

theorem withdraw_units (d : Device) (w : Requester) : (d.withdraw w).units = d.units := by
  unfold Device.withdraw Device.dropRetry
  dsimp only
  split
  · split
    · unfold Device.afterRun Device.beginInit
      split
      · rw [Device.failRequests_eq]; rfl
      · rfl
    · rfl
  · rfl

theorem freeAll_units (d : Device) (is : List Nat) : (d.freeAll is).units = d.units := by
  unfold Device.freeAll
  dsimp only
  refine (SameUnits.foldl Device.freeBuf (fun _ _ => rfl) _ _).trans ?_
  exact (follows_shuffle _ _ _).settles.units

theorem abandonUnit_units (d : Device) (u : UnitId) : (d.abandonUnit u).units = d.units := by
  unfold Device.abandonUnit
  dsimp only
  refine (freeAll_units _ _).trans ((withdraw_units _ _).trans ?_)
  exact SameUnits.foldl (fun (x : Device) i => x.withdraw (.buffer i)) (fun x i => withdraw_units x _) _ _

theorem safe_abandonUnit (d : Device) (u : UnitId) : Safe d (d.abandonUnit u) := by
  unfold Device.abandonUnit
  dsimp only
  refine (((Safe.foldl _ (fun x i => safe_withdraw x (.buffer i)) _ d).trans (safe_withdraw _ _)).trans
    (safe_freeAll _ _)).trans (.of_pool (fun g => ?_))
  exact ⟨g.buffers, g.lru, g.ordered, g.queue, g.waits.filter _, g.data⟩

/-- The update of the units that a change makes is one of protect, latch and APPLIED. -/
theorem alike_modUnit {d e : Device} {u : UnitId} {f : UnitRecord → UnitRecord} (hf : ∀ r, Alike r (f r))
    (he : e.units = d.units) (v : UnitId) : Alike (d.units.get v) ((e.modUnit u f).units.get v) := by
  rcases eq_or_other u v with rfl | rfl
  · rw [Device.modUnit_get, he]; exact hf _
  · rw [Device.modUnit_get_other, he]; exact .refl _

/-- An effect that keeps `Sane` and what the select lines and motors show of each unit. -/
structure SafeAlike (d e : Device) : Prop where
  safe : Safe d e
  alike : ∀ v, Alike (d.units.get v) (e.units.get v)

theorem SafeAlike.refl (d : Device) : SafeAlike d d := ⟨.refl d, fun _ => .refl _⟩

theorem SafeAlike.trans {a b c : Device} (h : SafeAlike a b) (k : SafeAlike b c) : SafeAlike a c :=
  ⟨h.safe.trans k.safe, fun v => (h.alike v).trans (k.alike v)⟩

theorem SafeAlike.of_units {d e : Device} (h : Safe d e) (k : e.units = d.units) : SafeAlike d e :=
  ⟨h, fun v => by rw [k]; exact .refl _⟩

theorem SafeAlike.of_follows {d e : Device} (h : Follows d e) : SafeAlike d e := .of_units (.of_follows h) h.settles.units

theorem SafeAlike.modUnit (d : Device) (u : UnitId) (f : UnitRecord → UnitRecord) (hf : ∀ r, Alike r (f r)) :
    SafeAlike d (d.modUnit u f) := ⟨safe_modUnit d u f hf, alike_modUnit hf rfl⟩

theorem safeAlike_applyImageStage (d : Device) (u : UnitId) (p : Option ImagePart) :
    SafeAlike d (d.applyImageStage u p) := by
  unfold Device.applyImageStage
  split
  · rename_i part
    dsimp only
    have h1 : SafeAlike d ((d.displaceSectors .imageChanged (fun k => k.unit == u)).abandonUnit u) :=
      (SafeAlike.of_follows (follows_displaceSectors d _ _)).trans (.of_units (safe_abandonUnit _ u) (abandonUnit_units _ u))
    generalize (d.displaceSectors .imageChanged (fun k => k.unit == u)).abandonUnit u = x at h1 ⊢
    have h2 : SafeAlike x (x.applyImage u part) := by
      cases part with
      | mount m p =>
        exact (SafeAlike.of_units (.of_eq rfl rfl rfl rfl rfl rfl) rfl : SafeAlike x (x.setImage u (some m))).trans
          (.modUnit _ u (fun r => { r with protect := p }) (fun _ => ⟨rfl, rfl, rfl, rfl, rfl, rfl, rfl⟩))
      | eject =>
        exact (SafeAlike.of_units (.of_eq rfl rfl rfl rfl rfl rfl) rfl : SafeAlike x (x.setImage u none)).trans
          (.modUnit _ u (fun r => { r with protect := false }) (fun _ => ⟨rfl, rfl, rfl, rfl, rfl, rfl, rfl⟩))
    exact ((h1.trans h2).trans (.of_follows (follows_modWindow _ u _))).trans
      (.modUnit _ u _ (fun _ => ⟨rfl, rfl, rfl, rfl, rfl, rfl, rfl⟩))
  · exact .refl d

theorem safeAlike_applyProtect (d : Device) (u : UnitId) (p : Option Bool) : SafeAlike d (d.applyProtect u p) := by
  unfold Device.applyProtect
  split
  · split
    · exact .refl d
    · exact .modUnit d u _ (fun _ => ⟨rfl, rfl, rfl, rfl, rfl, rfl, rfl⟩)
  · exact .refl d

theorem safeAlike_setPending (d : Device) (u : UnitId) (c : Option Change) : SafeAlike d (d.setPending u c) :=
  .of_units (.of_eq rfl rfl rfl rfl rfl rfl) rfl

/-- R160: a pending change applies. -/
theorem safeAlike_applyChange (d : Device) (u : UnitId) (c : Change) : SafeAlike d (d.applyChange u c) := by
  unfold Device.applyChange
  dsimp only
  have h := ((safeAlike_applyImageStage d u c.image).trans (safeAlike_applyProtect _ u c.protect)).trans
    (.modUnit _ u (fun r => { r with applied := true }) (fun _ => ⟨rfl, rfl, rfl, rfl, rfl, rfl, rfl⟩))
  split
  · exact (h.trans (.of_follows (follows_withNotice d u true _))).trans (safeAlike_setPending _ u none)
  · exact h.trans (safeAlike_setPending _ u none)

theorem safe_tested (d : Device) : Safe d d.tested := fun h =>
  tested_keeps Sane d h (fun e u c he _ _ => (safeAlike_applyChange e u c).safe he) (fun e he => safe_settled e he)

/-- R31: the revolution start of a unit. -/
theorem safeAlike_revolutionEvent (d : Device) (u : UnitId) : SafeAlike d (d.revolutionEvent u) := by
  have hc : SafeAlike d (d.checkReady u) := by
    unfold Device.checkReady
    split
    · split
      · exact .of_units (safe_report d _) rfl
      · exact .refl d
    · exact .refl d
  have ha : ∀ x : Device, SafeAlike x (x.applyAtStart u) := fun x => by
    unfold Device.applyAtStart
    split
    · split
      · exact safeAlike_applyChange x u _
      · exact .refl x
    · exact .refl x
  unfold Device.revolutionEvent
  dsimp only
  exact (((hc.trans (.of_units (safe_dropCompletion _ u) rfl)).trans (.of_follows (follows_closeSection _ u))).trans
    (ha _)).trans (.modUnit _ u _ (fun _ => ⟨rfl, rfl, rfl, rfl, rfl, rfl, rfl⟩))

theorem safeAlike_takeStarts (u : UnitId) : ∀ (n : Nat) (d : Device), SafeAlike d (takeStarts u n d)
  | 0, d => .refl d
  | n + 1, d => (safeAlike_revolutionEvent d u).trans (safeAlike_takeStarts u n _)

theorem safeAlike_startsBefore (d : Device) (change : Device → Device) : SafeAlike d (d.startsBefore change) := by
  have h : ∀ (x : Device) u (b : Bool), SafeAlike x (if b then x.handStarts u else x) := fun x u b => by
    cases b
    · exact .refl x
    · exact safeAlike_takeStarts u _ x
  exact (h d .u0 _).trans (h _ .u1 _)

/-! ### The lines followed (R23 to R29) -/

theorem safe_withNotice {d e : Device} (u : UnitId) (app : Bool) (b : Device) (h : Safe d e) :
    Safe d (Device.withNotice b u app e) := h.trans (.of_follows (follows_withNotice b u app e))

theorem safe_sampleSide (d : Device) (u : UnitId) : Safe d (d.sampleSide u) := by
  unfold Device.sampleSide
  split
  · exact .refl d
  · refine safe_withNotice u false d (fun h => h.modUnit u _ (fun g => ?_) ⟨rfl, rfl⟩)
    exact ⟨g.cylinder, g.phase, g.stopped, g.spinUp, g.spinTime⟩

theorem safe_motorOff (d : Device) (u : UnitId) : Safe d (d.motorOff u) := by
  unfold Device.motorOff
  dsimp only
  refine ((((Safe.of_follows (follows_captureEnd d u)).trans (fun h => h.modUnit u UnitRecord.stopped (fun g => ?_) ⟨rfl, rfl⟩)).trans
    (safe_dropCompletion _ u)).trans (.of_follows (follows_closeSection _ u))).trans
    (.of_follows ((follows_joinUnit _ u).trans (follows_requestHeader _ u)))
  exact ⟨g.cylinder, by show 0 < 200000; decide, fun _ => ⟨rfl, rfl⟩, rfl, nofun⟩

theorem safe_followMotor (d : Device) (u : UnitId) : Safe d (d.followMotor u) := by
  unfold Device.followMotor
  dsimp only
  split
  · next hm =>
    simp only [Bool.and_eq_true, Bool.not_eq_true'] at hm
    refine safe_withNotice u false d (fun h => h.modUnit u UnitRecord.started (fun g => ?_) ⟨rfl, rfl⟩)
    refine ⟨g.cylinder, by show 0 < 200000; decide, nofun, ?_, fun t ht => ?_⟩
    · show true = (true && !(d.units.get u).atSpeed)
      rw [(g.stopped hm.2).1]; rfl
    · cases ht; exact Nat.zero_le _
  · split
    · exact safe_motorOff d u
    · exact .refl d

theorem safe_moveSelection (d : Device) (was : Option UnitId) : Safe d (d.moveSelection was) := by
  have hs : ∀ x : Device, Safe x (match x.selected with
      | some u => x.select u
      | none => x) := fun x => by
    split
    · exact (safe_sampleSide x _).trans (.of_eq rfl rfl rfl rfl rfl rfl)
    · exact .refl x
  unfold Device.moveSelection
  split
  · exact .refl d
  · cases was with
    | none => exact hs d
    | some v =>
      have hv : Safe (d.captureEnd v) (d.deselect v) := .of_eq rfl rfl rfl rfl rfl rfl
      exact ((Safe.of_follows (follows_captureEnd d v)).trans hv).trans (hs (d.deselect v))

theorem safe_evaluate (b d : Device) : Safe d (Device.evaluate b d) := by
  have hd : ∀ (x : Device) was, Safe x (x.reportDouble was) := fun x was => by
    unfold Device.reportDouble
    split
    · exact safe_report x _
    · exact .refl x
  unfold Device.evaluate
  dsimp only
  exact (((safe_moveSelection d b.selected).trans (hd _ _)).trans (safe_followMotor _ _)).trans (safe_followMotor _ _)

/-- A change of the lines. -/
theorem safe_followLines (d : Device) (f : Lines → Lines) :
    Safe d (d.followLines (fun x => { x with lines := f x.lines })) := by
  have hc : ∀ b : Device, Safe b { b with lines := f b.lines } := fun b => .of_eq rfl rfl rfl rfl rfl rfl
  unfold Device.followLines
  dsimp only
  exact ((safeAlike_startsBefore d _).safe.trans (hc _)).trans (safe_evaluate _ _)

/-- R22 c, d: a configuration that puts no two enabled units on one select line. -/
theorem safe_configure (d : Device) (u : UnitId) (c : UnitConfig) (hl : d.lineTaken u c = false) :
    Safe d (d.configure u c) := by
  intro h
  have hs := safeAlike_startsBefore d (fun x => x.modUnit u (fun r => r.configured c))
  refine safe_evaluate _ _ ?_
  have hb := hs.safe h
  generalize d.startsBefore (fun x => x.modUnit u (fun r => r.configured c)) = b at hb hs ⊢
  have ho := hs.alike u.other
  obtain ⟨hen, hsel, -⟩ := ho
  have hline : c.enabled = true → (b.units.get u.other).enabled = true →
      (b.units.get u.other).selectLine ≠ c.select := by
    intro h1 h2
    rw [hen] at h2
    rw [hsel]
    simpa [Device.lineTaken, h1, h2] using hl
  refine ⟨fun v => ?_, ?_, hb.card, hb.banks, hb.enables, hb.offline, hb.cursor, hb.window, hb.pool⟩
  · rcases eq_or_other u v with rfl | rfl
    · have g := hb.units v
      rw [Device.modUnit_get]
      exact ⟨g.cylinder, g.phase, g.stopped, g.spinUp, g.spinTime⟩
    · rw [Device.modUnit_get_other]; exact hb.units _
  · cases u with
    | u0 => exact fun h1 h2 => (hline h1 h2).symm
    | u1 => exact fun h1 h2 => hline h2 h1

end Sys2Proof.Proofs
end

section
namespace Sys2Proof.Proofs
open Sys2Proof Sys2Proof.Machine

/-! ### The events of the Drive Port -/

theorem safe_onAtSpeed (d : Device) (u : UnitId) : Safe d (d.onAtSpeed u) := by
  unfold Device.onAtSpeed
  split
  · next t hm _ =>
    refine (safe_advance d _).trans (fun h => h.modUnit u _ (fun g => ?_) ⟨rfl, rfl⟩)
    have hr : ((d.advance (Config.spinUpTime - t)).units.get u).motor = true := by
      rw [Device.advance_unit, UnitRecord.advance_motor]; exact hm
    refine ⟨g.cylinder, g.phase, fun hf => absurd (hr.symm.trans hf) (by decide), ?_, nofun⟩
    show false = (_ && !true)
    rw [Bool.not_true, Bool.and_false]
  · exact .refl d

theorem safe_onRevolution (d : Device) (u : UnitId) : Safe d (d.onRevolution u) := by
  unfold Device.onRevolution
  dsimp only
  split
  · split
    · exact (safeAlike_revolutionEvent d u).safe
    · exact (safe_advance d _).trans (safeAlike_revolutionEvent _ u).safe
  · exact .refl d

theorem safe_onIndexEnd (d : Device) : Safe d d.onIndexEnd := by
  unfold Device.onIndexEnd
  split
  · split
    · exact safe_advance d _
    · exact .refl d
  · exact .refl d

theorem safe_moveHead (d : Device) (u : UnitId) (c : Nat) (hc : c ≤ 83) : Safe d (d.moveHead u c) := by
  refine safe_withNotice u false d (fun h => h.modUnit u _ (fun g => ?_) ⟨rfl, rfl⟩)
  exact ⟨hc, g.phase, g.stopped, g.spinUp, g.spinTime⟩

/-- R33, R34: a step leaves the head in 0..83. -/
theorem safe_takeStep (d : Device) (u : UnitId) (inward : Bool) : Safe d (d.takeStep u inward) := by
  have hl : Safe d (d.stepLatch u) := by
    unfold Device.stepLatch
    split
    · exact safe_modUnit d u _ (fun _ => ⟨rfl, rfl, rfl, rfl, rfl, rfl, rfl⟩)
    · exact .refl d
  intro h
  have hc : (d.units.get u).cylinder ≤ 83 := (h.units u).cylinder
  unfold Device.takeStep
  dsimp only
  split
  · split
    · next hlt => exact safe_moveHead _ u _ (by have : (d.units.get u).cylinder < 83 := hlt; omega) (hl h)
    · exact safe_report _ _ (hl h)
  · split
    · exact hl h
    · exact safe_moveHead _ u _ (by omega) (hl h)

theorem safe_onStep (d : Device) (inward : Bool) : Safe d (d.onStep inward) := by
  have hd : Safe d { d with lines := { d.lines with dir := inward } } := .of_eq rfl rfl rfl rfl rfl rfl
  unfold Device.onStep
  dsimp only
  split
  · exact hd
  · split
    · exact hd.trans (safe_report _ _)
    · exact hd.trans (safe_takeStep _ _ _)

theorem safe_onSide (d : Device) (v : Bool) : Safe d (d.onSide v) := by
  have hd : Safe d { d with lines := { d.lines with side := v } } := .of_eq rfl rfl rfl rfl rfl rfl
  unfold Device.onSide
  dsimp only
  split
  · split
    · exact hd
    · exact hd.trans (safe_sampleSide _ _)
  · exact hd

theorem safe_writeStart (d : Device) (u : UnitId) : Safe d (d.writeStart u) := by
  unfold Device.writeStart
  dsimp only
  split
  · exact safe_report d _
  · split
    · exact safe_report d _
    · split
      · exact safe_report d _
      · split
        · exact .refl d
        · exact .of_eq rfl rfl rfl rfl rfl rfl

theorem safe_onGateAssert (d : Device) : Safe d d.onGateAssert := by
  have hd : Safe d { d with lines := { d.lines with wgate := true } } := .of_eq rfl rfl rfl rfl rfl rfl
  unfold Device.onGateAssert
  split
  · exact .refl d
  · dsimp only
    split
    · exact (hd.trans (.of_follows (follows_closeSection _ _))).trans (safe_writeStart _ _)
    · exact hd

theorem safe_onGateRelease (d : Device) : Safe d d.onGateRelease := by
  have hd : Safe d { d with lines := { d.lines with wgate := false } } := .of_eq rfl rfl rfl rfl rfl rfl
  unfold Device.onGateRelease
  split
  · dsimp only
    split
    · exact (hd.trans (.of_follows (follows_captureEnd _ _))).trans (safe_sampleSide _ _)
    · exact hd
  · exact .refl d

theorem safe_onWriteByte (d : Device) (b : Byte) (w : WireMode) (k : Bool) : Safe d (d.onWriteByte b w k) := by
  have ht : ∀ u, Safe d (d.takeWriteByte u b w k) := fun u => by
    unfold Device.takeWriteByte
    split
    · split
      · exact .of_eq rfl rfl rfl rfl rfl rfl
      · exact .refl d
    · exact .refl d
  unfold Device.onWriteByte
  dsimp only
  refine Safe.trans ?_ (safe_advance _ _)
  split
  · split
    · exact ht _
    · exact .refl d
  · exact .refl d

theorem safe_trackSlot (d : Device) (u : UnitId) (i : Nat) (l : Layout) (slot : Nat) : Safe d (d.trackSlot u i l slot) := by
  unfold Device.trackSlot
  dsimp only
  split
  · exact (Safe.of_follows (follows_touch d i)).trans (.of_eq rfl rfl rfl rfl rfl rfl)
  · exact .of_eq rfl rfl rfl rfl rfl rfl

theorem safe_onReadSlot (d : Device) : Safe d d.onReadSlot := by
  unfold Device.onReadSlot
  split
  · next u _ =>
    refine (safe_advance d (d.nextSlot u).1).trans ?_
    unfold Device.deliverSlot
    split
    · split
      · exact safe_trackSlot _ _ _ _ _
      · exact .of_eq rfl rfl rfl rfl rfl rfl
    · exact .of_eq rfl rfl rfl rfl rfl rfl
  · exact .refl d

/-! ### The events of the Card Port -/

/-- R134: outside READY there is neither a run nor a retry. -/
theorem cardGood_idle {c : CardRecord} (g : c.Good) (h : c.state ≠ .ready) : c.run = none ∧ c.retry = none := by
  constructor
  · by_contra hn; exact h (g.run (Option.isSome_iff_ne_none.mpr hn)).1
  · by_contra hn; exact h (g.retry (Option.isSome_iff_ne_none.mpr hn))

theorem safe_onCardInsert (d : Device) : Safe d d.onCardInsert := by
  intro h
  unfold Device.onCardInsert
  dsimp only
  split
  · next ha =>
    obtain ⟨hr, hy⟩ := cardGood_idle h.card (by rw [ha.1]; exact nofun)
    exact h.beginInit hr hy h.card.grants rfl rfl rfl rfl
  · exact h.with_card h.card rfl rfl rfl rfl

theorem safe_endCardReset (d : Device) (k : TermClass) (x : Detail) : Safe d (d.endCardReset k x) := by
  unfold Device.endCardReset
  split
  · exact .of_follows (follows_finishCommand d k x)
  · exact .refl d

/-- R135 b, c: the initialization fails. -/
theorem safe_initFailed (d : Device) (hs : d.card.state = .initializing) : Safe d d.initFailed := by
  intro h
  obtain ⟨hr, hy⟩ := cardGood_idle h.card (by rw [hs]; exact nofun)
  unfold Device.initFailed
  refine safe_endCardReset _ _ _ (safe_report _ _ (h.with_card ?_ rfl rfl rfl rfl))
  exact ⟨rfl, nofun, rfl, nofun, by simp [hr], by simp [hy], h.card.waits, h.card.grants⟩

/-- R135 a, R136: the card becomes READY. -/
theorem safe_cardReady (d : Device) (n : Nat) (hs : d.card.state = .initializing) (hn : 1 ≤ n ∧ n < 2 ^ 32) :
    Safe d (d.cardReady n) := by
  intro h
  obtain ⟨hr, hy⟩ := cardGood_idle h.card (by rw [hs]; exact nofun)
  refine safe_endCardReset _ _ _ (h.with_card ?_ rfl rfl rfl rfl)
  exact ⟨rfl, fun m hm => by cases hm; exact hn, rfl, nofun, by simp [hr], by simp [hy], h.card.waits, Nat.zero_le _⟩

theorem safe_onInitAnswer (d : Device) (n : BitVec 32) : Safe d (d.onInitAnswer n.toNat) := by
  unfold Device.onInitAnswer
  split
  · next hi =>
    have hs : d.card.state = .initializing := by
      unfold Device.initRunning at hi
      simp only [Bool.and_eq_true, beq_iff_eq] at hi
      exact hi.1
    split
    · exact safe_initFailed d hs
    · exact safe_cardReady d _ hs ⟨by omega, n.isLt⟩
  · exact .refl d

theorem safe_onInitTimeout (d : Device) : Safe d d.onInitTimeout := by
  unfold Device.onInitTimeout
  split
  · next hs _ => exact (safe_advance d _).trans (safe_initFailed _ hs)
  · exact .refl d

/-- R146: the Card Controller with no card, and every buffer FREE. -/
theorem safe_emptyPool (d : Device) : Safe d d.emptyPool := by
  unfold Device.emptyPool
  dsimp only
  exact (safe_freeAll d bufferIds).trans (.of_pool (fun g => ⟨g.buffers, g.lru, g.ordered, .nil, .nil, g.data⟩))

theorem safe_removal (d : Device) : Safe d d.removal := by
  have hl : ∀ (x : Device) u, Safe x (x.loseUnit u) := fun x u =>
    safe_modUnit x u _ (fun _ => ⟨rfl, rfl, rfl, rfl, rfl, rfl, rfl⟩)
  have hc : ∀ x : Device, Safe x x.emptyCard := fun x h => h.with_card resetCard_good rfl rfl rfl rfl
  have he : ∀ x : Device, Safe x x.endCommandAbsent := fun x => by
    unfold Device.endCommandAbsent
    split <;> first | exact .of_follows (follows_finishCommand x _ _) | exact .refl x
  have hr : ∀ x : Device, Safe x (x.reportRemoval d) := fun x => by
    unfold Device.reportRemoval
    split
    · exact safe_report x _
    · exact .refl x
  have h0 : Safe d (((d.loseUnit .u0).loseUnit .u1).emptyCard.emptyPool) :=
    (((hl d .u0).trans (hl _ .u1)).trans (hc _)).trans (safe_emptyPool _)
  have hq : ∀ x : Device, Safe x { x.emptyImages with captures := ⟨none, none⟩, seq := x.seq.lose } := fun x =>
    .of_eq rfl rfl rfl rfl rfl rfl
  have hs : ∀ (x : Device) u, Safe x (Device.finishSlot d (x.closeSection u) u) := fun x u =>
    .of_follows ((follows_closeSection x u).trans (follows_finishSlot d _ u))
  unfold Device.removal
  generalize ((d.loseUnit .u0).loseUnit .u1).emptyCard.emptyPool = x at h0
  dsimp only
  exact ((((h0.trans (hq x)).trans (hs _ .u0)).trans (hs _ .u1)).trans (he _)).trans (hr _)

theorem safe_onCardRemove (d : Device) : Safe d d.onCardRemove := by
  have hd : Safe d { d with lines := { d.lines with cardDetect := false } } := .of_eq rfl rfl rfl rfl rfl rfl
  unfold Device.onCardRemove
  dsimp only
  split
  · exact hd
  · exact hd.trans (safe_removal _)

/-! ### Runs -/

/-- A run goes on a READY card with no retry. -/
theorem cardGood_putRun {c : CardRecord} (g : c.Good) (hs : c.state = .ready) (r : Run) (rs : List Request) (n : Nat)
    (hn : n ≤ 8) : ({ c with run := some r, retry := none, requests := rs, grants := n } : CardRecord).Good :=
  ⟨g.capacity, g.blocks, g.initTime, g.initLimit, fun _ => ⟨hs, rfl⟩, nofun, fun _ => .inl rfl, hn⟩

/-- R139: with the starvation bound reached and class D waiting, class D is granted, so the count stays in 0..8. -/
theorem grantsAfter_le {d : Device} {cls : ArbClass} (hg : d.card.grants ≤ 8) (h : d.grantClass = some cls) :
    d.grantsAfter cls ≤ 8 := by
  by_cases hw : d.waitsD = true
  · by_cases hs : 8 ≤ d.card.grants
    · have hd : cls = .d := by
        unfold Device.grantClass Device.starving at h
        rw [hw, Bool.and_true, if_pos (decide_eq_true (show Config.grantBound ≤ d.card.grants from hs))] at h
        exact (Option.some.inj h).symm
      subst hd
      exact Nat.zero_le _
    · unfold Device.grantsAfter
      cases cls <;> simp only [hw, if_true] <;> omega
  · unfold Device.grantsAfter
    cases cls <;> simp only [hw, if_false, Bool.false_eq_true] <;> omega

theorem canGrant_iff (d : Device) : d.canGrant = true ↔
    d.card.state = .ready ∧ d.card.run = none ∧ (d.card.retry.isSome = true ∨ d.card.requests ≠ []) := by
  simp [Device.canGrant, and_assoc]

/-- R138: the choice of a request draws at most on the free choices. -/
theorem oldest_eq (d : Device) (cls : ArbClass) : ∃ n, (d.oldest cls).2 = { d with freeCount := n } := by
  unfold Device.oldest Device.choose
  dsimp only
  split
  · exact ⟨d.freeCount, rfl⟩
  · exact ⟨d.freeCount + 1, rfl⟩

theorem safe_markWriting (d : Device) (r : Request) : Safe d (d.markWriting r) := by
  unfold Device.markWriting
  split
  · exact .of_eq rfl rfl rfl rfl rfl rfl
  all_goals exact .refl d

theorem safe_grantRequest (d : Device) (cls : ArbClass) (hs : d.card.state = .ready) (hy : d.card.retry = none)
    (hc : d.grantClass = some cls) : Safe d (d.grantRequest cls) := by
  intro h
  unfold Device.grantRequest
  split
  · next r d1 he =>
    obtain ⟨n, hn⟩ := oldest_eq d cls
    have hd1 : d1 = { d with freeCount := n } := by rw [← hn, he]
    subst hd1
    refine safe_markWriting _ r (h.with_card ?_ rfl rfl rfl rfl)
    unfold Device.putRun
    dsimp only
    rw [hy]
    exact cardGood_putRun h.card hs _ _ _ (grantsAfter_le h.card.grants hc)
  · exact h

theorem safe_onGrant (d : Device) : Safe d d.onGrant := by
  unfold Device.onGrant
  split
  · next hg =>
    obtain ⟨hs, -, -⟩ := (canGrant_iff d).mp hg
    split
    · exact fun h => h.with_card (cardGood_putRun h.card hs _ _ _ h.card.grants) rfl rfl rfl rfl
    · next hy =>
      split
      · next cls hc => exact safe_grantRequest d cls hs hy hc
      · exact .refl d
  · exact .refl d

/-- R144: the card that two time-outs of one run take to FAILED. -/
theorem cardGood_failed {c : CardRecord} (g : c.Good) (hs : c.state = .ready) :
    ({ c with run := none, retry := none, state := .failed, capacity := none, requests := [], grants := 0
              resetWaits := false } : CardRecord).Good :=
  ⟨rfl, nofun, by have := g.initTime; rw [hs] at this; exact this, g.initLimit, nofun, nofun, nofun, Nat.zero_le _⟩

theorem tellRun_eq (d : Device) (r : Run) (ok : Bool) (bs : List Byte) : ∃ n, d.tellRun r ok bs = { d with news := n } := by
  unfold Device.tellRun
  split
  · exact ⟨d.news, rfl⟩
  · exact ⟨_, rfl⟩

theorem safe_runDone (d : Device) (r : Run) (data : List Byte) (hr : d.card.run = some r) : Safe d (d.runDone r data) := by
  intro h
  have hy : d.card.retry = none := (h.card.run (by rw [hr]; rfl)).2
  have hc : ({ d.card with run := none, resetWaits := false } : CardRecord).Good := by
    have := cardGood_ended h.card
    rwa [← hy] at this
  unfold Device.runDone
  dsimp only
  cases r.firstCause with
  | none =>
    obtain ⟨n, hn⟩ := tellRun_eq d.dropRun r true (r.answerBytes data)
    dsimp only
    rw [hn]
    exact h.afterRun hc rfl hy rfl rfl rfl rfl
  | some c =>
    obtain ⟨n, hn⟩ := tellRun_eq (d.dropRun.report (r.report .corrected c)) r true (r.answerBytes data)
    dsimp only
    rw [hn]
    exact (safe_report d (r.report .corrected c) h).afterRun hc rfl hy rfl rfl rfl rfl

theorem safe_runLost (d : Device) (r : Run) (c : RunCause) (hr : d.card.run = some r) : Safe d (d.runLost r c) := by
  intro h
  obtain ⟨hs, hy⟩ := h.card.run (by rw [hr]; rfl)
  have hg : Sane (d.report (r.report .uncorrected c)) := safe_report d _ h
  unfold Device.runLost
  dsimp only
  obtain ⟨n, hn⟩ := tellRun_eq d.dropRun r false []
  rw [hn]
  split
  · unfold Device.cardFails
    rw [Device.failRequests_eq]
    have hc := cardGood_failed h.card hs
    rw [← hy] at hc
    exact hg.afterRun hc rfl hy rfl rfl rfl rfl
  · have hc := cardGood_ended h.card
    rw [← hy] at hc
    exact hg.afterRun hc rfl hy rfl rfl rfl rfl

theorem safe_runFails (d : Device) (r : Run) (c : RunCause) (hr : d.card.run = some r) : Safe d (d.runFails r c) := by
  unfold Device.runFails
  split
  · intro h
    obtain ⟨hs, -⟩ := h.card.run (by rw [hr]; rfl)
    refine h.with_card ?_ rfl rfl rfl rfl
    exact ⟨h.card.capacity, h.card.blocks, h.card.initTime, h.card.initLimit, nofun, fun _ => hs, fun _ => .inr rfl,
      h.card.grants⟩
  · exact safe_runLost d r c hr

theorem safe_onRunAnswer (d : Device) (a : CardAnswer) : Safe d (d.onRunAnswer a) := by
  unfold Device.onRunAnswer
  split
  · next r hr =>
    split
    · cases a with
      | complete data =>
        dsimp only
        split
        · exact safe_runDone d r data hr
        · exact safe_runFails d r _ hr
      | badCheck => exact safe_runFails d r _ hr
      | error => exact safe_runFails d r _ hr
    · exact .refl d
  · exact .refl d

theorem advance_run (d : Device) (dt : Nat) : (d.advance dt).card.run = d.card.run := rfl

theorem safe_onRunTimeout (d : Device) : Safe d d.onRunTimeout := by
  unfold Device.onRunTimeout
  split
  · next r hr => exact (safe_advance d _).trans (safe_runFails _ r _ ((advance_run d _).trans hr))
  · exact .refl d

end Sys2Proof.Proofs
end

section
namespace Sys2Proof.Proofs
open Sys2Proof Sys2Proof.Machine

/-! ### Write-back, the application, frames and commands -/

theorem safe_requestHeader (d : Device) (u : UnitId) : Safe d (d.requestHeader u) := .of_follows (follows_requestHeader d u)

theorem safe_startFlush (d : Device) (i : Nat) : Safe d (d.startFlush i) := by
  unfold Device.startFlush
  split
  · next k _ =>
    split
    · next m _ =>
      refine Safe.trans (b := d.setBuf i ((d.buf i).snapshot m k)) (.of_follows (follows_setBuf_same d i _ i rfl)) ?_
      refine Safe.trans (.of_pool (fun g => ?_)) (safe_requestHeader _ _)
      exact ⟨g.buffers, g.lru, g.ordered, g.queue.filter _, g.waits, g.data⟩
    · exact .refl d
  · exact .refl d

theorem safe_onFlushStart (d : Device) (u : UnitId) : Safe d (d.onFlushStart u) := by
  unfold Device.onFlushStart
  split
  · exact safe_startFlush d _
  · exact .refl d

theorem safe_onDirtyExpiry (d : Device) (i : Nat) : Safe d (d.onDirtyExpiry i) := by
  unfold Device.onDirtyExpiry
  split
  · exact (safe_advance d _).trans (.of_follows (follows_joinQueue _ i))
  · exact .refl d

theorem safe_onApply (d : Device) (u : UnitId) : Safe d (d.onApply u) := by
  unfold Device.onApply
  split
  · split
    · exact (safeAlike_applyChange d u _).safe.trans (safe_modUnit _ u _ (fun _ => ⟨rfl, rfl, rfl, rfl, rfl, rfl, rfl⟩))
    · exact .refl d
  · exact .refl d

/-- The Loader Port changes in nothing that `Sane` speaks of. -/
theorem safe_port (d : Device) (p : LoaderPort) (hc : p.cursor = d.port.cursor) (hw : p.window = d.port.window) :
    Safe d { d with port := p } := .of_eq rfl rfl rfl hc hw rfl

theorem safe_openFrame (d : Device) : Safe d d.openFrame := safe_port d _ rfl rfl

theorem safe_fault (d : Device) : Safe d d.fault := safe_port d _ rfl rfl

theorem safe_sendOut (d : Device) (bs : List Byte) : Safe d (d.sendOut bs) := safe_port d _ rfl rfl

theorem safe_finish (d : Device) (c : Byte) (k : TermClass) (x : Detail) (bs : List Byte) : Safe d (d.finish c k x bs) :=
  safe_port d _ rfl rfl

theorem safe_refuse (d : Device) (c : Byte) (x : Detail) : Safe d (d.refuse c x) := safe_finish d c _ x []

theorem safe_done (d : Device) (c : Byte) : Safe d (d.done c) := safe_finish d c _ _ []

theorem safe_execute (d : Device) (c : Command) : Safe d (d.execute c) := safe_port d _ rfl rfl

theorem safe_setCursor (d : Device) (n : Nat) (hn : n ≤ 8192) : Safe d (d.setCursor n) := fun h =>
  ⟨h.units, h.selectLines, h.card, h.banks, h.enables, h.offline, hn, h.window, h.pool⟩

theorem safe_onResultFrame (d : Device) (n : Nat) : Safe d (d.onResultFrame n) := by
  unfold Device.onResultFrame
  dsimp only
  split
  · split
    · exact ((safe_openFrame d).trans (safe_sendOut _ _)).trans (safe_port _ _ rfl rfl)
    · exact (safe_openFrame d).trans (safe_sendOut _ _)
  all_goals exact (safe_openFrame d).trans (safe_sendOut _ _)

theorem safe_onCursorFrame (d : Device) (bs : List Byte) : Safe d (d.onCursorFrame bs) := by
  unfold Device.onCursorFrame
  dsimp only
  split
  · split
    · exact ((safe_openFrame d).trans (safe_setCursor _ _ (Nat.le_refl _))).trans (safe_fault _)
    · next hv => exact (safe_openFrame d).trans (safe_setCursor _ _ (Nat.not_lt.mp hv))
  · exact (safe_openFrame d).trans (safe_fault _)

/-- R170: the cursor moves as far as the window goes. -/
theorem safe_moveCursor (d : Device) (n : Nat) : Safe d (d.moveCursor n) := by
  intro h
  have hc : d.port.cursor + min n d.port.room ≤ 8192 := by
    have := h.cursor
    have : d.port.room = 8192 - d.port.cursor := rfl
    omega
  unfold Device.moveCursor
  dsimp only
  split
  · exact safe_fault _ (safe_setCursor d _ hc h)
  · exact safe_setCursor d _ hc h

theorem safe_onDataIn (d : Device) (bs : List Byte) : Safe d (d.onDataIn bs) := by
  have hw : ∀ (x : Device) a bs', Safe x { x with port := { x.port with window := x.port.window.write a bs' } } :=
    fun x a bs' h => ⟨h.units, h.selectLines, h.card, h.banks, h.enables, h.offline, h.cursor,
      Mem.wf_write _ _ _ h.window, h.pool⟩
  unfold Device.onDataIn
  dsimp only
  split
  · exact (safe_openFrame d).trans (safe_fault _)
  · exact ((safe_openFrame d).trans (hw _ _ _)).trans (safe_moveCursor _ _)

theorem safe_onDataOut (d : Device) (n : Nat) : Safe d (d.onDataOut n) := by
  unfold Device.onDataOut
  dsimp only
  split
  · exact ((safe_openFrame d).trans (safe_sendOut _ _)).trans (safe_fault _)
  · exact ((safe_openFrame d).trans (safe_sendOut _ _)).trans (safe_moveCursor _ _)

theorem safe_onPortReset (d : Device) : Safe d d.onPortReset := by
  have ha : ∀ x : Device, Safe x x.abandonCommand := fun x => by
    unfold Device.abandonCommand
    split
    iterate 3 exact safe_withdraw x .engine
    all_goals exact .refl x
  unfold Device.onPortReset
  refine ((safe_openFrame d).trans (ha _)).trans (fun h => ?_)
  exact ⟨h.units, h.selectLines, h.card, h.banks, h.enables, h.offline, Nat.zero_le _, h.window, h.pool⟩

theorem safe_onUnknownFrame (d : Device) (t : Byte) (n : Nat) : Safe d (d.onUnknownFrame t n) := by
  unfold Device.onUnknownFrame
  split
  · exact .refl d
  · exact ((safe_openFrame d).trans (safe_sendOut _ _)).trans (safe_fault _)

/-- R166 a: a COMMAND frame keeps what the judging of its command keeps. -/
theorem safe_onCommand (d : Device) (f : Device → Device) (hf : ∀ x, Safe x (f x)) : Safe d (d.onCommand f) := by
  unfold Device.onCommand
  dsimp only
  split
  · exact (safe_openFrame d).trans (hf _)
  all_goals exact (safe_openFrame d).trans (safe_fault _)

theorem safe_onInvalidCommand (d : Device) (c : Byte) : Safe d (d.onInvalidCommand c) := by
  unfold Device.onInvalidCommand
  split
  · exact .refl d
  · exact safe_onCommand d _ (fun x => safe_refuse x _ _)

theorem safe_judgeConfigure (d : Device) (u e s m l : Byte) : Safe d (d.judgeConfigure u e s m l) := by
  unfold Device.judgeConfigure
  split
  · split
    · exact safe_refuse d _ _
    · split
      · exact safe_refuse d _ _
      · next hl => exact (safe_configure d _ _ (Bool.eq_false_iff.mpr hl)).trans (safe_done _ _)
  · exact safe_refuse d _ _

theorem safe_judgeMask (d : Device) (m : Byte) : Safe d (d.judgeMask m) := by
  unfold Device.judgeMask
  split
  · next mask _ => exact (safe_port d { d.port with mask := mask } rfl rfl).trans (safe_done _ _)
  · exact safe_refuse d _ _

/-- A command that begins with one request. -/
theorem safe_executeRequest (d : Device) (c : Command) (r : Request) : Safe d ((d.execute c).request r) :=
  (safe_execute d c).trans (.of_follows (follows_request _ r))

theorem safe_judgeMount (d : Device) (u : Byte) (n : Nat) (p : Byte) : Safe d (d.judgeMount u n p) := by
  unfold Device.judgeMount
  split
  · split
    · exact safe_refuse d _ _
    · split
      · exact safe_refuse d _ _
      · split
        · exact safe_refuse d _ _
        · split
          · exact safe_refuse d _ _
          · unfold Device.startMount
            split
            · exact safe_refuse d _ _
            · exact safe_executeRequest d _ _
  · exact safe_refuse d _ _

theorem safe_setStaged (d : Device) (u : UnitId) (c : Change) : Safe d (d.setStaged u c) := by
  unfold Device.setStaged
  split
  · exact .of_eq rfl rfl rfl rfl rfl rfl
  · exact .refl d

theorem safe_placeChange (d : Device) (u : UnitId) (c : Change) : Safe d (d.placeChange u c) :=
  (safeAlike_setPending d u (some c)).safe.trans (.of_follows ((follows_joinUnit _ u).trans (follows_requestHeader _ u)))

theorem safe_judgeEject (d : Device) (u : Byte) : Safe d (d.judgeEject u) := by
  unfold Device.judgeEject
  split
  · split
    · exact safe_refuse d _ _
    · split
      · unfold Device.stageEject
        split
        · exact (safe_setStaged d _ _).trans (safe_finish _ _ _ _ _)
        · split
          · exact (safe_setStaged d _ _).trans (safe_finish _ _ _ _ _)
          · exact safe_refuse d _ _
      · unfold Device.placeEject
        split
        · exact (safe_placeChange d _ _).trans (safe_finish _ _ _ _ _)
        · exact safe_refuse d _ _
  · exact safe_refuse d _ _

theorem safe_judgeValue (d : Device) (m : Option MountRecord) (v : Bool) (f : Device → Device) (hf : Safe d (f d)) :
    Safe d (d.judgeValue m v f) := by
  unfold Device.judgeValue
  split
  · split
    · exact safe_refuse d _ _
    · exact hf
  · exact safe_refuse d _ _

theorem safe_judgeProtect (d : Device) (u v : Byte) : Safe d (d.judgeProtect u v) := by
  unfold Device.judgeProtect
  split
  · split
    · exact safe_judgeValue d _ _ _ ((safe_setStaged d _ _).trans (safe_finish _ _ _ _ _))
    · next v _ _ _ =>
      exact safe_judgeValue d _ _ _ ((safe_modUnit d _ (fun r => { r with protect := v })
        (fun _ => ⟨rfl, rfl, rfl, rfl, rfl, rfl, rfl⟩)).trans (safe_done _ _))
  · exact safe_refuse d _ _

theorem safe_setGroup (d : Device) (g : Option (PerUnit Change)) : Safe d (d.setGroup g) := .of_eq rfl rfl rfl rfl rfl rfl

theorem safe_judgeHold (d : Device) : Safe d d.judgeHold := by
  unfold Device.judgeHold
  split
  · exact safe_refuse d _ _
  · exact (safe_setGroup d _).trans (safe_done _ _)

theorem safe_placeStaged (d : Device) (g : PerUnit Change) (u : UnitId) : Safe d (d.placeStaged g u) := by
  unfold Device.placeStaged
  split
  · exact .refl d
  · exact safe_placeChange d u _

theorem safe_judgeRelease (d : Device) : Safe d d.judgeRelease := by
  unfold Device.judgeRelease
  split
  · exact safe_refuse d _ _
  · split
    · exact safe_refuse d _ _
    · exact (((safe_placeStaged d _ .u0).trans (safe_placeStaged _ _ .u1)).trans (safe_setGroup _ _)).trans (safe_done _ _)

theorem safe_judgeDiscard (d : Device) : Safe d d.judgeDiscard := by
  unfold Device.judgeDiscard
  split
  · exact (safe_setGroup d _).trans (safe_done _ _)
  · exact safe_refuse d _ _

theorem safe_judgeSectors (d : Device) (c : SectorCmd) : Safe d (d.judgeSectors c) := by
  have hs : Safe d (d.serveSectors c) := by
    unfold Device.serveSectors
    dsimp only
    split
    · exact (safe_execute d _).trans (.of_follows (follows_applySectors rfl _ _))
    · exact (safe_execute d _).trans (.of_follows (follows_requestFill _ _))
  unfold Device.judgeSectors
  dsimp only
  split
  · exact safe_refuse d _ _
  · split
    · exact safe_refuse d _ _
    · split
      · exact safe_refuse d _ _
      · split
        · exact safe_refuse d _ _
        · split
          · exact safe_refuse d _ _
          · split
            · exact safe_finish d _ _ _ _
            · exact hs

theorem safe_judgeReadBlocks (d : Device) (b : Nat) (n : Byte) : Safe d (d.judgeReadBlocks b n) := by
  unfold Device.judgeReadBlocks
  split
  · exact safe_refuse d _ _
  · split
    · exact safe_refuse d _ _
    · exact safe_executeRequest d _ _

theorem safe_judgeWriteBlocks (d : Device) (b : Nat) (n : Byte) : Safe d (d.judgeWriteBlocks b n) := by
  unfold Device.judgeWriteBlocks
  split
  · exact safe_refuse d _ _
  · split
    · exact safe_refuse d _ _
    · split
      · exact safe_refuse d _ _
      · exact safe_executeRequest d _ _

theorem safe_judgeFlush (d : Device) (s : Byte) : Safe d (d.judgeFlush s) := by
  have hu : ∀ (x : Device) (sel : FlushSel) u, Safe x (x.flushUnit sel u) := fun x sel u => by
    unfold Device.flushUnit
    split
    · exact .of_follows ((follows_joinUnit x u).trans (follows_requestHeader _ u))
    · exact .refl x
  unfold Device.judgeFlush
  split
  · exact safe_refuse d _ _
  · split
    · exact safe_done d _
    · split
      · exact safe_refuse d _ _
      · exact ((safe_execute d _).trans (hu _ _ .u0)).trans (hu _ _ .u1)

theorem safe_judgeStatus (d : Device) (u : Byte) : Safe d (d.judgeStatus u) := by
  unfold Device.judgeStatus
  split
  · exact (safe_modUnit d _ UnitRecord.clearEvents (fun _ => ⟨rfl, rfl, rfl, rfl, rfl, rfl, rfl⟩)).trans
      (safe_finish _ _ _ _ _)
  · exact safe_refuse d _ _

theorem safe_judgeCardReset (d : Device) : Safe d d.judgeCardReset := by
  unfold Device.judgeCardReset
  split
  · exact safe_refuse d _ _
  · split
    · exact safe_refuse d _ _
    · intro h
      have hx := safe_execute d .cardReset h
      unfold Device.startCardReset
      dsimp only
      split
      · next hw =>
        refine hx.with_card ?_ rfl rfl rfl rfl
        have c := hx.card
        exact ⟨c.capacity, c.blocks, c.initTime, c.initLimit, c.run, c.retry, fun _ => by simpa using hw, c.grants⟩
      · next hn =>
        simp only [Bool.or_eq_true, not_or, Bool.not_eq_true, Option.isSome_eq_false_iff, Option.isNone_iff_eq_none] at hn
        exact hx.beginInit hn.1 hn.2 hx.card.grants rfl rfl rfl rfl

/-! ### The bank commands (R183, R189, R190) -/

/-- One bank is replaced by a good one; FIP and OFFLINE stay. -/
theorem safe_setBank (d : Device) (i : BankId) (b : Bank) (hg : (d.banks.get i).Good i → b.Good i)
    (he : b.enables.length = (d.banks.get i).enables.length) : Safe d { d with banks := d.banks.set i b } := by
  intro h
  have hget : ∀ j, (d.banks.set i b).get j = if j = i then b else d.banks.get j := fun j => by
    split
    · next hj => subst hj; exact FaultBanks.get_set_self _ _ _
    · next hj => exact FaultBanks.get_set_ne _ _ hj
  refine ⟨h.units, h.selectLines, h.card, fun j => ?_, fun j => ?_, ?_, h.cursor, h.window, h.pool⟩
  · show ((d.banks.set i b).get j).Good j
    rw [hget]
    split
    · next hj => subst hj; exact hg (h.banks j)
    · exact h.banks j
  · show ((d.banks.set i b).get j).enables.length = _
    rw [hget]
    split
    · next hj => subst hj; exact he.trans (h.enables j)
    · exact h.enables j
  · show (d.banks.set i b).offline = true → (d.banks.set i b).fip = true
    rw [FaultBanks.set_offline, FaultBanks.set_fip]
    exact h.offline

theorem clear_good (i : BankId) (b : Bank) : b.clear.Good i := ⟨Nat.zero_le _, nofun, fun _ h => nomatch h⟩

theorem safe_clearAll : ∀ (is : List BankId) (d : Device), Safe d { d with banks := d.banks.clearAll is }
  | [], d => .refl d
  | i :: is, d =>
    (safe_setBank d i (d.banks.get i).clear (fun _ => clear_good i _) rfl).trans
      (safe_clearAll is { d with banks := d.banks.set i (d.banks.get i).clear })

theorem safe_judgeClearBank (d : Device) (b : Byte) : Safe d (d.judgeClearBank b) := by
  unfold Device.judgeClearBank
  split
  · exact (safe_clearAll _ d).trans (safe_done _ _)
  · exact safe_refuse d _ _

theorem safe_judgeReadBank (d : Device) (b : Byte) : Safe d (d.judgeReadBank b) := by
  unfold Device.judgeReadBank
  split
  · exact safe_finish d _ _ _ _
  · exact safe_refuse d _ _

theorem safe_judgeBankEnable (d : Device) (b c e : Byte) : Safe d (d.judgeBankEnable b c e) := by
  unfold Device.judgeBankEnable
  split
  · split
    · refine (safe_setBank d _ _ (fun g => ?_) (List.length_set ..)).trans (safe_done _ _)
      exact ⟨g.count, g.overflow, g.cause⟩
    · exact safe_refuse d _ _
  · exact safe_refuse d _ _

theorem safe_resume (d : Device) : Safe d d.resume := by
  have hl : ∀ (x : Device) u, Safe x (x.modUnit u UnitRecord.setLatch) := fun x u =>
    safe_modUnit x u _ (fun _ => ⟨rfl, rfl, rfl, rfl, rfl, rfl, rfl⟩)
  unfold Device.resume
  refine ((hl d .u0).trans (hl _ .u1)).trans (fun h => ?_)
  refine ⟨h.units, h.selectLines, h.card, fun i => ?_, fun i => ?_, nofun, h.cursor, h.window, h.pool⟩
  · have := h.banks i; cases i <;> exact this
  · have := h.enables i; cases i <;> exact this

/-! ### Resets -/

/-- R45, R150: the part after a reset, with good banks that are not OFFLINE. -/
theorem sane_afterReset (d : Device) (b : FaultBanks) (hb : ∀ i, (b.get i).Good i)
    (he : ∀ i, (b.get i).enables.length = i.causes) (ho : b.offline = false) : Sane (d.afterReset b) := by
  refine ⟨fun u => ?_, nofun, ?_, hb, he, fun h => absurd (ho.symm.trans h) (by decide), by show 0 ≤ 8192; decide, rfl,
    resetPool_good⟩
  · cases u with
    | u0 =>
      refine ⟨Nat.zero_le _, by show 0 < 200000; decide, fun _ => ⟨rfl, rfl⟩, ?_, fun t ht => ?_⟩
      · show (if d.lines.mota then some 0 else none).isSome = (d.lines.mota && !false)
        cases d.lines.mota <;> rfl
      · have ht' : (if d.lines.mota then some 0 else none) = some t := ht
        split at ht' <;> cases ht'
        exact Nat.zero_le _
    | u1 => exact resetUnit_good .u1
  · show (if d.lines.cardDetect then _ else _ : CardRecord).Good
    split
    · exact cardGood_initializing (c := CardRecord.reset) rfl rfl (by decide) []
    · exact resetCard_good

/-- R191: the banks that the reset line leaves. -/
theorem resetLine_get (b : FaultBanks) (i : BankId) : b.resetLine.get i = b.get i := by cases i <;> rfl

theorem safe_onResetLine (d : Device) : Safe d d.onResetLine := by
  intro h
  have hs : Sane ((d.handStarts .u0).handStarts .u1) :=
    (safeAlike_takeStarts .u1 _ _).safe ((safeAlike_takeStarts .u0 _ d).safe h)
  rw [onResetLine_eq]
  refine sane_afterReset _ _ (fun i => ?_) (fun i => ?_) rfl
  · rw [resetLine_get]; exact hs.banks i
  · rw [resetLine_get]; exact hs.enables i

/-! ### Every step -/

/-- R166 d, R173: a sector command is judged when its parameters lie in their fields, and refused with RANGE otherwise. -/
def judgeSectorParams (code : Byte) (params : Option SectorCmd) (d : Device) : Device :=
  params.elim (d.refuse code .range) d.judgeSectors

/-- The three sector commands go through one judging. -/
theorem effect_sectors (u c h r n m : Byte) (d : Device) :
    effect (.readSectors u c h r n) d = d.onCommand (judgeSectorParams 0x30 (sectorParams .read u c h r n))
    ∧ effect (.writeSectors u c h r n m) d =
      d.onCommand (judgeSectorParams 0x31 ((flagParam m).bind (fun b => sectorParams (.write b) u c h r n)))
    ∧ effect (.verifySectors u c h r n) d = d.onCommand (judgeSectorParams 0x32 (sectorParams .verify u c h r n)) := by
  have ho : ∀ (f g : Device → Device), (∀ x, f x = g x) → d.onCommand f = d.onCommand g := fun f g hfg => by
    rw [show f = g from funext hfg]
  simp only [effect]
  refine ⟨ho _ _ (fun x => ?_), ho _ _ (fun x => ?_), ho _ _ (fun x => ?_)⟩
  · cases sectorParams .read u c h r n <;> rfl
  · cases (flagParam m).bind (fun b => sectorParams (.write b) u c h r n) <;> rfl
  · cases sectorParams .verify u c h r n <;> rfl

theorem safe_judgeSectorParams (code : Byte) (p : Option SectorCmd) (d : Device) : Safe d (judgeSectorParams code p d) := by
  cases p with
  | none => exact safe_refuse d _ _
  | some c => exact safe_judgeSectors d c

/-- Every command's own effect keeps `Sane`. -/
theorem safe_effect (i : Instr) (d : Device) : Safe d (effect i d) := by
  cases i with
  | powerOn =>
    have he : effect .powerOn d = d.afterReset FaultBanks.powerOn := onPowerOn_eq d
    exact fun _ => he ▸ sane_afterReset d _ powerOn_good powerOn_enables rfl
  | resetLine => exact safe_onResetLine d
  | selectLineChange l v => exact safe_followLines d (fun x => x.setSel l v)
  | motorLineChange l v => exact safe_followLines d (fun x => x.setMotor l v)
  | atSpeed u => exact safe_onAtSpeed d u
  | revolutionStart u => exact safe_onRevolution d u
  | indexPulseEnd => exact safe_onIndexEnd d
  | stepPulse b => exact safe_onStep d b
  | sideChange v => exact safe_onSide d v
  | writeGateAssert => exact safe_onGateAssert d
  | writeDataByte b w k => exact safe_onWriteByte d b w k
  | writeGateRelease => exact safe_onGateRelease d
  | readSlot => exact safe_onReadSlot d
  | cardDetectAssert => exact safe_onCardInsert d
  | cardInitAnswer n => exact safe_onInitAnswer d n
  | cardInitTimeout => exact safe_onInitTimeout d
  | cardDetectRelease => exact safe_onCardRemove d
  | runGrant => exact safe_onGrant d
  | runEnd a => exact safe_onRunAnswer d a
  | runTimeout => exact safe_onRunTimeout d
  | flushStart u => exact safe_onFlushStart d u
  | dirtySinceExpiry i => exact safe_onDirtyExpiry d i
  | pendingChangeApply u => exact safe_onApply d u
  | resultFrame n => exact safe_onResultFrame d n
  | cursorFrame bs => exact safe_onCursorFrame d bs
  | dataInFrame bs => exact safe_onDataIn d bs
  | dataOutFrame n => exact safe_onDataOut d n
  | portReset => exact safe_onPortReset d
  | unknownFrameType t n => exact safe_onUnknownFrame d t n
  | invalidCommand c => exact safe_onInvalidCommand d c
  | configureUnit u e l m k => exact safe_onCommand d _ (fun x => safe_judgeConfigure x u e l m k)
  | setInterruptMask m => exact safe_onCommand d _ (fun x => safe_judgeMask x m)
  | mount u h p => exact safe_onCommand d _ (fun x => safe_judgeMount x u _ p)
  | eject u => exact safe_onCommand d _ (fun x => safe_judgeEject x u)
  | setProtect u v => exact safe_onCommand d _ (fun x => safe_judgeProtect x u v)
  | hold => exact safe_onCommand d _ safe_judgeHold
  | release => exact safe_onCommand d _ safe_judgeRelease
  | discard => exact safe_onCommand d _ safe_judgeDiscard
  | readSectors u c h r n => exact (effect_sectors u c h r n 0 d).1 ▸ safe_onCommand d _ (safe_judgeSectorParams _ _)
  | writeSectors u c h r n m =>
    exact (effect_sectors u c h r n m d).2.1 ▸ safe_onCommand d _ (safe_judgeSectorParams _ _)
  | verifySectors u c h r n => exact (effect_sectors u c h r n 0 d).2.2 ▸ safe_onCommand d _ (safe_judgeSectorParams _ _)
  | readBlocks b n => exact safe_onCommand d _ (fun x => safe_judgeReadBlocks x _ n)
  | writeBlocks b n => exact safe_onCommand d _ (fun x => safe_judgeWriteBlocks x _ n)
  | flush s => exact safe_onCommand d _ (fun x => safe_judgeFlush x s)
  | unitStatus u => exact safe_onCommand d _ (fun x => safe_judgeStatus x u)
  | cardReset => exact safe_onCommand d _ safe_judgeCardReset
  | readBank b => exact safe_onCommand d _ (fun x => safe_judgeReadBank x b)
  | clearBank b => exact safe_onCommand d _ (fun x => safe_judgeClearBank x b)
  | setBankEnable b c e => exact safe_onCommand d _ (fun x => safe_judgeBankEnable x b c e)
  | resume => exact safe_onCommand d _ (fun x => (safe_resume x).trans (safe_done _ _))
  | commandFrameDropped => exact (safe_openFrame d).trans (safe_fault _)

/-- An effect with all that follows it keeps the invariant. -/
theorem inv_of_effect {d e : Device} (h : d.Inv) (hs : Safe d e) (hk : Keeps d e) : e.settled.tested.Inv :=
  (safe_tested _ (safe_settled _ (hs (.of_inv h)))).inv
    (keeps_tested _ (keeps_settled _ (hk ⟨h.pool.buffers, h.held⟩)))

/-- The part's own steps are commands, and one microsecond of time. -/
theorem tick_cases (d : Device) : d.tick = d.advance 1 ∨ ∃ i, d.tick = effect i d := by
  unfold Device.tick
  split
  · next f hf =>
    right
    obtain ⟨o, ho, hof⟩ := List.exists_of_findSome?_eq_some hf
    have hid : o = some f := hof
    subst hid
    have hdue : ∀ {c : Bool} {g : Device → Device}, some f = due c g → f = g := fun {c g} hc => by
      unfold due at hc
      split at hc
      · exact Option.some.inj hc
      · exact nomatch hc
    simp only [Device.dueSteps, List.mem_cons, List.not_mem_nil, or_false] at ho
    rcases ho with h | h | h | h | h | h | h | h | h | h | h | h | h
    · exact ⟨.runGrant, by rw [hdue h]; rfl⟩
    · exact ⟨.flushStart .u0, by rw [hdue h]; rfl⟩
    · exact ⟨.flushStart .u1, by rw [hdue h]; rfl⟩
    · exact ⟨.pendingChangeApply .u0, by rw [hdue h]; rfl⟩
    · exact ⟨.pendingChangeApply .u1, by rw [hdue h]; rfl⟩
    · exact ⟨.atSpeed .u0, by rw [hdue h]; rfl⟩
    · exact ⟨.atSpeed .u1, by rw [hdue h]; rfl⟩
    · exact ⟨.revolutionStart .u0, by rw [hdue h]; rfl⟩
    · exact ⟨.revolutionStart .u1, by rw [hdue h]; rfl⟩
    · exact ⟨.cardInitTimeout, by rw [hdue h]; rfl⟩
    · exact ⟨.runTimeout, by rw [hdue h]; rfl⟩
    · obtain ⟨i, hi, rfl⟩ := Option.map_eq_some_iff.mp h.symm
      have hlt : i < 8 := List.mem_range.mp (List.mem_of_find?_eq_some hi)
      exact ⟨.dirtySinceExpiry ⟨i, hlt⟩, rfl⟩
    · exact ⟨.readSlot, by rw [hdue h]; rfl⟩
  · exact .inl rfl

/-- Settles O7: a step is a command of the queue, a step of the part's own, or the passing of one microsecond. -/
theorem everyStepKeepsTheMachineGood : Obligations.EveryStepKeepsTheMachineGood := by
  intro s t h hstep
  unfold step at hstep
  split at hstep
  · next c rest _ =>
    rw [exec_eq] at hstep
    cases hstep
    exact inv_of_effect h (safe_effect c s.dev) (keeps_effect c s.dev)
  · cases hstep
    rcases tick_cases s.dev with ht | ⟨i, ht⟩
    · rw [ht]; exact inv_of_effect h (safe_advance _ 1) (keeps_advance _ 1)
    · rw [ht]; exact inv_of_effect h (safe_effect i s.dev) (keeps_effect i s.dev)

end Sys2Proof.Proofs
end

section
namespace Sys2Proof.Proofs
open Sys2Proof Sys2Proof.Machine

/-! ### What selection and the test of R159 read -/

/-- R24: selection reads the select lines, and of each unit whether it is enabled and on which line. -/
theorem selected_congr {d e : Device} (hl : ∀ l, e.lines.sel l = d.lines.sel l)
    (hu : ∀ u, (e.units.get u).enabled = (d.units.get u).enabled
      ∧ (e.units.get u).selectLine = (d.units.get u).selectLine) : e.selected = d.selected := by
  have hs : ∀ u, e.selectable u = d.selectable u := fun u => by
    unfold Device.selectable
    rw [(hu u).1, (hu u).2, hl]
  unfold Device.selected
  rw [hs, hs]

/-- Time selects no unit. -/
theorem selected_advance (d : Device) (dt : Nat) : (d.advance dt).selected = d.selected := by
  refine selected_congr (fun _ => rfl) (fun u => ?_)
  rw [Device.advance_unit, UnitRecord.advance_enabled, UnitRecord.advance_selectLine]
  exact ⟨rfl, rfl⟩

/-- R159 a: whether a unit is clear follows from the gate, the selection, the captures, the images and the states and
keys of the buffers. -/
theorem unitClear_congr {d e : Device} (hl : e.lines = d.lines) (hs : e.selected = d.selected)
    (hc : e.captures = d.captures) (hb : ∀ i, (e.buf i).state = (d.buf i).state ∧ (e.buf i).key = (d.buf i).key)
    (hi : e.images = d.images) (u : UnitId) : e.unitClear u = d.unitClear u := by
  have ho : ∀ i, (e.ownedBy i u && (e.buf i).state.unsaved) = (d.ownedBy i u && (d.buf i).state.unsaved) := fun i => by
    unfold Device.ownedBy
    rw [(hb i).1, (hb i).2]
  unfold Device.unitClear Device.isSelected Device.unsavedCount Device.headerDirty
  rw [hl, hs, hc, hi]
  simp only [ho]

/-- R159 a: a unit with no buffer DIRTY or FLUSHING. -/
theorem unsavedCount_eq_zero (d : Device) (u : UnitId) : d.unsavedCount u = 0 ↔
    ∀ i < 8, ∀ k, (d.buf i).key = some k → k.unit = u → (d.buf i).state ≠ .dirty ∧ (d.buf i).state ≠ .flushing := by
  have hu : ∀ b : BufferState, b.unsaved = true ↔ ¬(b ≠ .dirty ∧ b ≠ .flushing) := fun b => by cases b <;> decide
  have ho : ∀ i, d.ownedBy i u = true ↔ ∃ k, (d.buf i).key = some k ∧ k.unit = u := fun i => by
    unfold Device.ownedBy
    cases (d.buf i).key with
    | none => simp
    | some k => simp
  unfold Device.unsavedCount
  rw [List.length_eq_zero_iff, List.filter_eq_nil_iff]
  simp only [bufferIds, List.mem_range, Bool.and_eq_true, ho, hu]
  constructor
  · exact fun h i hi k hk hku => not_not.mp (fun hn => h i hi ⟨⟨k, hk, hku⟩, hn⟩)
  · rintro h i hi ⟨⟨k, hk, hku⟩, hn⟩
    exact hn (h i hi k hk hku)

/-- R159 a. -/
theorem unitClear_iff (d : Device) (u : UnitId) : d.unitClear u = true ↔
    ¬ (d.lines.wgate = true ∧ d.selected = some u) ∧ d.captures.get u = none
    ∧ (∀ i < 8, ∀ k, (d.buf i).key = some k → k.unit = u → (d.buf i).state ≠ .dirty ∧ (d.buf i).state ≠ .flushing)
    ∧ ∀ m, d.images.get u = some m → m.headerState = .clean := by
  have hh : d.headerDirty u = false ↔ ∀ m, d.images.get u = some m → m.headerState = .clean := by
    unfold Device.headerDirty
    cases d.images.get u with
    | none => simp
    | some m => simp
  unfold Device.unitClear Device.isSelected
  rw [← unsavedCount_eq_zero, ← hh]
  simp only [Bool.and_eq_true, Bool.not_eq_true', Bool.and_eq_false_iff, Option.isNone_iff_eq_none, beq_iff_eq, and_assoc,
    not_and_or, Bool.not_eq_true, beq_eq_false_iff_ne, ne_eq]

/-! ### Time (R28, R30, R32) -/

/-- With nothing due, one microsecond passes. -/
theorem tick_of_nothing_due {d : Device} (h : ∀ f ∈ d.dueSteps, f = none) : d.tick = d.advance 1 := by
  unfold Device.tick
  rw [show d.dueSteps.findSome? id = none from List.findSome?_eq_none_iff.mpr h]

/-- R28, R30: a stretch of time with the motor running. -/
theorem advance_running (r : UnitRecord) (dt : Nat) (h : r.motor = true) : r.advance dt =
    { r with
      phase := (r.phase + dt) % 200000
      spinUp := r.spinUp.map (fun t => min 300000 (t + dt))
      revDue := r.revDue + ((r.phase + dt) / 200000 - (r.phase + r.beforeSpeed dt) / 200000) } := by
  unfold UnitRecord.advance
  rw [if_pos h]
  rfl

/-- Settles O2: the passing of time makes nothing owed, and acts on each unit by itself. -/
theorem anIdleStepLetsTimePass : Obligations.AnIdleStepLetsTimePass := by
  refine ⟨fun s hp hd => ?_, fun d dt u _ => ⟨rfl, fun hm => ?_, fun hm => ?_⟩⟩
  · have hf := follows_settled (s.dev.advance 1)
    refine ⟨{ s with dev := (s.dev.advance 1).settled.tested }, _, ?_, hp, rfl, hf.settles, fun hrest => ?_⟩
    · rw [show step s = idle s by unfold step; rw [hp], idle, run_eq, tick_of_nothing_due hd]
    · exact settled_of_quiet _ (adv_rest _ 1 hrest)
  · rw [Device.advance_unit]; exact UnitRecord.advance_stopped _ dt hm
  · rw [Device.advance_unit]; exact advance_running _ dt hm

/-- R28: with a spin-up the unit is at speed at its end. -/
theorem effect_atSpeed {d : Device} {u : UnitId} {t : Nat} (hm : (d.units.get u).motor = true)
    (ht : (d.units.get u).spinUp = some t) : effect (.atSpeed u) d =
      (d.advance (300000 - t)).modUnit u (fun r => { r with atSpeed := true, spinUp := none }) := by
  simp only [effect, Device.onAtSpeed, hm, ht, Config.spinUpTime]

/-- R28: without a spin-up there is no such event. -/
theorem effect_atSpeed_none {d : Device} {u : UnitId}
    (h : (d.units.get u).motor = false ∨ (d.units.get u).spinUp = none) : effect (.atSpeed u) d = d := by
  rcases h with h | h
  · simp only [effect, Device.onAtSpeed, h]
  · cases hm : (d.units.get u).motor <;> simp only [effect, Device.onAtSpeed, h, hm]

/-- Settles O11: phase and spin-up time that ran from 0 together meet the end of the spin-up at half a revolution. -/
theorem atSpeedEndsTheSpinUp : Obligations.AtSpeedEndsTheSpinUp := by
  refine ⟨fun s u t hm ht => ⟨?_, fun hle hp => ?_⟩, fun s u h => ?_⟩
  · exact Follows.answers (effect_atSpeed hm ht)
      (fun hrest => modUnit_rest _ u _ (fun _ => ⟨rfl, rfl, rfl⟩) (adv_rest _ _ hrest))
  · rw [Device.advance_unit, advance_running _ _ hm, hp]
    show (t % 200000 + (300000 - t)) % 200000 = 100000
    omega
  · exact Follows.answers (effect_atSpeed_none h) id

/-- R32: index is asserted while the phase of the selected unit is below 2,000 µs. -/
theorem indexLine_iff {d : Device} {u : UnitId} (hu : d.selected = some u) : d.indexLine = true ↔
    (d.units.get u).motor = true ∧ (d.units.get u).atSpeed = true ∧ d.mounted u = true ∧ d.banks.offline = false
      ∧ (d.units.get u).phase < 2000 := by
  unfold Device.indexLine
  rw [hu]
  simp only [Bool.and_eq_true, Bool.not_eq_true', decide_eq_true_eq, and_assoc]
  rfl

/-- R32: the end of the pulse. -/
theorem effect_indexPulseEnd {d : Device} {u : UnitId} (hu : d.selected = some u) (hi : d.indexLine = true) :
    effect .indexPulseEnd d = d.advance (2000 - (d.units.get u).phase) := by
  simp only [effect, Device.onIndexEnd, hu, if_pos hi, Config.indexPulse]

theorem effect_indexPulseEnd_none {d : Device} (hi : d.indexLine = false) : effect .indexPulseEnd d = d := by
  simp only [effect, Device.onIndexEnd]
  split
  · exact if_neg (by rw [hi]; decide)
  · rfl

/-- Settles O13: the phase runs to 2,000 µs, where index is released. -/
theorem theIndexPulseEnds : Obligations.TheIndexPulseEnds := by
  refine ⟨fun s u hu hi => ⟨?_, ?_⟩, fun s hi => ?_⟩
  · exact Follows.answers (effect_indexPulseEnd hu hi) (adv_rest _ _)
  · obtain ⟨hm, -, -, -, hp⟩ := (indexLine_iff hu).mp hi
    refine Bool.eq_false_iff.mpr (fun hx => ?_)
    obtain ⟨-, -, -, -, hlt⟩ := (indexLine_iff ((selected_advance _ _).trans hu)).mp hx
    rw [Device.advance_unit, advance_running _ _ hm] at hlt
    have : ((s.dev.units.get u).phase + (2000 - (s.dev.units.get u).phase)) % 200000 < 2000 := hlt
    omega
  · exact Follows.answers (effect_indexPulseEnd_none hi) id

/-! ### The revolution start (R31, R83, R84, R159) -/

/-- R83: the pool without the completion phases of the unit's buffers. -/
theorem dropCompletion_eq (d : Device) (u : UnitId) : d.dropCompletion u =
    { d with pool := { d.pool with buffers := d.pool.buffers.map (fun (t : TrackBuffer) =>
      if t.key.map TrackKey.unit = some u then { t with completion := none } else t) } } := by
  have hg : (fun b : TrackBuffer => (match b.key with
      | some k => if k.unit = u then { b with completion := none } else b
      | none => b)) = fun b => if b.key.map TrackKey.unit = some u then { b with completion := none } else b := by
    funext b
    cases b.key <;> simp
  exact congrArg (fun f => { d with pool := { d.pool with buffers := d.pool.buffers.map f } }) hg

/-- R83: of the buffers, only completion phases go. -/
theorem dropCompletion_buf (d : Device) (u : UnitId) (i : Nat) :
    ((d.dropCompletion u).buf i) = if (d.buf i).key.map TrackKey.unit = some u then { d.buf i with completion := none }
      else d.buf i := by
  rw [dropCompletion_eq]
  unfold Device.buf
  simp only [List.getD_eq_getElem?_getD, List.getElem?_map]
  cases d.pool.buffers[i]? <;> rfl

/-- R83: the state, the key, the work and the mark of a buffer stay. -/
theorem dropCompletion_keep (d : Device) (u : UnitId) (i : Nat) :
    ((d.dropCompletion u).buf i).state = (d.buf i).state ∧ ((d.dropCompletion u).buf i).key = (d.buf i).key
    ∧ ((d.dropCompletion u).buf i).work = (d.buf i).work ∧ ((d.dropCompletion u).buf i).evict = (d.buf i).evict := by
  rw [dropCompletion_buf]
  split <;> exact ⟨rfl, rfl, rfl, rfl⟩

theorem dropCompletion_rest (d : Device) (u : UnitId) (h : d.AtRest) : (d.dropCompletion u).micro = none :=
  (SameWork.of_bufs (d := d) (e := d.dropCompletion u) rfl (dropCompletion_keep d u) (fun _ => Iff.rfl) rfl rfl rfl rfl rfl
    (fun _ => ⟨rfl, rfl, rfl⟩) rfl h).quiet h

/-- A unit is as clear after the completion phases and the open section have gone. -/
theorem unitClear_closed (d : Device) (u v : UnitId) : ((d.dropCompletion u).closeSection u).unitClear v = d.unitClear v :=
  unitClear_congr (d := d) (e := (d.dropCompletion u).closeSection u) rfl rfl rfl
    (fun i => ⟨(dropCompletion_keep d u i).1, (dropCompletion_keep d u i).2.1⟩) rfl v

/-- R84: a selected unit whose formatted current track is not readable is reported. -/
theorem checkReady_reports {d : Device} {u : UnitId} {k : TrackKey} (hs : d.selected = some u)
    (hk : d.currentTrack u = some k) (hf : (d.formatOf k).isSome = true) (hr : d.readableHolder k = none) :
    d.checkReady u = d.report (mkReport .note .trackNotReady .fill (some u) (some k.loc)) := by
  unfold Device.checkReady Device.isSelected
  rw [hk]
  simp [hs, hf, hr]

/-- R84: another unit is not. -/
theorem checkReady_silent {d : Device} {u : UnitId}
    (h : ¬ (d.selected = some u ∧ ∃ k, d.currentTrack u = some k ∧ (d.formatOf k).isSome = true
      ∧ d.readableHolder k = none)) : d.checkReady u = d := by
  unfold Device.checkReady Device.isSelected
  split
  · next k hk =>
    refine if_neg (fun hc => h ?_)
    simp only [Bool.and_eq_true, beq_iff_eq, Option.isNone_iff_eq_none] at hc
    obtain ⟨⟨hs, hf⟩, hr⟩ := hc
    exact ⟨hs, k, hk, hf, hr⟩
  · rfl

/-- R31: the event without the check of R84, which `e` is. -/
theorem revolutionEvent_of_checked {d e : Device} {u : UnitId} (he : d.checkReady u = e)
    (hs : e.seq = d.seq) (hu : e.units = d.units) (hc : ∀ v, e.unitClear v = d.unitClear v) :
    (d.seq.pending.get u = none ∨ (d.units.get u).startUsed = true ∨ d.unitClear u = false →
      d.revolutionEvent u = ((e.dropCompletion u).closeSection u).modUnit u
        (fun r => { r with revDue := r.revDue - 1, startUsed := false }))
    ∧ ∀ c, d.seq.pending.get u = some c → (d.units.get u).startUsed = false → d.unitClear u = true →
      d.revolutionEvent u = (((e.dropCompletion u).closeSection u).applyChange u c).modUnit u
        (fun r => { r with revDue := r.revDue - 1, startUsed := false }) := by
  have hx : ((e.dropCompletion u).closeSection u).unitClear u = d.unitClear u := (unitClear_closed e u u).trans (hc u)
  have hp : ((e.dropCompletion u).closeSection u).seq.pending.get u = d.seq.pending.get u := by
    rw [Device.closeSection_seq, Device.dropCompletion_seq, hs]
  have hst : ((e.dropCompletion u).closeSection u).units.get u = d.units.get u := by
    rw [Device.closeSection_units, Device.dropCompletion_units, hu]
  unfold Device.revolutionEvent Device.applyAtStart
  dsimp only
  rw [he, hx, hp, hst]
  refine ⟨fun h => ?_, fun c h1 h2 h3 => ?_⟩
  · cases hpend : d.seq.pending.get u with
    | none => rfl
    | some c =>
      rcases h with h | h | h
      · exact nomatch hpend.symm.trans h
      · simp [h]
      · simp [h]
  · simp [h1, h2, h3]

/-- A report leaves a unit as clear as it is. -/
theorem unitClear_report (d : Device) (r : Report) (v : UnitId) : (d.report r).unitClear v = d.unitClear v := rfl

/-- R31: the event by itself. -/
theorem revolutionEvent_eq (d : Device) (u : UnitId) :
    let notReady := d.selected = some u ∧ ∃ k, d.currentTrack u = some k ∧ (d.formatOf k).isSome = true
      ∧ d.readableHolder k = none
    let loc : Option TrackLoc := (d.currentTrack u).map (fun k => { cyl := k.cyl, head := k.head, r := none })
    let report : Report :=
      { cls := .note, cause := .trackNotReady, op := .fill, unit := some u, track := loc, block := none }
    ∀ e, notReady ∧ e = d.report report ∨ ¬ notReady ∧ e = d →
      let closed := (e.dropCompletion u).closeSection u
      (d.seq.pending.get u = none ∨ (d.units.get u).startUsed = true ∨ d.unitClear u = false →
        d.revolutionEvent u = closed.modUnit u (fun r => { r with revDue := r.revDue - 1, startUsed := false }))
      ∧ ∀ c, d.seq.pending.get u = some c → (d.units.get u).startUsed = false → d.unitClear u = true →
        d.revolutionEvent u =
          (closed.applyChange u c).modUnit u (fun r => { r with revDue := r.revDue - 1, startUsed := false }) := by
  rintro notReady loc report e (⟨⟨hs, k, hk, hf, hr⟩, rfl⟩ | ⟨hn, rfl⟩)
  · have he : d.checkReady u = d.report report := by
      rw [checkReady_reports hs hk hf hr]
      show _ = d.report { cls := _, cause := _, op := _, unit := _, track := (d.currentTrack u).map _, block := _ }
      rw [hk]
      rfl
    exact revolutionEvent_of_checked he rfl rfl (unitClear_report d _)
  · exact revolutionEvent_of_checked (checkReady_silent hn) rfl rfl (fun _ => rfl)

theorem effect_revolutionStart {d : Device} {u : UnitId} (hm : (d.units.get u).motor = true)
    (ha : (d.units.get u).atSpeed = true) : effect (.revolutionStart u) d =
      (if 0 < (d.units.get u).revDue then d else d.advance (200000 - (d.units.get u).phase)).revolutionEvent u := by
  simp only [effect, Device.onRevolution, hm, ha, Bool.and_self, if_true, Config.revolution]
  split <;> rfl

theorem effect_revolutionStart_none {d : Device} {u : UnitId}
    (h : (d.units.get u).motor = false ∨ (d.units.get u).atSpeed = false) : effect (.revolutionStart u) d = d := by
  rcases h with h | h <;> simp [effect, Device.onRevolution, h]

/-- Time leaves what the event of R31 asks of the unit. -/
theorem unitClear_advance (d : Device) (dt : Nat) (v : UnitId) : (d.advance dt).unitClear v = d.unitClear v :=
  unitClear_congr (d := d) (e := d.advance dt) rfl (selected_advance d dt) rfl (fun _ => ⟨rfl, rfl⟩) rfl v

theorem advance_startUsed (r : UnitRecord) (dt : Nat) : (r.advance dt).startUsed = r.startUsed := by
  unfold UnitRecord.advance
  split <;> rfl

/-- Settles O12: the command is the event of R31 at the wrap, and the event is as its clauses say. -/
theorem aRevolutionStartIsHanded : Obligations.ARevolutionStartIsHanded := by
  refine ⟨?_, fun d u => ⟨revolutionEvent_eq d u, dropCompletion_eq d u, unitClear_iff d u⟩⟩
  intro s u r d applies taken handed
  refine ⟨fun hm ha => ?_, fun h => Follows.answers (effect_revolutionStart_none h) id⟩
  have heff : effect (.revolutionStart u) s.dev = d.revolutionEvent u := effect_revolutionStart hm ha
  have hrest : s.dev.AtRest → d.AtRest := fun h => by
    show Device.micro d = none
    by_cases hr : 0 < r.revDue
    · rw [show d = s.dev from if_pos hr]; exact h
    · rw [show d = s.dev.advance (200000 - r.phase) from if_neg hr]; exact adv_rest _ _ h
  obtain ⟨hpend, hused, hclear⟩ : d.seq.pending.get u = s.dev.seq.pending.get u
      ∧ (d.units.get u).startUsed = r.startUsed ∧ d.unitClear u = s.dev.unitClear u := by
    by_cases hr : 0 < r.revDue
    · rw [show d = s.dev from if_pos hr]; exact ⟨rfl, rfl, rfl⟩
    · rw [show d = s.dev.advance (200000 - r.phase) from if_neg hr, Device.advance_unit, advance_startUsed]
      exact ⟨rfl, rfl, unitClear_advance _ _ u⟩
  have hhanded : ∀ e : Device, d.checkReady u = e → e.seq = d.seq → e.units = d.units →
      (∀ v, e.unitClear v = d.unitClear v) → (d.AtRest → e.AtRest) → handed e := fun e he hs hu hc hq => by
    obtain ⟨hno, happ⟩ := revolutionEvent_of_checked he hs hu hc
    refine ⟨fun hnone => ?_, fun c hc => ?_⟩
    · refine Follows.answers (heff.trans (hno ?_)) (fun h => ?_)
      · rw [hpend, hused, hclear]
        by_cases hg : r.startUsed = false ∧ s.dev.unitClear u = true
        · exact .inl ((if_pos hg).symm.trans hnone)
        · simp only [not_and_or, Bool.not_eq_false, Bool.not_eq_true] at hg
          exact .inr hg
      · exact modUnit_rest _ u _ (fun _ => ⟨rfl, rfl, rfl⟩) (close_rest _ u (dropCompletion_rest e u (hq (hrest h))))
    · have hg : r.startUsed = false ∧ s.dev.unitClear u = true := by
        by_contra hn
        exact nomatch (if_neg hn).symm.trans hc
      refine Follows.leads (heff.trans (happ c ?_ (hused.trans hg.1) (hclear.trans hg.2)))
      exact hpend.trans ((if_pos hg).symm.trans hc)
  refine ⟨fun k hs hk hf hr => ?_, fun h => ?_⟩
  · exact hhanded _ (checkReady_reports hs hk hf hr) rfl rfl (unitClear_report d _)
      (fun hq => report_rest d _ hq nofun)
  · refine hhanded d (checkReady_silent ?_) rfl rfl (fun _ => rfl) id
    rintro ⟨hs, k, hk, hf, hr⟩
    rcases h with h | h
    · exact h hs
    · rcases h k hk with h | h
      · rw [h] at hf; exact nomatch hf
      · rw [hr] at h; exact nomatch h

end Sys2Proof.Proofs
end

section
namespace Sys2Proof.Proofs
open Sys2Proof Sys2Proof.Machine

/-! ### The output lines and the Port Status (R26, R32, R39, R41, R165, R172) -/

/-- R180: a flag at its bit. -/
theorem bitByte_eq (i : Nat) (b : Bool) : bitByte i b = BitVec.ofNat 8 (2 ^ i * if b then 1 else 0) := by
  cases b
  · rfl
  · exact congrArg (BitVec.ofNat 8) (Nat.mul_one _).symm

/-- R165, R180: the bits of Port Status. -/
theorem portStatus_toNat (d : Device) : d.portStatus.toNat =
    d.port.engine.code + (if d.interruptLine then 4 else 0) + 8 * d.card.state.code + (if d.banks.fip then 32 else 0)
      + (if d.banks.offline then 64 else 0) + (if d.port.frameFault then 128 else 0) := by
  have he : d.port.engine.code < 4 := by unfold Engine.code; split <;> decide
  have hc : d.card.state.code < 4 := by cases d.card.state <;> decide
  have hi := (Bool.toNat_lt d.interruptLine)
  have hbit : ∀ (b : Bool) (n : Nat), (if b = true then n else 0) = n * b.toNat := fun b n => by cases b <;> simp
  have hf := Bool.toNat_lt d.banks.fip
  have ho := Bool.toNat_lt d.banks.offline
  have hff := Bool.toNat_lt d.port.frameFault
  unfold Device.portStatus
  simp only [bitByte_eq, ofNat_shiftLeft, hbit]
  rw [ofNat_or_field (i := 2) _ (by omega), ofNat_or_field (i := 3) _ (by omega), ofNat_or_field (i := 5) _ (by omega),
    ofNat_or_field (i := 6) _ (by omega), ofNat_or_field (i := 7) _ (by omega), BitVec.toNat_ofNat]
  omega

/-- R172: the sources of the interrupt line. -/
theorem interruptLine_iff (d : Device) : d.interruptLine = true ↔
    (d.port.mask.result = true ∧ d.port.engine.holdsResult = true)
    ∨ (d.port.mask.bank = true ∧ ∃ i r, (d.banks.get i).record = some r ∧ (d.banks.get i).enabled r.cause = true)
    ∨ (d.port.mask.unit = true ∧ ∃ u, (d.units.get u).applied = true ∨ (d.units.get u).lost = true) := by
  have hb : d.banks.anyEnabled = true ↔ ∃ i, (d.banks.get i).recordEnabled = true := by
    constructor
    · intro h
      simp only [FaultBanks.anyEnabled, Bool.or_eq_true, or_assoc] at h
      rcases h with h | h | h | h
      · exact ⟨.drive, h⟩
      · exact ⟨.track, h⟩
      · exact ⟨.map, h⟩
      · exact ⟨.card, h⟩
    · rintro ⟨i, h⟩
      cases i <;> simp_all [FaultBanks.anyEnabled, FaultBanks.get]
  have hr : ∀ b : Bank, b.recordEnabled = true ↔ ∃ r, b.record = some r ∧ b.enabled r.cause = true := fun b => by
    unfold Bank.recordEnabled
    cases b.record <;> simp
  have hu : d.unitEvent = true ↔ ∃ u, (d.units.get u).applied = true ∨ (d.units.get u).lost = true := by
    constructor
    · intro h
      simp only [Device.unitEvent, Bool.or_eq_true, or_assoc] at h
      rcases h with h | h | h
      · exact ⟨.u0, .inl h⟩
      · exact ⟨.u0, .inr h⟩
      · exact ⟨.u1, h⟩
    · rintro ⟨u, h⟩
      cases u <;> rcases h with h | h <;> simp_all [Device.unitEvent, PerUnit.get]
  simp only [Device.interruptLine, Bool.or_eq_true, Bool.and_eq_true, hb, hr, hu, or_assoc]

/-- Settles O17: each output is the function of the selected unit that the manual gives. -/
theorem outputsFollowTheState : Obligations.OutputsFollowTheState := by
  refine fun d => ⟨fun hn => ?_, fun u hu => ⟨indexLine_iff hu, ?_⟩, interruptLine_iff d, portStatus_toNat d⟩
  · unfold Device.indexLine Device.track0Line Device.writeProtectLine Device.readyChangeLine
    rw [hn]
    exact ⟨rfl, rfl, rfl, rfl⟩
  · unfold Device.track0Line Device.writeProtectLine Device.readyChangeLine
    rw [hu]
    refine ⟨by simp, by simp, fun hl => ?_, fun hl => ?_⟩
    · simp [hl, and_assoc]
    · simp [hl]

/-! ### What a current-track notice does (R37, R74, R99, R109) -/

/-- The parts of a state that tell its current keys and the streams of its units. -/
structure SameTracks (d e : Device) : Prop where
  pool : e.pool = d.pool
  images : e.images = d.images
  captures : e.captures = d.captures
  selected : e.selected = d.selected
  units : ∀ u, (e.units.get u).cylinder = (d.units.get u).cylinder ∧ (e.units.get u).side = (d.units.get u).side
    ∧ (e.units.get u).motor = (d.units.get u).motor ∧ (e.units.get u).phase = (d.units.get u).phase

theorem SameTracks.isCurrent {d e : Device} (h : SameTracks d e) : e.isCurrent = d.isCurrent :=
  isCurrent_congr (fun u => by unfold Device.mounted; rw [h.images])
    (fun u => ⟨(h.units u).1, (h.units u).2.1, (h.units u).2.2.1⟩) (fun u => by rw [h.captures])

theorem SameTracks.bufCurrent {d e : Device} (h : SameTracks d e) (i : Nat) : e.bufCurrent i = d.bufCurrent i := by
  unfold Device.bufCurrent Device.buf
  rw [h.isCurrent, h.pool]

theorem SameTracks.currentTrack {d e : Device} (h : SameTracks d e) (u : UnitId) : e.currentTrack u = d.currentTrack u := by
  unfold Device.currentTrack Device.headKey Device.mounted
  rw [h.images, (h.units u).1, (h.units u).2.1]

theorem SameTracks.streamBasis {d e : Device} (h : SameTracks d e) (u : UnitId) : e.streamBasis u = d.streamBasis u := by
  have hb : e.streamBuffer u = d.streamBuffer u := by
    unfold Device.streamBuffer
    rw [h.currentTrack]
    congr 1
    funext k
    unfold Device.readableHolder Device.holder Device.buf
    rw [h.pool]
  have hk : e.headKey u = d.headKey u := by
    unfold Device.headKey
    rw [(h.units u).1, (h.units u).2.1]
  unfold Device.streamBasis Device.buf
  rw [hb, hk, h.images, h.pool]

/-- A notice reads the part before it through its current keys and its streams alone. -/
theorem withNotice_before {b b' : Device} (h : SameTracks b b') (u : UnitId) (app : Bool) (d : Device) :
    Device.withNotice b' u app d = Device.withNotice b u app d := by
  have hj : Device.joinLost b' d = Device.joinLost b d := by
    unfold Device.joinLost
    simp only [h.bufCurrent]
  have hf : ∀ x, Device.finishSlot b' x u = Device.finishSlot b x u := fun x => by
    unfold Device.finishSlot Device.isSelected
    rw [h.selected, h.currentTrack, h.streamBasis, (h.units u).2.2.2]
  unfold Device.withNotice
  rw [hj, hf]

/-- R99, R109: which slot a change leaves to be finished, and where delivery goes on. -/
theorem finishSlot_cases (before d : Device) (u : UnitId) :
    let phase := (before.units.get u).phase
    let len := 8000000 / (before.streamBasis u).rate
    let changed := before.selected = some u ∧ d.selected = some u
      ∧ (∀ t, (d.delivery.get u).slotEnd = some t → t ≤ d.now)
      ∧ (before.currentTrack u ≠ d.currentTrack u ∨ before.streamBasis u ≠ d.streamBasis u)
    let entered := phase % len ≠ 0 ∧ ∀ t, (d.delivery.get u).slotEnd = some t → t + phase % len ≤ d.now
    let ends : Nat → Device := fun t =>
      { d with delivery := d.delivery.set u { d.delivery.get u with slotEnd := some t } }
    (changed → entered → Device.finishSlot before d u = ends (d.now - phase % len + len))
    ∧ (changed → ¬ entered → Device.finishSlot before d u = ends d.now)
    ∧ (¬ changed → Device.finishSlot before d u = d) := by
  intro phase len changed entered ends
  have hin : d.inSlot u = false ↔ ∀ t, (d.delivery.get u).slotEnd = some t → t ≤ d.now := by
    unfold Device.inSlot
    cases (d.delivery.get u).slotEnd <;> simp
  have hchanged : (before.isSelected u && d.isSelected u && !d.inSlot u
      && (before.currentTrack u != d.currentTrack u || before.streamBasis u != d.streamBasis u)) = true ↔ changed := by
    unfold Device.isSelected
    simp only [Bool.and_eq_true, Bool.not_eq_true', hin, Bool.or_eq_true, bne_iff_ne, beq_iff_eq, and_assoc]
    exact Iff.rfl
  have hentered : (d.delivery.get u).entered d.now (phase % len) = true ↔ entered := by
    show _ ↔ phase % len ≠ 0 ∧ ∀ t, (d.delivery.get u).slotEnd = some t → t + phase % len ≤ d.now
    unfold Delivery.entered
    cases (d.delivery.get u).slotEnd <;> simp
  refine ⟨fun hc he => ?_, fun hc he => ?_, fun hc => ?_⟩
  · exact (if_pos (hchanged.mpr hc)).trans (congrArg ends (if_pos (hentered.mpr he)))
  · exact (if_pos (hchanged.mpr hc)).trans (congrArg ends (if_neg (fun h => he (hentered.mp h))))
  · exact if_neg (fun h => hc (hchanged.mp h))

/-- R37, R74 d, R88 a: the buffers that join, the section and the slot that end, and the fill that is asked for. -/
theorem withNotice_cases (before after : Device) (u : UnitId) (application : Bool) : ∃ (n : Nat) (l : List Nat),
    (∀ i, i ∈ l ↔ i < 8 ∧ before.bufCurrent i = true ∧ after.bufCurrent i = false
      ∧ (after.buf i).state = .dirty ∧ i ∉ after.pool.queue)
    ∧ l.Nodup
    ∧ (let x := Device.finishSlot before
        (Device.closeSection
          { after with freeCount := n, pool := { after.pool with queue := after.pool.queue ++ l } } u) u
      (∀ k, after.currentTrack u = some k → (after.units.get u).motor = true ∨ application = true →
        Device.withNotice before u application after = x.requestFill k)
      ∧ (after.currentTrack u = none ∨ (after.units.get u).motor = false ∧ application = false →
        Device.withNotice before u application after = x)) := by
  obtain ⟨n, l, hnd, hl, hj⟩ := Device.joinAll_spec after
    (bufferIds.filter (fun i => before.bufCurrent i && !after.bufCurrent i)) (List.Nodup.filter _ List.nodup_range)
  have hx : ∀ x : Device, (Device.finishSlot before x u).currentTrack u = x.currentTrack u
      ∧ (Device.finishSlot before x u).units = x.units := fun x => by
    rcases Device.finishSlot_eq before x u with h | ⟨t, h⟩ <;> rw [h] <;> exact ⟨rfl, rfl⟩
  refine ⟨n, l, fun i => ?_, hnd, ?_⟩
  · rw [hl]
    simp [bufferIds, Config.bufferCount, and_assoc]
  · intro x
    have ht : x.currentTrack u = after.currentTrack u := (hx _).1
    have hm : x.units.get u = after.units.get u := by rw [show x.units = _ from (hx _).2]; rfl
    refine ⟨fun k hk h => ?_, fun h => ?_⟩
    · unfold Device.withNotice Device.joinLost
      rw [hj]
      dsimp only
      split
      next hnone => exact nomatch (ht.symm.trans hnone).symm.trans hk
      next k' hk' =>
        obtain rfl : k = k' := Option.some.inj (hk.symm.trans (ht.symm.trans hk'))
        exact if_pos (by rw [show (Device.finishSlot before _ u).units.get u = _ from hm]; simpa using h)
    · unfold Device.withNotice Device.joinLost
      rw [hj]
      dsimp only
      split
      next hnone => rfl
      next k hk =>
        rcases h with h | ⟨h1, h2⟩
        · exact nomatch (ht.symm.trans hk).symm.trans h
        · exact if_neg (by rw [show (Device.finishSlot before _ u).units.get u = _ from hm]; simp [h1, h2])

/-- A notice that no buffer joins at and that asks for no fill. -/
theorem withNotice_silent {b d : Device} {u : UnitId} {app : Bool} (hc : d.isCurrent = b.isCurrent) (hp : d.pool = b.pool)
    (h : d.currentTrack u = none ∨ (d.units.get u).motor = false ∧ app = false) :
    Device.withNotice b u app d = Device.finishSlot b (d.closeSection u) u := by
  have hj : Device.joinLost b d = d := joinLost_self b d (fun i => by
    unfold Device.bufCurrent Device.buf
    rw [hc, hp]
    exact id)
  obtain ⟨n, l, -, -, hno⟩ := withNotice_cases b d u app
  have hx : ∀ x : Device, (Device.finishSlot b x u).currentTrack u = x.currentTrack u
      ∧ (Device.finishSlot b x u).units = x.units := fun x => by
    rcases Device.finishSlot_eq b x u with h | ⟨t, h⟩ <;> rw [h] <;> exact ⟨rfl, rfl⟩
  unfold Device.withNotice
  rw [hj]
  dsimp only
  rw [(hx _).1, (hx _).2]
  show (match d.currentTrack u with
    | none => _
    | some k => if (d.units.get u).motor || app then _ else _) = _
  cases hk : d.currentTrack u with
  | none => rfl
  | some k =>
    rcases h with h | ⟨h1, h2⟩
    · exact nomatch hk.symm.trans h
    · exact if_neg (by simp [h1, h2])

/-- Nothing becomes owed when the current keys and the parts that decide it agree and the engine is the same. -/
theorem rest_current {d e : Device} (hn : e.news = d.news) (hp : e.pool = d.pool) (hi : e.images = d.images)
    (hw : e.windows = d.windows) (hc : e.isCurrent = d.isCurrent) (ho : e.banks.entryOwed = d.banks.entryOwed)
    (he : e.port.engine = d.port.engine) (h : d.AtRest) : e.micro = none := by
  have hb : ∀ i, e.buf i = d.buf i := fun i => by unfold Device.buf; rw [hp]
  have hf := ((micro_none_iff d).mp h).2.2.2.2.2.2.2
  rw [flushDone_none] at hf
  refine SameWork.quiet (d := d) (e := e) ⟨hn, fun i => ?_, fun j => by rw [hp], by rw [hp], fun u => ?_, hw, hc, ho, ?_, ?_⟩ h
  · rw [hb]; exact ⟨rfl, rfl, rfl, rfl⟩
  · unfold Device.chainStart; rw [hi]
  · unfold Device.commandKey; rw [he]
  · rw [flushDone_none, he, flushHolds_congr (fun i => by rw [hb]; exact ⟨rfl, rfl⟩) hi]
    exact hf

/-- The end of a slot makes nothing owed. -/
theorem finishSlot_rest (b d : Device) (u : UnitId) (h : d.micro = none) : (Device.finishSlot b d u).micro = none := by
  rcases Device.finishSlot_eq b d u with hf | ⟨t, hf⟩ <;> rw [hf]
  · exact h
  · exact rest_engine (d := d) rfl rfl rfl rfl rfl rfl (fun _ => ⟨rfl, rfl, rfl⟩) rfl h

/-- R72: with no image or the motor off, where the head of the unit stands decides no current key. -/
theorem isCurrent_off {d e : Device} {u : UnitId} (hi : e.images = d.images) (hc : e.captures = d.captures)
    (hu : ∀ v, v ≠ u → e.units.get v = d.units.get v) (hm : (e.units.get u).motor = (d.units.get u).motor)
    (h : d.mounted u = false ∨ (d.units.get u).motor = false) : e.isCurrent = d.isCurrent := by
  funext k
  unfold Device.isCurrent
  rw [hc]
  congr 1
  by_cases hk : k.unit = u
  · rcases h with h | h
    · have : ∀ x : Device, x.images = d.images → x.currentTrack k.unit = none := fun x hx => by
        unfold Device.currentTrack Device.mounted
        rw [hx, hk]
        exact if_neg (by rw [show (d.images.get u).isSome = false from h]; decide)
      rw [this e hi, this d rfl]
      rfl
    · rw [hk, hm, h, Bool.and_false, Bool.and_false]
  · unfold Device.currentTrack Device.headKey Device.mounted
    rw [hi, hu _ hk]

/-! ### A step and the side while the gate is released (R33, R34, R36, R42) -/

/-- A record set to itself. -/
theorem set_get_self {α : Type} (p : PerUnit α) (u : UnitId) : p.set u (p.get u) = p := by cases u <;> rfl

/-- A unit record that a change leaves alone. -/
theorem modUnit_self {d : Device} {u : UnitId} {f : UnitRecord → UnitRecord} (h : f (d.units.get u) = d.units.get u) :
    d.modUnit u f = d := by
  unfold Device.modUnit
  rw [h, set_get_self]

/-- R42: a step taken clears the latch of a unit with an image. -/
theorem stepLatch_eq (d : Device) (u : UnitId) :
    d.stepLatch u = d.modUnit u (fun r => { r with latch := r.latch && !d.mounted u }) := by
  unfold Device.stepLatch
  cases d.mounted u with
  | true => simp
  | false => exact (modUnit_self (by simp)).symm

/-- R33: under a released gate the step of the selected unit is taken. -/
theorem onStep_taken {d : Device} {u : UnitId} (inward : Bool) (hu : d.selected = some u) (hw : d.lines.wgate = false) :
    d.onStep inward = Device.takeStep { d with lines := { d.lines with dir := inward } } u inward := by
  have hs := (selected_setDir d inward).trans hu
  unfold Device.onStep
  dsimp only
  split
  next hnone => exact nomatch hnone.symm.trans hs
  next v hv =>
    obtain rfl : v = u := Option.some.inj (hv.symm.trans hs)
    exact if_neg (by rw [hw]; decide)

/-- R33: without a selected unit only the direction is sampled. -/
theorem onStep_none {d : Device} (inward : Bool) (hu : d.selected = none) :
    d.onStep inward = { d with lines := { d.lines with dir := inward } } := by
  have hs := (selected_setDir d inward).trans hu
  unfold Device.onStep
  dsimp only
  rw [hs]

/-- R33: the cylinder after a step. -/
def stepped (cyl : Nat) (inward : Bool) : Nat := if inward then (if cyl < 83 then cyl + 1 else cyl) else cyl - 1

/-- R33, R34, R42: the part with the direction sampled, the head moved, the latch cleared and a limit reported. -/
def stepPart (d : Device) (u : UnitId) (inward : Bool) : Device :=
  let r := d.units.get u
  let d1 := { d with
    lines := { d.lines with dir := inward }
    units := d.units.set u { r with cylinder := stepped r.cylinder inward, latch := r.latch && !d.mounted u } }
  if inward = true ∧ ¬ r.cylinder < 83 then
    d1.report { cls := .note, cause := .stepLimit, op := .drive, unit := some u, track := none, block := none }
  else d1

/-- R34: a step that does not move the head. -/
theorem onStep_held {d : Device} {u : UnitId} {inward : Bool} (hu : d.selected = some u) (hw : d.lines.wgate = false)
    (h : stepped (d.units.get u).cylinder inward = (d.units.get u).cylinder) : d.onStep inward = stepPart d u inward := by
  rw [onStep_taken inward hu hw]
  unfold Device.takeStep stepPart
  dsimp only
  rw [h, stepLatch_eq]
  cases inward with
  | true =>
    have hc : ¬ (d.units.get u).cylinder < 83 := fun hc => by simp [stepped, hc] at h
    rw [if_pos rfl, if_neg (show ¬ (d.units.get u).cylinder < Config.lastCylinder from hc), if_pos ⟨rfl, hc⟩]
    rfl
  | false =>
    have hc : (d.units.get u).cylinder = 0 := by simp [stepped] at h; omega
    rw [if_neg (by decide), if_pos hc, if_neg (by simp)]
    rfl

/-- R33, R37: a step that moves the head hands its notice. -/
theorem onStep_moved {d : Device} {u : UnitId} {inward : Bool} (hu : d.selected = some u) (hw : d.lines.wgate = false)
    (h : stepped (d.units.get u).cylinder inward ≠ (d.units.get u).cylinder) :
    d.onStep inward = Device.withNotice d u false (stepPart d u inward) := by
  have hsame : SameTracks d (Device.stepLatch { d with lines := { d.lines with dir := inward } } u) := by
    rw [stepLatch_eq]
    refine ⟨rfl, rfl, rfl, ?_, fun v => ?_⟩
    · refine selected_congr (fun l => by cases l <;> rfl) (fun v => ?_)
      by_cases hv : v = u
      · subst hv; simp
      · simp [Device.modUnit, PerUnit.get_set_ne _ _ hv]
    · by_cases hv : v = u
      · subst hv; simp
      · simp [Device.modUnit, PerUnit.get_set_ne _ _ hv]
  have hmove : ∀ c, Device.moveHead (Device.stepLatch { d with lines := { d.lines with dir := inward } } u) u c
      = Device.withNotice d u false { d with
          lines := { d.lines with dir := inward }
          units := d.units.set u { d.units.get u with
            cylinder := c, latch := (d.units.get u).latch && !d.mounted u } } := fun c => by
    unfold Device.moveHead
    rw [withNotice_before hsame, stepLatch_eq]
    congr 1
    unfold Device.modUnit
    cases u <;> rfl
  rw [onStep_taken inward hu hw]
  unfold Device.takeStep stepPart
  dsimp only
  cases inward with
  | true =>
    have hc : (d.units.get u).cylinder < 83 := by
      by_contra hc
      exact h (by simp [stepped, hc])
    rw [if_pos rfl, if_pos (show (d.units.get u).cylinder < Config.lastCylinder from hc), if_neg (fun hx => hx.2 hc), hmove]
    simp [stepped, hc]
  | false =>
    have hc : (d.units.get u).cylinder ≠ 0 := fun hc => h (by simp [stepped, hc])
    rw [if_neg (by decide), if_neg hc, if_neg (by simp), hmove]
    simp [stepped]

/-- Settles O14: held heads change exactly the record, a moved head hands the notice whose parts are given. -/
theorem aStepMovesTheHead : Obligations.AStepMovesTheHead := by
  refine ⟨?_, fun s inward hu => ?_, withNotice_cases, finishSlot_cases⟩
  · intro s u inward hu hw r c r1 d1 d2
    have hheld : c = r.cylinder → effect (.stepPulse inward) s.dev = d2 := onStep_held hu hw
    have hmoved : c ≠ r.cylinder → effect (.stepPulse inward) s.dev = Device.withNotice s.dev u false d2 := onStep_moved hu hw
    have hd2 : d2.images = s.dev.images ∧ d2.captures = s.dev.captures ∧ d2.units = s.dev.units.set u r1
        ∧ d2.news = s.dev.news ∧ d2.pool = s.dev.pool ∧ d2.windows = s.dev.windows
        ∧ d2.banks.entryOwed = s.dev.banks.entryOwed ∧ d2.port = s.dev.port := by
      by_cases hl : inward = true ∧ ¬ r.cylinder < 83
      · rw [show d2 = d1.report _ from if_pos hl]
        exact ⟨rfl, rfl, rfl, rfl, rfl, rfl, report_owed d1 _ nofun, rfl⟩
      · rw [show d2 = d1 from if_neg hl]
        exact ⟨rfl, rfl, rfl, rfl, rfl, rfl, rfl, rfl⟩
    obtain ⟨himg, hcap, hunits, hnews, hpool, hwin, howed, hport⟩ := hd2
    refine ⟨?_, fun hc => Follows.answers (hheld hc) (fun hrest => ?_), fun hc hoff => ?_, fun hc => Follows.leads (hmoved hc)⟩
    · by_cases hc : c = r.cylinder
      · exact Follows.reaches (hheld hc ▸ Settles.refl _)
      · exact Follows.reaches (hmoved hc ▸ (follows_withNotice _ _ _ _).settles)
    · refine rest_engine (d := s.dev) hnews hpool himg hwin hcap howed (fun v => ?_) (by rw [hport]) hrest
      rw [hunits]
      by_cases hv : v = u
      · subst hv; rw [PerUnit.get_set_self]; exact ⟨hc, rfl, rfl⟩
      · rw [PerUnit.get_set_ne _ _ hv]; exact ⟨rfl, rfl, rfl⟩
    · have hmot : (d2.units.get u).motor = r.motor := by rw [hunits, PerUnit.get_set_self]
      have hcur : d2.isCurrent = s.dev.isCurrent := by
        refine isCurrent_off (u := u) himg hcap (fun v hv => ?_) hmot hoff
        rw [hunits, PerUnit.get_set_ne _ _ hv]
      refine Follows.answers ((hmoved hc).trans (withNotice_silent hcur hpool ?_)) (fun hrest => ?_)
      · rcases hoff with h | h
        · refine .inl (if_neg ?_)
          unfold Device.mounted at h ⊢
          rw [himg, h]
          decide
        · exact .inr ⟨hmot.trans h, rfl⟩
      · refine finishSlot_rest _ _ _ (close_rest _ _ ?_)
        exact rest_current (d := s.dev) hnews hpool himg hwin hcur howed (by rw [hport]) hrest
  · refine Follows.answers (onStep_none inward hu) (fun hrest => ?_)
    exact rest_engine (d := s.dev) rfl rfl rfl rfl rfl rfl (fun _ => ⟨rfl, rfl, rfl⟩) rfl hrest

/-- R24: selection does not read the side input, and what is current does not either. -/
theorem selected_setSide (d : Device) (v : Bool) :
    ({ d with lines := { d.lines with side := v } } : Device).selected = d.selected :=
  selected_congr (fun l => by cases l <;> rfl) (fun _ => ⟨rfl, rfl⟩)

/-- R36: the selected unit follows the input under a released gate. -/
theorem onSide_changes {d : Device} {u : UnitId} {v : Bool} (hu : d.selected = some u) (hw : d.lines.wgate = false)
    (hv : (d.units.get u).side ≠ v) : d.onSide v = Device.withNotice d u false
      { d with lines := { d.lines with side := v }, units := d.units.set u { d.units.get u with side := v } } := by
  have hs := (selected_setSide d v).trans hu
  unfold Device.onSide
  dsimp only
  rw [hs]
  dsimp only
  rw [hw]
  refine (if_neg (by decide)).trans ((if_neg hv).trans ?_)
  rw [withNotice_before (b := d) ⟨rfl, rfl, rfl, selected_setSide d v, fun _ => ⟨rfl, rfl, rfl, rfl⟩⟩]
  rfl

/-- R36: in each other case only the line changes. -/
theorem onSide_keeps {d : Device} {v : Bool} (h : d.selected = none ∨ d.lines.wgate = true
    ∨ (∃ u, d.selected = some u ∧ (d.units.get u).side = v)) :
    d.onSide v = { d with lines := { d.lines with side := v } } := by
  unfold Device.onSide
  dsimp only
  rw [selected_setSide]
  split
  · next u hu =>
    split
    · rfl
    · next hw =>
      rcases h with h | h | ⟨w, hw', hside⟩
      · exact nomatch hu.symm.trans h
      · exact absurd h hw
      · obtain rfl : u = w := Option.some.inj (hu.symm.trans hw')
        exact if_pos hside
  · rfl

/-- Settles O16: the side is set with its notice, and in the excluded cases the line alone changes. -/
theorem theSideFollowsItsInput : Obligations.TheSideFollowsItsInput := by
  have hkeep : ∀ (s : State) (v : Bool), s.dev.selected = none ∨ s.dev.lines.wgate = true
      ∨ (∃ u, s.dev.selected = some u ∧ (s.dev.units.get u).side = v) →
      Answers (.sideChange v) s { s.dev with lines := { s.dev.lines with side := v } } := fun s v h =>
    Follows.answers (onSide_keeps h)
      (fun hrest => rest_engine (d := s.dev) rfl rfl rfl rfl rfl rfl (fun _ => ⟨rfl, rfl, rfl⟩) rfl hrest)
  refine ⟨?_, hkeep⟩
  intro s u v hu hw d
  refine ⟨?_, fun hv => Follows.leads (onSide_changes hu hw hv)⟩
  by_cases hv : (s.dev.units.get u).side = v
  · have hd : d = { s.dev with lines := { s.dev.lines with side := v } } :=
      modUnit_self (d := { s.dev with lines := { s.dev.lines with side := v } }) (f := fun r => { r with side := v })
        (by subst hv; rfl)
    refine Follows.reaches ?_
    rw [show effect (.sideChange v) s.dev = d from (onSide_keeps (.inr (.inr ⟨u, hu, hv⟩))).trans hd.symm]
    exact Settles.refl d
  · refine Follows.reaches ?_
    rw [show effect (.sideChange v) s.dev = _ from onSide_changes hu hw hv]
    exact (follows_withNotice _ _ _ _).settles

/-! ### The write start (R38, R110, R116) -/

/-- R24: selection does not read the write gate. -/
theorem selected_setGate (d : Device) (v : Bool) :
    ({ d with lines := { d.lines with wgate := v } } : Device).selected = d.selected :=
  selected_congr (fun l => by cases l <;> rfl) (fun _ => ⟨rfl, rfl⟩)

/-- R38, R110: an assertion with a unit selected closes its section and is judged. -/
theorem onGateAssert_selected {d : Device} {u : UnitId} (hw : d.lines.wgate = false) (hu : d.selected = some u) :
    d.onGateAssert = (Device.closeSection { d with lines := { d.lines with wgate := true } } u).writeStart u := by
  have hs := (selected_setGate d true).trans hu
  unfold Device.onGateAssert
  dsimp only
  rw [if_neg (by rw [hw]; decide), hs]

theorem onGateAssert_none {d : Device} (hw : d.lines.wgate = false) (hu : d.selected = none) :
    d.onGateAssert = { d with lines := { d.lines with wgate := true } } := by
  have hs := (selected_setGate d true).trans hu
  unfold Device.onGateAssert
  dsimp only
  rw [if_neg (by rw [hw]; decide), hs]

/-- R116: a unit with an image, its motor running, and at speed. -/
def writeReady (d : Device) (u : UnitId) : Prop :=
  d.mounted u = true ∧ (d.units.get u).motor = true ∧ (d.units.get u).atSpeed = true

/-- R116: the order of the judgement. -/
theorem writeStart_cases (d : Device) (u : UnitId) :
    (¬ writeReady d u → d.writeStart u = d.report (mkReport .note .writeNoDisk .drive (some u) (d.currentLoc u)))
    ∧ (writeReady d u → (d.units.get u).protect = true →
      d.writeStart u = d.report (mkReport .corrected .writeProtected .drive (some u) (d.currentLoc u)))
    ∧ (writeReady d u → (d.units.get u).protect = false → (d.captures.get u).isSome = true →
      d.writeStart u = d.report (mkReport .uncorrected .writeNoTrack .drive (some u) (d.currentLoc u)))
    ∧ (writeReady d u → (d.units.get u).protect = false → d.captures.get u = none → d.banks.offline = true →
      d.writeStart u = d)
    ∧ (writeReady d u → (d.units.get u).protect = false → d.captures.get u = none → d.banks.offline = false →
      d.writeStart u = d.setCapture u (some
        { state := .capturing, key := d.headKey u, startPhase := (d.units.get u).phase, startTime := d.now
          basis := d.streamBasis u, basisFixed := false, lastPhase := none, fields := [], capReached := false
          specials := [] })) := by
  have hr : (d.mounted u && (d.units.get u).motor && (d.units.get u).atSpeed) = true ↔ writeReady d u := by
    simp [writeReady, and_assoc]
  unfold Device.writeStart
  dsimp only
  refine ⟨fun h => ?_, fun h hp => ?_, fun h hp hc => ?_, fun h hp hc ho => ?_, fun h hp hc ho => ?_⟩
  · rw [if_pos (by rw [Bool.eq_false_iff.mpr (fun hx => h (hr.mp hx))]; decide)]
  all_goals
    rw [if_neg (show ¬ (!(d.mounted u && (d.units.get u).motor && (d.units.get u).atSpeed)) = true by rw [hr.mpr h]; decide), hp]
  · rfl
  · rw [hc]; rfl
  · rw [hc, ho]; rfl
  · rw [hc, ho]; rfl

/-- Settles O18: the judgement of R116 on the part with the gate asserted and the section closed. -/
theorem aWriteStartIsJudged : Obligations.AWriteStartIsJudged := by
  refine fun s => ⟨fun hw => ?_, fun hw hu => ?_, ?_⟩
  · exact Follows.answers (if_pos hw) id
  · refine Follows.answers (onGateAssert_none hw hu) (fun hrest => ?_)
    exact rest_engine (d := s.dev) rfl rfl rfl rfl rfl rfl (fun _ => ⟨rfl, rfl, rfl⟩) rfl hrest
  · intro u hw hu r d ready loc
    have heff : effect .writeGateAssert s.dev = d.writeStart u := onGateAssert_selected hw hu
    have hloc : d.currentLoc u = loc := currentLoc_eq d u
    obtain ⟨h1, h2, h3, h4, h5⟩ := writeStart_cases d u
    rw [hloc] at h1 h2 h3
    have hrest : s.dev.AtRest → d.micro = none := fun h =>
      rest_engine (d := s.dev) rfl rfl rfl rfl rfl rfl (fun _ => ⟨rfl, rfl, rfl⟩) rfl h
    refine ⟨fun hr => ?_, fun hr hp => ?_, fun hr hp hc => ?_, fun hr hp hc ho => ?_, fun hr hp hc ho => ?_⟩
    · exact Follows.answers (heff.trans (h1 hr)) (fun h => report_rest _ _ (hrest h) nofun)
    · exact Follows.answers (heff.trans (h2 hr hp)) (fun h => report_rest _ _ (hrest h) nofun)
    · exact Follows.leads (heff.trans (h3 hr hp hc))
    · exact Follows.answers (heff.trans (h4 hr hp hc ho)) hrest
    · refine Follows.answers (heff.trans (h5 hr hp hc ho)) (fun h => ?_)
      refine rest_current (d := d) rfl rfl rfl rfl ?_ rfl rfl (hrest h)
      refine isCurrent_congr (fun _ => rfl) (fun _ => ⟨rfl, rfl, rfl⟩) (fun v => ?_)
      by_cases hv : v = u
      · subst hv
        rw [show d.captures.get v = none from hc]
        simp
      · simp [Device.setCapture, PerUnit.get_set_ne _ _ hv]

end Sys2Proof.Proofs
end

section
namespace Sys2Proof.Proofs
open Sys2Proof Sys2Proof.Machine

/-! ### The order in which selection and the motors follow (R24, R27, R29, R36) -/

/-- R30: the starts that are due on the units whose motor a change stops. -/
theorem startsBefore_eq (d : Device) (change : Device → Device) :
    let starts : UnitId → Device → Nat := fun u x =>
      if (d.units.get u).motor = true ∧ (change d).motorAsserted u = false then (x.units.get u).revDue else 0
    let d0 := (fun x => x.revolutionEvent .u0)^[starts .u0 d] d
    d.startsBefore change = (fun x => x.revolutionEvent .u1)^[starts .u1 d0] d0 := by
  intro starts d0
  have hif : ∀ (u : UnitId) (x : Device), (if d.stopsMotor change u then x.handStarts u else x)
      = (fun y => y.revolutionEvent u)^[starts u x] x := fun u x => by
    show _ = (fun y => y.revolutionEvent u)^[if (d.units.get u).motor = true ∧ (change d).motorAsserted u = false then _ else 0] x
    unfold Device.stopsMotor
    by_cases h : (d.units.get u).motor = true ∧ (change d).motorAsserted u = false
    · rw [if_pos (by rw [h.1, h.2]; rfl), if_pos h]
      exact takeStarts_eq u _ x
    · rw [if_neg (by simpa using h), if_neg h]
      rfl
  unfold Device.startsBefore
  dsimp only
  rw [hif, hif]

/-- R88 b: the buffers of a unit that are DIRTY are in the queue afterwards, and nothing but the queue changes. -/
theorem joinUnit_spec (d : Device) (u : UnitId) :
    (∀ i, i ∈ (d.joinUnit u).pool.queue ↔
      i ∈ d.pool.queue ∨ i < 8 ∧ d.ownedBy i u = true ∧ (d.buf i).state = .dirty)
    ∧ ∃ n l, d.joinUnit u = { d with freeCount := n, pool := { d.pool with queue := d.pool.queue ++ l } } := by
  obtain ⟨n, l, -, hl, hj⟩ := Device.joinAll_spec d (bufferIds.filter (fun i => d.ownedBy i u))
    (List.nodup_range.filter _)
  have he : d.joinUnit u = { d with freeCount := n, pool := { d.pool with queue := d.pool.queue ++ l } } := hj
  refine ⟨fun i => ?_, n, l, he⟩
  rw [he]
  show i ∈ d.pool.queue ++ l ↔ _
  rw [List.mem_append, hl, List.mem_filter, bufferIds, List.mem_range]
  by_cases hq : i ∈ d.pool.queue
  · simp [hq]
  · simp [hq, Config.bufferCount, and_assoc]

/-! ### What the evaluation keeps of its effect -/

/-- A change of the unit records alike in both parts. -/
theorem settles_units {e t : Device} (h : Settles e t) (p : PerUnit UnitRecord) :
    Settles { e with units := p } { t with units := p } :=
  ⟨h.now, h.lines, rfl, h.readData, h.cursor, h.frameFault, h.mask, h.frameOut, h.idle, h.cardState, h.capacity, h.initTime,
    h.run, h.retry, h.resetWaits, h.enables, h.drive, h.mounted, h.images, h.captures⟩

theorem settles_modUnit {e t : Device} (h : Settles e t) (u : UnitId) (f : UnitRecord → UnitRecord) :
    Settles (e.modUnit u f) (t.modUnit u f) := by
  have hu : t.modUnit u f = { t with units := e.units.set u (f (e.units.get u)) } := by
    unfold Device.modUnit
    rw [h.units]
  rw [hu]
  exact settles_units h _

/-- Read data set alike in both parts. -/
theorem settles_readData {e t : Device} (h : Settles e t) (x : Option StreamByte) :
    Settles { e with readData := x } { t with readData := x } :=
  ⟨h.now, h.lines, h.units, rfl, h.cursor, h.frameFault, h.mask, h.frameOut, h.idle, h.cardState, h.capacity, h.initTime,
    h.run, h.retry, h.resetWaits, h.enables, h.drive, h.mounted, h.images, h.captures⟩

/-- The delivery records are no part of what settles. -/
theorem settles_delivery {e t : Device} (h : Settles e t) (u : UnitId) (f : Delivery → Delivery) :
    Settles e (t.modDelivery u f) :=
  ⟨h.now, h.lines, h.units, h.readData, h.cursor, h.frameFault, h.mask, h.frameOut, h.idle, h.cardState, h.capacity, h.initTime,
    h.run, h.retry, h.resetWaits, h.enables, h.drive, h.mounted, h.images, h.captures⟩

/-- A report into the DRIVE bank that sets no latch, made alike in both parts. -/
theorem settles_reportDrive {e t : Device} (h : Settles e t) (r : Report) (hr : r.cause.bank = .drive)
    (hc : r.cls ≠ .uncorrected) :
    Settles { e with banks := { e.banks with drive := e.banks.drive.receive r } } (t.report r) := by
  have ht : t.report r = { t with banks := { t.banks with drive := t.banks.drive.receive r } } := by
    have hj : t.banks.judge r = t.banks := by
      unfold FaultBanks.judge
      rw [if_neg]; simp [hc]
    unfold Device.report
    rw [hj, hr]
    rfl
  rw [ht]
  refine ⟨h.now, h.lines, h.units, h.readData, h.cursor, h.frameFault, h.mask, h.frameOut, h.idle, h.cardState, h.capacity,
    h.initTime, h.run, h.retry, h.resetWaits, fun i => ?_, ?_, h.mounted, h.images, h.captures⟩
  · cases i with
    | drive =>
      show (t.banks.drive.receive r).enables = (e.banks.drive.receive r).enables
      rw [h.drive]
    | track => exact h.enables .track
    | map => exact h.enables .map
    | card => exact h.enables .card
  · show t.banks.drive.receive r = e.banks.drive.receive r
    rw [h.drive]

/-- R24: parts with the same lines and unit records select the same unit. -/
theorem settles_selected {e t : Device} (h : Settles e t) : t.selected = e.selected :=
  selected_congr (fun l => by rw [h.lines]) (fun u => by rw [h.units]; exact ⟨rfl, rfl⟩)

/-- R36: the side is sampled. -/
theorem settles_sampleSide {e t : Device} (h : Settles e t) (u : UnitId) :
    Settles (e.modUnit u (fun r => { r with side := e.lines.side })) (t.sampleSide u) := by
  have hm := settles_modUnit h u (fun r => { r with side := e.lines.side })
  unfold Device.sampleSide
  split
  · next hs =>
    rw [← modUnit_self (d := t) (u := u) (f := fun r => { r with side := e.lines.side }) (by
      rw [← h.lines, ← hs])]
    exact hm
  · rw [← h.lines] at hm ⊢
    exact hm.trans (follows_withNotice _ _ _ _).settles

/-- R24 b: the part once the unit that was selected has ceased to be. -/
def leaveSelection (a : Device) : Option UnitId → Device
  | some u => a.deselect u
  | none => a

/-- R24 a: the part once a unit has become selected. -/
def enterSelection (a : Device) : Option UnitId → Device
  | some u => a.select u
  | none => a

/-- R24: what a unit does that ceases to be selected changes no selection. -/
theorem leaveSelection_selected (a : Device) (was : Option UnitId) : (leaveSelection a was).selected = a.selected := by
  cases was with
  | none => rfl
  | some u =>
    exact (settles_selected (settles_delivery (follows_captureEnd a u).settles u (fun _ => Delivery.empty))).trans rfl

theorem moveSelection_eq {a : Device} {was : Option UnitId} (h : was ≠ a.selected) :
    a.moveSelection was = enterSelection (leaveSelection a was) a.selected := by
  have hs := leaveSelection_selected a was
  unfold Device.moveSelection
  rw [if_neg h, ← hs]
  cases was with
  | none => cases hx : a.selected <;> simp only [leaveSelection, hx] <;> rfl
  | some u => cases hx : (a.deselect u).selected <;> simp only [leaveSelection, hx] <;> rfl

/-- R36: a unit's record once the selection has moved. -/
def sided (before after : Device) (u : UnitId) : UnitRecord :=
  if after.selected = some u ∧ before.selected ≠ some u then { after.units.get u with side := after.lines.side }
  else after.units.get u

/-- R24, R36: the part once the selection has moved. -/
def movedPart (before after : Device) : Device :=
  { after with
    units := ⟨sided before after .u0, sided before after .u1⟩
    readData := if before.selected.isSome ∧ before.selected ≠ after.selected then none else after.readData }

/-- Where the selection stands, the units do. -/
theorem sided_stays {before after : Device} (h : before.selected = after.selected ∨ after.selected = none) (u : UnitId) :
    sided before after u = after.units.get u := by
  refine if_neg (fun hc => ?_)
  rcases h with h | h
  · exact hc.2 (h.trans hc.1)
  · exact nomatch h.symm.trans hc.1

theorem settles_moveSelection (before after : Device) :
    Settles (movedPart before after) (after.moveSelection before.selected) := by
  by_cases hs : before.selected = after.selected
  · have hm : movedPart before after = after := by
      unfold movedPart
      rw [if_neg (fun h => h.2 hs), sided_stays (.inl hs), sided_stays (.inl hs)]
      rfl
    rw [hm, show after.moveSelection before.selected = after from if_pos hs]
    exact .refl after
  · rw [moveSelection_eq hs]
    have hleft : Settles { after with
        readData := if before.selected.isSome ∧ before.selected ≠ after.selected then none else after.readData }
        (leaveSelection after before.selected) := by
      cases hb : before.selected with
      | none => exact .refl after
      | some v =>
        rw [if_pos ⟨rfl, hb ▸ hs⟩]
        exact settles_readData (settles_delivery (follows_captureEnd after v).settles v _) none
    cases ha : after.selected with
    | none =>
      have hm : movedPart before after = { after with
          readData := if before.selected.isSome ∧ before.selected ≠ after.selected then none else after.readData } := by
        unfold movedPart
        rw [sided_stays (.inr ha), sided_stays (.inr ha)]
        rfl
      rw [hm]
      exact hleft
    | some u =>
      have hm : movedPart before after = Device.modUnit { after with
          readData := if before.selected.isSome ∧ before.selected ≠ after.selected then none else after.readData } u
          (fun r => { r with side := after.lines.side }) := by
        have hu : sided before after u = { after.units.get u with side := after.lines.side } :=
          if_pos ⟨ha, ha ▸ hs⟩
        have ho : sided before after u.other = after.units.get u.other :=
          if_neg (fun h => by have := ha.symm.trans h.1; cases u <;> exact nomatch this)
        unfold movedPart Device.modUnit
        cases u <;> simp only [UnitId.other] at ho <;> rw [hu, ho] <;> rfl
      rw [hm]
      exact settles_delivery (settles_sampleSide hleft u) u (fun _ => Delivery.empty)

/-- The lines and what of the units the selection and the motor sources read (R23, R24, R27). -/
structure SameConfig (d e : Device) : Prop where
  lines : e.lines = d.lines
  units : ∀ v, (e.units.get v).enabled = (d.units.get v).enabled ∧ (e.units.get v).selectLine = (d.units.get v).selectLine
    ∧ (e.units.get v).motorSource = (d.units.get v).motorSource

theorem SameConfig.trans {a b c : Device} (h : SameConfig a b) (k : SameConfig b c) : SameConfig a c :=
  ⟨k.lines.trans h.lines, fun v => ⟨(k.units v).1.trans (h.units v).1, (k.units v).2.1.trans (h.units v).2.1,
    (k.units v).2.2.trans (h.units v).2.2⟩⟩

theorem sameConfig_of_settles {e t : Device} (h : Settles e t) : SameConfig e t :=
  ⟨h.lines, fun v => by rw [h.units]; exact ⟨rfl, rfl, rfl⟩⟩

/-- R27: the motor source of a unit reads the lines and the configurations. -/
theorem SameConfig.motorAsserted {d e : Device} (h : SameConfig d e) (u : UnitId) :
    e.motorAsserted u = d.motorAsserted u := by
  have hs : e.selected = d.selected :=
    selected_congr (fun l => by rw [h.lines]) (fun v => ⟨(h.units v).1, (h.units v).2.1⟩)
  unfold Device.motorAsserted Device.isSelected
  rw [h.lines, hs, (h.units u).1, (h.units u).2.2]

theorem SameConfig.doubleSelect {d e : Device} (h : SameConfig d e) : e.doubleSelect = d.doubleSelect := by
  have hs : ∀ u, e.selectable u = d.selectable u := fun u => by
    unfold Device.selectable
    rw [h.lines, (h.units u).1, (h.units u).2.1]
  unfold Device.doubleSelect
  rw [hs, hs]

theorem sameConfig_modUnit (d : Device) (u : UnitId) (f : UnitRecord → UnitRecord)
    (hf : ∀ r, (f r).enabled = r.enabled ∧ (f r).selectLine = r.selectLine ∧ (f r).motorSource = r.motorSource) :
    SameConfig d (d.modUnit u f) := by
  refine ⟨rfl, fun v => ?_⟩
  by_cases hv : v = u
  · subst hv
    rw [show (d.modUnit v f).units.get v = f (d.units.get v) from PerUnit.get_set_self ..]
    exact hf _
  · rw [show (d.modUnit u f).units.get v = d.units.get v from PerUnit.get_set_ne _ _ hv]
    exact ⟨rfl, rfl, rfl⟩

/-- The selection moves no line and no configuration. -/
theorem sameConfig_movedPart (before after : Device) : SameConfig after (movedPart before after) := by
  refine ⟨rfl, fun v => ?_⟩
  rw [show (movedPart before after).units.get v = sided before after v by cases v <;> rfl]
  unfold sided
  split <;> exact ⟨rfl, rfl, rfl⟩

/-- R27, R29: the record of a unit once its motor follows a source that is asserted or not. -/
def followed (asserted : Bool) (r : UnitRecord) : UnitRecord :=
  if asserted = r.motor then r else if r.motor then r.stopped else r.started

/-- R29: a motor off stops the record, and the effects that it has settle. -/
theorem settles_motorOff {e t : Device} (h : Settles e t) (u : UnitId) :
    Settles (e.modUnit u UnitRecord.stopped) (t.motorOff u) := by
  have h1 := settles_modUnit (h.trans (follows_captureEnd t u).settles) u UnitRecord.stopped
  have h2 : ∀ x : Device, Settles x (x.dropCompletion u) := fun x =>
    ⟨rfl, rfl, rfl, rfl, rfl, rfl, rfl, rfl, fun _ => ⟨rfl, rfl⟩, rfl, rfl, rfl, rfl, rfl, rfl, fun _ => rfl,
      rfl, fun _ => rfl, fun _ => rfl, fun _ => .refl _⟩
  exact ((h1.trans (h2 _)).trans (follows_closeSection _ u).settles).trans
    ((follows_joinUnit _ u).trans (follows_requestHeader _ u)).settles

theorem settles_followMotor {e t : Device} (h : Settles e t) (u : UnitId) :
    Settles (e.modUnit u (followed (e.motorAsserted u))) (t.followMotor u) := by
  have ha : t.motorAsserted u = e.motorAsserted u :=
    (sameConfig_of_settles h).motorAsserted u
  have hr : t.units.get u = e.units.get u := by rw [h.units]
  have hf : ∀ (a : Bool) (f : UnitRecord → UnitRecord), followed a (e.units.get u) = f (e.units.get u) →
      e.modUnit u (followed a) = e.modUnit u f := fun a f hf => by
    unfold Device.modUnit
    rw [hf]
  have hkeep : ∀ a, followed a (e.units.get u) = e.units.get u → Settles (e.modUnit u (followed a)) t := fun a hk => by
    rw [modUnit_self hk]
    exact h
  unfold Device.followMotor
  dsimp only
  rw [ha, hr]
  generalize e.motorAsserted u = a
  cases a <;> cases hm : (e.units.get u).motor
  · exact hkeep false (by unfold followed; rw [hm]; rfl)
  · rw [hf false UnitRecord.stopped (by unfold followed; rw [hm]; rfl)]
    exact settles_motorOff h u
  · rw [hf true UnitRecord.started (by unfold followed; rw [hm]; rfl)]
    exact (settles_modUnit h u UnitRecord.started).trans (follows_withNotice _ _ _ _).settles
  · exact hkeep true (by unfold followed; rw [hm]; rfl)

/-- R25 a: a double selection that begins is reported. -/
theorem settles_reportDouble {e t : Device} (h : Settles e t) (was : Bool) :
    Settles { e with banks :=
      if e.doubleSelect = true ∧ was = false then
        { e.banks with drive := e.banks.drive.receive (mkReport .note .doubleSelect .drive none none) }
      else e.banks } (t.reportDouble was) := by
  have hd : t.doubleSelect = e.doubleSelect := (sameConfig_of_settles h).doubleSelect
  unfold Device.reportDouble
  rw [hd]
  by_cases hc : e.doubleSelect = true ∧ was = false
  · rw [if_pos hc, if_pos (by rw [hc.1, hc.2]; rfl)]
    exact settles_reportDrive h _ rfl nofun
  · rw [if_neg hc, if_neg (by simpa using hc)]
    exact h

theorem followed_config (a : Bool) (r : UnitRecord) : (followed a r).enabled = r.enabled
    ∧ (followed a r).selectLine = r.selectLine ∧ (followed a r).motorSource = r.motorSource := by
  unfold followed
  split
  · exact ⟨rfl, rfl, rfl⟩
  · split <;> exact ⟨rfl, rfl, rfl⟩

/-- R24, R27, R29, R36: the record of a unit at the end of the evaluation. -/
theorem evaluated_eq (before after : Device) (u : UnitId) :
    before.evaluated after u = followed (after.motorAsserted u) (sided before after u) := by
  have hm : (sided before after u).motor = (after.units.get u).motor := by unfold sided; split <;> rfl
  unfold Device.evaluated followed
  rw [hm]
  rfl

/-- R24 to R29: the part once selection, the report and both motors have followed. -/
theorem evaluatedPart_eq (before after : Device) :
    let m := movedPart before after
    let d : Device := { m with banks :=
      if m.doubleSelect = true ∧ before.doubleSelect = false then
        { m.banks with drive := m.banks.drive.receive (mkReport .note .doubleSelect .drive none none) }
      else m.banks }
    before.evaluatedPart after =
      (d.modUnit .u0 (followed (d.motorAsserted .u0))).modUnit .u1
        (followed ((d.modUnit .u0 (followed (d.motorAsserted .u0))).motorAsserted .u1)) := by
  intro m d
  have hd : SameConfig after d := (sameConfig_movedPart before after).trans (b := m) ⟨rfl, fun _ => ⟨rfl, rfl, rfl⟩⟩
  rw [(hd.trans (sameConfig_modUnit d .u0 _ (followed_config _))).motorAsserted, hd.motorAsserted]
  unfold Device.evaluatedPart
  rw [evaluated_eq, evaluated_eq, ← (sameConfig_movedPart before after).doubleSelect]
  rfl

/-- What the evaluation keeps of its effect. -/
theorem settles_evaluate (before after : Device) :
    Settles (before.evaluatedPart after) (before.evaluate after) := by
  rw [evaluatedPart_eq]
  exact settles_followMotor (settles_followMotor
    (settles_reportDouble (settles_moveSelection before after) before.doubleSelect) .u0) .u1

/-! ### The whole effect of a change of the lines -/

/-- R27, R29: what a motor does that follows its source. -/
theorem followMotor_cases (x : Device) (u : UnitId) :
    x.followMotor u =
      if x.motorAsserted u = true ∧ (x.units.get u).motor = false then
        Device.withNotice x u false (x.modUnit u UnitRecord.started)
      else if x.motorAsserted u = false ∧ (x.units.get u).motor = true then x.motorOff u
      else x := by
  unfold Device.followMotor
  cases x.motorAsserted u <;> cases (x.units.get u).motor <;> rfl

/-- R29: a motor off, with the pool written out. -/
theorem motorOff_eq (x : Device) (u : UnitId) :
    x.motorOff u =
      let y := x.captureEnd u
      let z := { y with
        units := y.units.set u (UnitRecord.stopped (y.units.get u))
        pool := { y.pool with buffers := y.pool.buffers.map (fun (t : TrackBuffer) =>
          if t.key.map TrackKey.unit = some u then { t with completion := none } else t) } }
      ((z.closeSection u).joinUnit u).requestHeader u := by
  unfold Device.motorOff
  dsimp only
  rw [dropCompletion_eq]
  rfl

/-- A motor that follows moves no line and no configuration. -/
theorem sameConfig_followMotor (x : Device) (u : UnitId) : SameConfig x (x.followMotor u) :=
  (sameConfig_modUnit x u _ (followed_config _)).trans (sameConfig_of_settles (settles_followMotor (.refl x) u))

theorem sameConfig_moveSelection (before after : Device) : SameConfig after (after.moveSelection before.selected) :=
  (sameConfig_movedPart before after).trans (sameConfig_of_settles (settles_moveSelection before after))

theorem sameConfig_reportDouble (x : Device) (was : Bool) : SameConfig x (x.reportDouble was) := by
  unfold Device.reportDouble
  split <;> exact ⟨rfl, fun _ => ⟨rfl, rfl, rfl⟩⟩

/-- Settles O10: the evaluation is selection, the report and the two motors, one after the other. -/
theorem selectAndMotorLinesAreFollowed : Obligations.SelectAndMotorLinesAreFollowed := by
  have hfollow : ∀ (c : Instr) (s : State) (change : Device → Device),
      effect c s.dev = (s.dev.startsBefore change).evaluate (change (s.dev.startsBefore change)) →
      Reaches c s ((s.dev.startsBefore change).evaluatedPart (change (s.dev.startsBefore change)))
      ∧ Leads c s ((s.dev.startsBefore change).evaluate (change (s.dev.startsBefore change))) := fun c s change h =>
    ⟨Follows.reaches (h ▸ settles_evaluate _ _), Follows.leads h⟩
  refine ⟨fun s v => ⟨fun l => hfollow _ s _ rfl, hfollow _ s _ rfl, hfollow _ s _ rfl⟩, startsBefore_eq, ?_, joinUnit_spec⟩
  intro b a left entered doubled followMotor
  have hentered : entered = a.moveSelection b.selected := by
    by_cases hs : b.selected = a.selected
    · have hleft : left = a := by
        dsimp only [left]
        split
        · exact if_pos hs
        · rfl
      rw [show a.moveSelection b.selected = a from if_pos hs]
      dsimp only [entered]
      split
      · exact (if_pos hs).trans hleft
      · exact hleft
    · have hleft : left = leaveSelection a b.selected := by
        dsimp only [left]
        split
        next u hu =>
          rw [hu]
          exact if_neg (hu ▸ hs)
        next hn =>
          rw [hn]
          rfl
      rw [moveSelection_eq hs, ← hleft]
      dsimp only [entered]
      split
      next u hu =>
        rw [hu]
        exact if_neg (hu ▸ hs)
      next hn =>
        rw [hn]
        rfl
  have hconf : SameConfig a entered := hentered ▸ sameConfig_moveSelection b a
  have hdoubled : doubled = entered.reportDouble b.doubleSelect := by
    unfold Device.reportDouble
    rw [hconf.doubleSelect]
    dsimp only [doubled]
    cases a.doubleSelect <;> cases b.doubleSelect <;> rfl
  have hconf' : SameConfig a doubled := hconf.trans (hdoubled ▸ sameConfig_reportDouble _ _)
  have hmotor : ∀ u x, SameConfig a x → followMotor u x = x.followMotor u := fun u x hx => by
    rw [followMotor_cases, motorOff_eq, hx.motorAsserted]
    rfl
  rw [hmotor .u0 _ hconf', hmotor .u1 _ (hconf'.trans (sameConfig_followMotor _ _)), hdoubled, hentered]
  rfl

end Sys2Proof.Proofs
end

section
namespace Sys2Proof.Proofs
open Sys2Proof Sys2Proof.Machine

/-! ### The bytes of a capture (R8, R114, R115, R117) -/

/-- R8: the special byte before a mark in MFM. -/
def specialOf : MarkKind → Byte
  | .index => 0xC2
  | .ident | .data | .deleted => 0xA1

/-- R8: the mark byte of a kind. -/
def markOf : MarkKind → Byte
  | .index => 0xFC
  | .ident => 0xFE
  | .data => 0xFB
  | .deleted => 0xF8

/-- R8: the kind of a mark in MFM is that of its special byte and its mark byte. -/
theorem mfmMarkKind_iff (x b : Byte) (kind : MarkKind) :
    mfmMarkKind x b = some kind ↔ x = specialOf kind ∧ b = markOf kind := by
  constructor
  · unfold mfmMarkKind
    intro h
    split at h
    · next hx =>
      split at h
      · next hb => cases h; exact ⟨hx, hb⟩
      · exact nomatch h
    · split at h
      · next hx =>
        split at h
        · next hb => cases h; exact ⟨hx, hb⟩
        · split at h
          · next hb => cases h; exact ⟨hx, hb⟩
          · split at h
            · next hb => cases h; exact ⟨hx, hb⟩
            · exact nomatch h
      · exact nomatch h
  · rintro ⟨rfl, rfl⟩
    cases kind <;> rfl

/-- R8: the kind of a mark in FM is that of its mark byte. -/
theorem fmMarkKind_iff (b : Byte) (kind : MarkKind) : fmMarkKind b = some kind ↔ b = markOf kind := by
  unfold fmMarkKind
  constructor
  · intro h
    split at h
    · next hb => cases h; exact hb
    · exact ((mfmMarkKind_iff _ _ _).mp h).2
  · rintro rfl
    cases kind <;> rfl

/-- The change of the newest field. -/
theorem modLast_concat (f : CapField → CapField) : ∀ (init : List CapField) (x : CapField),
    modLast f (init ++ [x]) = init ++ [f x]
  | [], _ => rfl
  | [_], _ => rfl
  | _ :: y :: rest, x => congrArg (_ :: ·) (modLast_concat f (y :: rest) x)

/-- A change that leaves every field alone. -/
theorem modLast_id {f : CapField → CapField} (h : ∀ x, f x = x) (fs : List CapField) : modLast f fs = fs := by
  rcases List.eq_nil_or_concat fs with rfl | ⟨init, x, rfl⟩
  · rfl
  · rw [List.concat_eq_append, modLast_concat, h]

/-- R115: no mark of another basis than the fixed one is taken. -/
theorem markAt_foreign {c : Capture} {w : WireMode} (h : c.basisFixed = true ∧ c.basis ≠ wireBasis w) (p : Nat) (b : Byte)
    (broken : Bool) : c.markAt p b w broken = none := by
  unfold Capture.markAt
  exact if_pos (by simpa [h.1] using h.2.symm)

/-- R8: the mark that a byte completes in FM. -/
theorem markAt_fm {c : Capture} {w : WireMode} (hb : c.basisFixed = true → c.basis = wireBasis w)
    (he : (wireBasis w).enc = .fm) (p : Nat) (b : Byte) (broken : Bool) :
    c.markAt p b w broken = if broken then (fmMarkKind b).map (fun k => (k, p, 0)) else none := by
  unfold Capture.markAt wireEnc
  rw [if_neg (by simpa using fun h => (hb h).symm), he]

/-- R8: the mark that a byte completes in MFM after three equal special bytes. -/
theorem markAt_mfm {c : Capture} {w : WireMode} (hb : c.basisFixed = true → c.basis = wireBasis w)
    (he : (wireBasis w).enc = .mfm) {x : Byte} {p1 p2 p3 : Nat} (hs : c.specials = [(p3, x, w), (p2, x, w), (p1, x, w)])
    (p : Nat) (b : Byte) : c.markAt p b w false = (mfmMarkKind x b).map (fun k => (k, p1, 3)) := by
  unfold Capture.markAt wireEnc
  rw [if_neg (by simpa using fun h => (hb h).symm), he, hs]
  simp

/-- R8: in MFM a byte completes a mark only with its normal clock, after three equal special bytes of its wire mode. -/
theorem markAt_mfm_none {c : Capture} {w : WireMode} {b : Byte} {broken : Bool} (he : (wireBasis w).enc = .mfm)
    (hlen : c.specials.length ≤ 3)
    (h : broken = true ∨ ∀ kind p1 p2 p3, ¬ (b = markOf kind
      ∧ c.specials = [(p3, specialOf kind, w), (p2, specialOf kind, w), (p1, specialOf kind, w)])) (p : Nat) :
    c.markAt p b w broken = none := by
  unfold Capture.markAt wireEnc
  rw [he]
  split
  · rfl
  · dsimp only
    split
    next p3 x w1 p2 y w2 p1 z w3 rest hs =>
      split
      next hc =>
        simp only [Bool.and_eq_true, Bool.not_eq_true', beq_iff_eq] at hc
        obtain ⟨⟨⟨⟨⟨hbr, rfl⟩, rfl⟩, rfl⟩, rfl⟩, rfl⟩ := hc
        have hrest : rest = [] := by
          rw [hs] at hlen
          simp only [List.length_cons] at hlen
          exact List.length_eq_zero_iff.mp (by omega)
        rcases h with h | h
        · rw [hbr] at h; exact nomatch h
        · cases hk : mfmMarkKind x b with
          | none => rfl
          | some kind =>
            obtain ⟨rfl, rfl⟩ := (mfmMarkKind_iff x b kind).mp hk
            exact absurd ⟨rfl, hrest ▸ hs⟩ (h kind p1 p2 p3)
      next => rfl
    next => rfl

/-- R117: the byte is within the revolution that began with the capture. -/
def inRevolution (c : Capture) (p : Nat) : Prop := slotAt c.basis.rate p < c.startSlot + slotsPerRev c.basis.rate

/-- R115, R117: a byte that completes a mark. -/
theorem takeByte_mark {c : Capture} {p : Nat} {b : Byte} {w : WireMode} {broken : Bool} {kind : MarkKind} {first n : Nat}
    (hp : inRevolution c p) (hb : c.basisFixed = true → c.basis = wireBasis w)
    (h : c.markAt p b w broken = some (kind, first, n)) : c.takeByte p b w broken =
      { c with
        basis := wireBasis w, basisFixed := true, lastPhase := some p, specials := []
        fields := modLast (fun f => f.pull n) c.fields
          ++ [{ kind := kind, markSlot := slotAt (wireBasis w).rate first, bytes := [], slots := [] }] } := by
  have hbasis : (if c.basisFixed then c.basis else wireBasis w) = wireBasis w := by
    cases hf : c.basisFixed with
    | true => exact hb hf
    | false => rfl
  unfold Capture.takeByte
  rw [if_neg (Nat.not_le.mpr hp), h]
  unfold Capture.takeMark
  rw [hbasis]

/-- R115, R117: a byte that completes no mark. -/
theorem takeByte_plain {c : Capture} {p : Nat} {b : Byte} {w : WireMode} {broken : Bool} (hp : inRevolution c p)
    (h : c.markAt p b w broken = none) : c.takeByte p b w broken =
      { c with
        lastPhase := some p
        fields := modLast (fun f => { f with bytes := f.bytes ++ [b], slots := f.slots ++ [slotAt c.basis.rate p] }) c.fields
        specials :=
          if broken = true ∧ (wireBasis w).enc = .mfm ∧ (b = 0xA1 ∨ b = 0xC2) then ((p, b, w) :: c.specials).take 3
          else [] } := by
  have hs : (broken && wireEnc w == .mfm && (b == specialA1 || b == specialC2)) = true
      ↔ broken = true ∧ (wireBasis w).enc = .mfm ∧ (b = 0xA1 ∨ b = 0xC2) := by
    simp only [Bool.and_eq_true, Bool.or_eq_true, beq_iff_eq, and_assoc]
    exact Iff.rfl
  unfold Capture.takeByte
  rw [if_neg (Nat.not_le.mpr hp), h]
  unfold Capture.takePlain
  simp only [hs]
  rfl

/-- A byte leaves the capture running. -/
theorem takeByte_state (c : Capture) (p : Nat) (b : Byte) (w : WireMode) (broken : Bool) :
    (c.takeByte p b w broken).state = c.state := by
  unfold Capture.takeByte
  split
  · rfl
  · split <;> rfl

/-- A running capture that stays running makes no key current. -/
theorem setCapture_rest {d : Device} {u : UnitId} {c c' : Capture} (h : d.captures.get u = some c)
    (hc : c.state = .capturing) (hc' : c'.state = .capturing) (hrest : d.AtRest) : (d.setCapture u (some c')).AtRest := by
  refine rest_current (d := d) rfl rfl rfl rfl ?_ rfl rfl hrest
  refine isCurrent_congr (fun _ => rfl) (fun _ => ⟨rfl, rfl, rfl⟩) (fun v => ?_)
  by_cases hv : v = u
  · subst hv
    rw [h]
    simp [Device.setCapture, Option.filter, hc, hc']
  · simp [Device.setCapture, PerUnit.get_set_ne _ _ hv]

/-- R117: the selected unit's running capture takes the byte, which lasts its slot. -/
theorem onWriteByte_taken {d : Device} {u : UnitId} {c : Capture} (hu : d.selected = some u) (hw : d.lines.wgate = true)
    (hc : d.captures.get u = some c) (hst : c.state = .capturing) (b : Byte) (w : WireMode) (broken : Bool) :
    d.onWriteByte b w broken =
      (d.setCapture u (some (c.takeByte (c.startPhase + (d.now - c.startTime)) b w broken))).advance
        (8000000 / (wireBasis w).rate) := by
  have ht : d.takeWriteByte u b w broken
      = d.setCapture u (some (c.takeByte (c.startPhase + (d.now - c.startTime)) b w broken)) := by
    unfold Device.takeWriteByte
    rw [hc]
    exact if_pos hst
  unfold Device.onWriteByte
  rw [hu]
  dsimp only
  rw [hw, ht]
  rfl

/-- R117: without a running capture of the selected unit only the slot passes. -/
theorem onWriteByte_lost {d : Device} (h : d.selected = none ∨ d.lines.wgate = false
    ∨ ∃ u, d.selected = some u ∧ ∀ c, d.captures.get u = some c → c.state ≠ .capturing) (b : Byte) (w : WireMode)
    (broken : Bool) : d.onWriteByte b w broken = d.advance (8000000 / (wireBasis w).rate) := by
  have ht : ∀ u, (∀ c, d.captures.get u = some c → c.state ≠ .capturing) → d.takeWriteByte u b w broken = d := fun u hu => by
    unfold Device.takeWriteByte
    split
    next c hc => exact if_neg (hu c hc)
    next => rfl
  unfold Device.onWriteByte
  split
  next u hu =>
    split
    next hw =>
      rcases h with h | h | ⟨v, hv, h⟩
      · exact nomatch hu.symm.trans h
      · exact nomatch hw.symm.trans h
      · obtain rfl : u = v := Option.some.inj (hu.symm.trans hv)
        rw [ht u h]
        rfl
    next => rfl
  next => rfl

/-- Settles O19: the byte completes a mark or is plain, and past one revolution it is not taken. -/
theorem writeDataIsCaptured : Obligations.WriteDataIsCaptured := by
  unfold Obligations.WriteDataIsCaptured
  intro special mark within opened
  have hspecial : special = specialOf := by funext kind; cases kind <;> rfl
  have hmark : mark = markOf := by funext kind; cases kind <;> rfl
  refine ⟨fun s u c b w broken hu hw hc hst => ?_, fun s b w broken h => ?_, fun c p w kind hb hp => ⟨?_, ?_⟩, ?_,
    fun c p b w broken h => if_pos h⟩
  · refine Follows.answers (onWriteByte_taken hu hw hc hst b w broken) (fun hrest => adv_rest _ _ ?_)
    exact setCapture_rest hc hst ((takeByte_state ..).trans hst) hrest
  · exact Follows.answers (onWriteByte_lost h b w broken) (fun hrest => adv_rest _ _ hrest)
  · intro he p1 p2 p3 hs
    rw [hspecial] at hs
    have hm : c.markAt p (mark kind) w false = some (kind, p1, 3) := by
      rw [markAt_mfm hb he hs, hmark, (mfmMarkKind_iff _ _ kind).mpr ⟨rfl, rfl⟩]
      rfl
    have ht := takeByte_mark hp hb hm
    refine ⟨fun hf => ?_, fun init f hf => ?_⟩
    · rw [ht, hf]
      rfl
    · rw [ht, hf, modLast_concat]
      rfl
  · intro he
    have hm : c.markAt p (mark kind) w true = some (kind, p, 0) := by
      rw [markAt_fm hb he, hmark, (fmMarkKind_iff _ kind).mpr rfl]
      rfl
    have hpull : ∀ f : CapField, f.pull 0 = f := fun f => by
      unfold CapField.pull
      rw [Nat.sub_zero, Nat.sub_zero, List.take_length, List.take_length]
    rw [takeByte_mark hp hb hm, modLast_id hpull]
  · intro c p b w broken hp hlen h taken
    have hnone : c.markAt p b w broken = none := by
      by_cases hfor : c.basisFixed = true ∧ c.basis ≠ wireBasis w
      · exact markAt_foreign hfor p b broken
      · have hb : c.basisFixed = true → c.basis = wireBasis w := fun hf => by
          by_contra hn
          exact hfor ⟨hf, hn⟩
        rcases h with h | ⟨he, h⟩ | ⟨he, h⟩
        · exact absurd h hfor
        · rw [markAt_fm hb he]
          rcases h with rfl | h
          · rfl
          · cases hk : fmMarkKind b with
            | none => split <;> rfl
            | some kind => exact absurd ((fmMarkKind_iff b kind).mp hk) (hmark ▸ h kind)
        · rw [hmark, hspecial] at h
          exact markAt_mfm_none he hlen h p
    have ht := takeByte_plain hp hnone
    refine ⟨fun hf => ?_, fun init f hf => ?_⟩
    · rw [ht, hf]
      rfl
    · rw [ht, hf, modLast_concat]

/-! ### Sector writes (R122, R123) -/

/-- R122 b: the window of a position, in slots. -/
theorem inWindow_iff (l : Layout) (k first : Nat) :
    l.inWindow k first ↔ match l.enc with
      | .mfm =>
        let s := 128 + k * (62 + 128 * 2 ^ l.sizeCode + l.gap3)
        s + 22 ≤ first ∧ first ≤ s + 44
      | .fm =>
        let s := 64 + k * (33 + 128 * 2 ^ l.sizeCode + l.gap3)
        s + 13 ≤ first ∧ first ≤ s + 24 := by
  unfold Layout.inWindow
  rw [Layout.start_eq]
  cases l.enc <;> exact Iff.rfl

/-- R10, R123: the CRC of a field is judged over the mark as captured. -/
theorem dataCrcGood_iff (f : CapField) (e : Encoding) (d : Nat) : f.dataCrcGood e d = true ↔
    bytesAt f.bytes d 2 = crcBytes (dataCrc e (if f.kind = .deleted then 0xF8 else 0xFB) (bytesAt f.bytes 0 d)) := by
  have hb : f.kind.dataByte = if f.kind = .deleted then 0xF8 else 0xFB := by cases f.kind <;> rfl
  unfold CapField.dataCrcGood
  rw [beq_iff_eq, hb]

theorem whole_iff (f : CapField) (d : Nat) : f.whole d = true ↔ d + 2 ≤ f.bytes.length := by
  unfold CapField.whole
  rw [decide_eq_true_eq]

/-- R123: a sector write on a position of the table. -/
theorem writeSector_found {x : TrackBuffer} {l : Layout} {k : Nat} {f : CapField} {s : Sector}
    (h : x.sectors.find? (fun t => t.position == k) = some s) : x.writeSector l k f =
      { x with
        data := x.data.write (s.logical * l.dataLen) (f.bytes.take l.dataLen)
        sectors := x.sectors.map (fun t => if t.position = k then t.written f l.enc l.dataLen else t) } := by
  unfold TrackBuffer.writeSector
  rw [h]

/-- R123: a position with no sector takes nothing. -/
theorem writeSector_none {x : TrackBuffer} {l : Layout} {k : Nat} {f : CapField} (h : ∀ t ∈ x.sectors, t.position ≠ k) :
    x.writeSector l k f = x := by
  unfold TrackBuffer.writeSector
  rw [List.find?_eq_none.mpr (fun t ht => by simpa using h t ht)]

/-- R123: the record of a sector after a sector write, by what the field holds. -/
theorem written_eq (t : Sector) (f : CapField) (e : Encoding) (d : Nat) (crcBad : Bool) (unread : Bool → Bool)
    (hc : crcBad = !(f.whole d && f.dataCrcGood e d)) (hu : ∀ b, unread b = (b && !f.whole d)) : t.written f e d =
      { t with
        flags :=
          { deleted := decide (f.kind = .deleted), dataCrcBad := crcBad, idCrcBad := t.flags.idCrcBad
            noData := false, unreadable := unread t.flags.unreadable }
        dirty := true } := by
  have hd : (f.kind == .deleted) = decide (f.kind = .deleted) := by cases f.kind <;> rfl
  unfold Sector.written
  rw [hc, hu, hd]

/-- Settles O21: which captures are sector writes, and what the field of one leaves in its sector. -/
theorem aSectorWriteReplacesItsSector : Obligations.ASectorWriteReplacesItsSector := by
  refine ⟨fun l c k => ?_, fun x l k f => ⟨?_, writeSector_none⟩, ?_⟩
  · intro D first window
    have hbasis : l.basis = { enc := l.enc, rate := l.rate } := rfl
    rw [sectorWriteAt_eq_some_iff, inWindow_iff, hbasis]
    dsimp only [window]
    cases l.enc <;> exact Iff.rfl
  · cases hf : x.sectors.find? (fun t => t.position == k) with
    | none =>
      rw [writeSector_none (fun t ht => by simpa using List.find?_eq_none.mp hf t ht)]
    | some s => rw [writeSector_found hf]
  · intro x l k f s hs hkind y base good left
    have hy : y = { x with
        data := x.data.write base (f.bytes.take l.dataLen)
        sectors := x.sectors.map (fun t => if t.position = k then t.written f l.enc l.dataLen else t) } :=
      writeSector_found hs
    have hdata : y.data = x.data.write base (f.bytes.take l.dataLen) := by rw [hy]
    have hleft : ∀ crcBad unread, crcBad = !(f.whole l.dataLen && f.dataCrcGood l.enc l.dataLen) →
        (∀ b, unread b = (b && !f.whole l.dataLen)) → y.sectors = left crcBad unread := fun crcBad unread hc hu => by
      rw [hy]
      show x.sectors.map _ = x.sectors.map _
      simp only [written_eq _ f l.enc l.dataLen crcBad unread hc hu]
    have hlen : (f.bytes.take l.dataLen).length = min l.dataLen f.bytes.length := List.length_take
    have hread : ∀ j, j < l.dataLen → j < f.bytes.length → y.data.read (base + j) = f.bytes.getD j 0 := fun j hj hb => by
      rw [hdata, Mem.read_write_in _ _ _ _ (by omega)]
      simp [hj]
    refine ⟨fun hw => ⟨fun j hj => hread j hj (by omega), fun hg => ?_, fun hg => ?_⟩,
      fun hw => ⟨hread, fun j hj hb => ?_, ?_⟩, fun a ha => ?_⟩
    · exact hleft false (fun _ => false) (by rw [(whole_iff _ _).mpr hw, (dataCrcGood_iff _ _ _).mpr hg]; rfl)
        (fun b => by rw [(whole_iff _ _).mpr hw]; simp)
    · exact hleft true (fun _ => false) (by rw [Bool.eq_false_iff.mpr (fun h => hg ((dataCrcGood_iff _ _ _).mp h)), Bool.and_false]; rfl)
        (fun b => by rw [(whole_iff _ _).mpr hw]; simp)
    · rw [hdata, Mem.read_write_out _ _ _ _ (.inr (by omega))]
    · have hnw : f.whole l.dataLen = false := Bool.eq_false_iff.mpr (fun h => by have := (whole_iff _ _).mp h; omega)
      exact hleft true (fun u => u) (by rw [hnw]; rfl) (fun b => by rw [hnw]; simp)
    · rw [hdata, Mem.read_write_out _ _ _ _ (by omega)]

end Sys2Proof.Proofs
end

section
namespace Sys2Proof.Proofs
open Sys2Proof Sys2Proof.Machine

/-! ### Captures through what follows an event (R118, R119, R160) -/

/-- Two parts with the same captures. -/
def SameCaptures (d e : Device) : Prop := e.captures = d.captures

theorem SameCaptures.foldl {α : Type} (f : Device → α → Device) (hf : ∀ d a, SameCaptures d (f d a)) :
    ∀ (l : List α) (d : Device), SameCaptures d (l.foldl f d)
  | [], _ => rfl
  | a :: l, d => (SameCaptures.foldl f hf l (f d a)).trans (hf d a)

theorem withdraw_captures (d : Device) (w : Requester) : (d.withdraw w).captures = d.captures := by
  unfold Device.withdraw Device.dropRetry
  dsimp only
  split
  · split
    · unfold Device.afterRun Device.beginInit
      split
      · rw [Device.failRequests_eq]; rfl
      · rfl
    · rfl
  · rfl

theorem shuffle_captures (d : Device) (n : Nat) (l : List Nat) : (d.shuffle n l).2.captures = d.captures := by
  obtain ⟨c, hc⟩ := Device.shuffle_count n d l
  rw [hc]

theorem abandonUnit_captures (d : Device) (u : UnitId) : (d.abandonUnit u).captures = d.captures := by
  have hf : ∀ (x : Device) (is : List Nat), (x.freeAll is).captures = x.captures := fun x is => by
    unfold Device.freeAll
    dsimp only
    exact (SameCaptures.foldl Device.freeBuf (fun _ _ => rfl) _ _).trans (shuffle_captures _ _ _)
  unfold Device.abandonUnit
  dsimp only
  refine (hf _ _).trans ((withdraw_captures _ _).trans ?_)
  exact SameCaptures.foldl (fun (x : Device) i => x.withdraw (.buffer i)) (fun x i => withdraw_captures x _) _ _

theorem applyImageStage_captures (d : Device) (u : UnitId) (p : ImagePart) : (d.applyImageStage u (some p)).captures =
    (d.displaceSectors .imageChanged (fun k => k.unit == u)).captures := by
  rw [← abandonUnit_captures (d.displaceSectors .imageChanged (fun k => k.unit == u)) u]
  unfold Device.applyImageStage
  dsimp only
  generalize Device.abandonUnit _ u = x
  cases p <;> rfl

/-- R160: an application begins no capture. -/
theorem captureEnds_applyChange (d : Device) (u : UnitId) (c : Change) (v : UnitId) :
    CaptureEnds (d.captures.get v) ((d.applyChange u c).captures.get v) := by
  have hs : CaptureEnds (d.captures.get v) ((d.applyImageStage u c.image).captures.get v) := by
    cases c.image with
    | none => exact .refl _
    | some p =>
      rw [applyImageStage_captures]
      exact (follows_displaceSectors d _ _).settles.captures v
  have hp : ∀ x : Device, (x.applyProtect u c.protect).captures = x.captures := fun x => by
    unfold Device.applyProtect
    split
    · split <;> rfl
    · rfl
  have ha : CaptureEnds (d.captures.get v) (((d.applyImageStage u c.image).applyProtect u c.protect).captures.get v) := by
    rw [hp]
    exact hs
  unfold Device.applyChange
  dsimp only
  split
  · exact ha.trans ((follows_withNotice d u true (Device.modUnit _ u _)).settles.captures v)
  · exact ha

/-- R118, R119: the capture `c` of a unit has ended, or is PENDING. -/
def Ended (u : UnitId) (c : Capture) (d : Device) : Prop :=
  d.captures.get u = none ∨ d.captures.get u = some { c with state := .pending }

/-- A capture that has ended, or is PENDING, does not begin again. -/
theorem Ended.of_captureEnds {u : UnitId} {c : Capture} {d e : Device} (h : Ended u c d)
    (k : CaptureEnds (d.captures.get u) (e.captures.get u)) : Ended u c e := by
  rcases k with k | k | ⟨x, hx, hst, -⟩
  · unfold Ended
    rw [k]
    exact h
  · exact .inl k
  · rcases h with h | h
    · exact nomatch hx.symm.trans h
    · rw [h] at hx
      cases hx
      exact nomatch hst

theorem ended_tested {u : UnitId} {c : Capture} {d : Device} (h : Ended u c d) : Ended u c d.settled.tested :=
  tested_keeps (Ended u c) _ (h.of_captureEnds ((follows_settled d).settles.captures u))
    (fun e v x he _ _ => he.of_captureEnds (captureEnds_applyChange e v x u))
    (fun e he => he.of_captureEnds ((follows_settled e).settles.captures u))

/-! ### A capture end (R117 to R119) -/

/-- R117: the report of a capture that reached its cap. -/
theorem reportOverlong_eq (d : Device) (c : Capture) :
    d.reportOverlong c = if c.capReached then
      d.report { cls := .note, cause := .overlongWrite, op := .capture, unit := some c.key.unit
                 track := some { cyl := c.key.cyl, head := c.key.head, r := none }, block := none }
      else d := by
  unfold Device.reportOverlong
  split <;> rfl

/-- R118: only a CAPTURING record ends. -/
theorem captureEnd_none {d : Device} {u : UnitId} (h : ∀ c, d.captures.get u = some c → c.state ≠ .capturing) :
    d.captureEnd u = d := by
  unfold Device.captureEnd
  split
  next => rfl
  next c hc => exact if_pos (by simpa using h c hc)

/-- R118: a capture of no byte is dropped. -/
theorem captureEnd_empty {d : Device} {u : UnitId} {c : Capture} (hc : d.captures.get u = some c)
    (hs : c.state = .capturing) (hl : c.lastPhase = none) : d.captureEnd u = d.setCapture u none := by
  unfold Device.captureEnd
  rw [hc]
  dsimp only
  rw [if_neg (by simp [hs]), if_pos (by rw [hl]; rfl)]

/-- R118, R119: a capture with bytes, by whether its track is formatted and readable. -/
theorem captureEnd_cases {d : Device} {u : UnitId} {c : Capture} (hc : d.captures.get u = some c)
    (hs : c.state = .capturing) (hl : c.lastPhase.isSome = true) :
    (d.formatOf c.key = none → d.captureEnd u = ((d.reportOverlong c).decode none c).setCapture u none)
    ∧ ((d.formatOf c.key).isSome = true →
      (∀ i, d.readableHolder c.key = some i →
        d.captureEnd u = ((d.reportOverlong c).decode (some i) c).setCapture u none)
      ∧ (d.readableHolder c.key = none → d.captureEnd u =
        ((d.reportOverlong c).setCapture u (some { c with state := .pending })).requestFill c.key)) := by
  have hkeep : (d.reportOverlong c).images = d.images ∧ (d.reportOverlong c).pool = d.pool := by
    rw [reportOverlong_eq]
    split <;> exact ⟨rfl, rfl⟩
  have hf : (d.reportOverlong c).formatOf c.key = d.formatOf c.key := by
    unfold Device.formatOf
    rw [hkeep.1]
  have hr : (d.reportOverlong c).readableHolder c.key = d.readableHolder c.key := by
    unfold Device.readableHolder Device.holder Device.buf
    rw [hkeep.2]
  unfold Device.captureEnd
  rw [hc]
  dsimp only
  rw [if_neg (by simp [hs]), if_neg (by simpa [Option.isNone_iff_eq_none, Option.isSome_iff_ne_none] using hl), hf, hr]
  refine ⟨fun h => if_pos (by rw [h]; rfl), fun h => ?_⟩
  rw [if_neg (by simpa [Option.isNone_iff_eq_none, Option.isSome_iff_ne_none] using h)]
  exact ⟨fun i hi => by rw [hi], fun hn => by rw [hn]⟩

/-- R118: the capture of the unit has ended, or is PENDING. -/
theorem ended_captureEnd {d : Device} {u : UnitId} {c : Capture} (hc : d.captures.get u = some c)
    (hs : c.state = .capturing) : Ended u c (d.captureEnd u) := by
  cases hl : c.lastPhase with
  | none =>
    rw [captureEnd_empty hc hs hl]
    exact .inl (PerUnit.get_set_self ..)
  | some p =>
    obtain ⟨h1, h2⟩ := captureEnd_cases hc hs (by rw [hl]; rfl)
    cases hf : d.formatOf c.key with
    | none =>
      rw [h1 hf]
      exact .inl (PerUnit.get_set_self ..)
    | some f =>
      obtain ⟨h3, h4⟩ := h2 (by rw [hf]; rfl)
      cases hr : d.readableHolder c.key with
      | some i =>
        rw [h3 i hr]
        exact .inl (PerUnit.get_set_self ..)
      | none =>
        rw [h4 hr]
        refine Ended.of_captureEnds (d := (d.reportOverlong c).setCapture u (some { c with state := .pending }))
          (.inr (PerUnit.get_set_self ..)) ((follows_requestFill _ _).settles.captures u)

/-! ### The release of the write gate (R36, R38) -/

theorem onGateRelease_selected {d : Device} {u : UnitId} (hw : d.lines.wgate = true) (hu : d.selected = some u) :
    d.onGateRelease = (Device.captureEnd { d with lines := { d.lines with wgate := false } } u).sampleSide u := by
  have hs := (selected_setGate d false).trans hu
  unfold Device.onGateRelease
  dsimp only
  rw [if_pos hw, hs]

theorem onGateRelease_none {d : Device} (hw : d.lines.wgate = true) (hu : d.selected = none) :
    d.onGateRelease = { d with lines := { d.lines with wgate := false } } := by
  have hs := (selected_setGate d false).trans hu
  unfold Device.onGateRelease
  dsimp only
  rw [if_pos hw, hs]

/-- R36: the side is sampled on a part that a capture end has left. -/
theorem sampleSide_captureEnd (d : Device) (u : UnitId) :
    ((d.units.get u).side = d.lines.side → (d.captureEnd u).sampleSide u = d.captureEnd u)
    ∧ ((d.units.get u).side ≠ d.lines.side →
      (d.captureEnd u).sampleSide u = Device.withNotice (d.captureEnd u) u false
        ((d.captureEnd u).modUnit u (fun r => { r with side := d.lines.side }))) := by
  have h := (follows_captureEnd d u).settles
  unfold Device.sampleSide
  rw [h.units, h.lines]
  refine ⟨fun hs => if_pos hs, fun hs => (if_neg hs).trans ?_⟩
  unfold Device.modUnit
  rw [h.units]

/-- A capture of no byte that ends makes no key current. -/
theorem dropCapture_rest {d : Device} {u : UnitId} {c : Capture} (h : d.captures.get u = some c)
    (hc : c.state = .capturing) (hrest : d.AtRest) : (d.setCapture u none).AtRest := by
  refine rest_current (d := d) rfl rfl rfl rfl ?_ rfl rfl hrest
  refine isCurrent_congr (fun _ => rfl) (fun _ => ⟨rfl, rfl, rfl⟩) (fun v => ?_)
  by_cases hv : v = u
  · subst hv
    rw [h]
    simp [Device.setCapture, Option.filter, hc]
  · simp [Device.setCapture, PerUnit.get_set_ne _ _ hv]

/-- R36, R38: the command with a unit selected. -/
theorem gateRelease_selected (s : State) (u : UnitId) (hw : s.dev.lines.wgate = true) (hu : s.dev.selected = some u) :
    let d : Device := { s.dev with lines := { s.dev.lines with wgate := false } }
    Reaches .writeGateRelease s
      { d with units := d.units.set u { d.units.get u with side := d.lines.side } }
    ∧ (∀ c, d.captures.get u = some c → c.state = .capturing → ∃ t, exec .writeGateRelease s = .next t
      ∧ (t.dev.captures.get u = none ∨ t.dev.captures.get u = some { c with state := .pending }))
    ∧ ((d.units.get u).side ≠ d.lines.side →
      Leads .writeGateRelease s (Device.withNotice (d.captureEnd u) u false
        ((d.captureEnd u).modUnit u (fun r => { r with side := d.lines.side }))))
    ∧ ((d.units.get u).side = d.lines.side →
      Leads .writeGateRelease s (d.captureEnd u)
      ∧ ((∀ c, d.captures.get u = some c → c.state ≠ .capturing) → Answers .writeGateRelease s d)
      ∧ ∀ c, d.captures.get u = some c → c.state = .capturing → c.lastPhase = none →
        Answers .writeGateRelease s (d.setCapture u none)) := by
  intro d
  have heff : effect .writeGateRelease s.dev = (d.captureEnd u).sampleSide u := onGateRelease_selected hw hu
  obtain ⟨hstay, hmove⟩ := sampleSide_captureEnd d u
  have hrest : s.dev.AtRest → d.AtRest := fun h =>
    rest_engine (d := s.dev) rfl rfl rfl rfl rfl rfl (fun _ => ⟨rfl, rfl, rfl⟩) rfl h
  refine ⟨?_, fun c hc hst => ⟨_, exec_eq _ s, ?_⟩, fun hs => Follows.leads (heff.trans (hmove hs)), fun hs => ?_⟩
  · exact Follows.reaches (heff ▸ settles_sampleSide (follows_captureEnd d u).settles u)
  · refine ended_tested (Ended.of_captureEnds (ended_captureEnd hc hst) ?_)
    rw [heff]
    exact (settles_sampleSide (.refl (d.captureEnd u)) u).captures u
  · refine ⟨Follows.leads (heff.trans (hstay hs)), fun hn => ?_, fun c hc hst hl => ?_⟩
    · exact Follows.answers ((heff.trans (hstay hs)).trans (captureEnd_none hn)) hrest
    · exact Follows.answers ((heff.trans (hstay hs)).trans (captureEnd_empty hc hst hl))
        (fun h => dropCapture_rest hc hst (hrest h))

end Sys2Proof.Proofs
end

section
namespace Sys2Proof.Proofs
open Sys2Proof Sys2Proof.Machine

/-! ### The decode of a capture against a buffer (R121 to R124) -/

/-- R125: a format write begins before the first sector and holds an ID field. -/
theorem isFormatWrite_some (l : Layout) (c : Capture) : isFormatWrite (some l) c = true ↔
    (∃ f ∈ c.fields, f.kind = .ident) ∧ c.startPhase < preamble l.enc * (8000000 / l.rate) := by
  unfold isFormatWrite
  rw [Bool.and_eq_true, List.any_eq_true, decide_eq_true_eq]
  simp only [beq_iff_eq]
  exact Iff.rfl

theorem isFormatWrite_none (c : Capture) : isFormatWrite none c = true ↔
    (∃ f ∈ c.fields, f.kind = .ident) ∧ c.startPhase < preamble c.basis.enc * (8000000 / c.basis.rate) := by
  unfold isFormatWrite
  rw [Bool.and_eq_true, List.any_eq_true, decide_eq_true_eq]
  simp only [beq_iff_eq]
  exact Iff.rfl

/-- R121: what the decode of a capture against a buffer with a layout is. -/
theorem decode_some {d : Device} {i : Nat} {l : Layout} (hl : (d.buf i).layout = some l) (c : Capture) :
    (∀ p f rest, sectorWriteAt l c = some p → c.fields = f :: rest →
      d.decode (some i) c = d.applySectorWrite i c.key l c p f)
    ∧ (sectorWriteAt l c = none → isFormatWrite (some l) c = false → d.decode (some i) c = d.applyStray i c.key l c)
    ∧ (sectorWriteAt l c = none → isFormatWrite (some l) c = true →
      d.decode (some i) c = d.applyFormat (some i) c.key c) := by
  have hb : (some i).bind (fun n => (d.buf n).layout) = some l := hl
  unfold Device.decode
  rw [hb]
  dsimp only
  refine ⟨fun p f rest hp hf => ?_, fun hp hn => ?_, fun hp hf => ?_⟩
  · rw [hp, hf]
  · rw [hp]
    exact if_neg (by rw [hn]; decide)
  · rw [hp]
    exact if_pos hf

/-- R123: the report of a sector write, by its length and its CRC. -/
theorem reportSectorWrite_eq (d : Device) (k : TrackKey) (r : Option Nat) (f : CapField) (e : Encoding) (n : Nat) :
    d.reportSectorWrite k r f e n =
      if f.bytes.length < n + 2 then d.reportTrack .corrected .partialWrite k r
      else if bytesAt f.bytes n 2 ≠ crcBytes (dataCrc e (if f.kind = .deleted then 0xF8 else 0xFB) (bytesAt f.bytes 0 n)) then
        d.reportTrack .note .writeCrc k r
      else d := by
  have hw : (!f.whole n) = true ↔ f.bytes.length < n + 2 := by
    rw [Bool.not_eq_true', ← Bool.not_eq_true, whole_iff, Nat.not_le]
  have hg : (!f.dataCrcGood e n) = true ↔
      bytesAt f.bytes n 2 ≠ crcBytes (dataCrc e (if f.kind = .deleted then 0xF8 else 0xFB) (bytesAt f.bytes 0 n)) := by
    rw [Bool.not_eq_true', ← Bool.not_eq_true, dataCrcGood_iff]
  unfold Device.reportSectorWrite
  simp only [hw, hg]

/-- R123: a sector write that ends before the next sector. -/
theorem applySectorWrite_alone {d : Device} {i : Nat} {l : Layout} {c : Capture} {p e : Nat} {f : CapField}
    (he : c.endSlot? = some e) (h : e < l.start (p + 1)) :
    d.applySectorWrite i c.key l c p f =
      ((d.storeWrite i ((d.buf i).writeSector l p f) true).reportSectorWrite c.key
        (((d.buf i).sectors.find? (fun s => s.position == p)).map Sector.number) f l.enc l.dataLen).reportFlagLost c.key
        (d.buf i).sectors ((d.buf i).writeSector l p f).sectors := by
  have hr : spillRegion l c p = none := by
    unfold spillRegion
    rw [he]
    exact if_neg (Nat.not_le.mpr h)
  unfold Device.applySectorWrite
  dsimp only
  rw [hr]

/-- R123: a sector write that spills over. -/
theorem applySectorWrite_spills {d : Device} {i : Nat} {l : Layout} {c : Capture} {p e : Nat} {f : CapField}
    (he : c.endSlot? = some e) (h : l.start (p + 1) ≤ e) :
    let x := d.buf i
    let region := slotSpan l.rate (l.start (p + 1)) e
    let x1 := x.writeSector l p f
    let x2 := { x1 with sectors := x1.sectors.map (fun s => s.damaged l region (d.hasFlagMap c.key.unit)) }
    d.applySectorWrite i c.key l c p f =
      (((d.storeWrite i x2 true).reportSectorWrite c.key ((x.sectors.find? (fun s => s.position == p)).map Sector.number) f
        l.enc l.dataLen).reportStray c.key (firstMarked l region x.sectors)).reportFlagLost c.key x.sectors x2.sectors := by
  have hr : spillRegion l c p = some (slotSpan l.rate (l.start (p + 1)) e) := by
    unfold spillRegion
    rw [he]
    exact if_pos h
  unfold Device.applySectorWrite
  dsimp only
  rw [hr]

/-- R124: a stray write. -/
theorem applyStray_eq {d : Device} {i : Nat} {l : Layout} {c : Capture} {e : Nat} (he : c.endSlot? = some e) :
    let x := d.buf i
    let region := slotSpan c.basis.rate c.startSlot e
    let hasMap := d.hasFlagMap c.key.unit
    let x1 := { x with sectors := x.sectors.map (fun s => s.damaged l region hasMap) }
    let dirtied := x.sectors.any (fun s => flagDirty hasMap s.flags (s.damaged l region hasMap).flags)
    d.applyStray i c.key l c =
      ((d.storeWrite i x1 dirtied).reportStray c.key (firstMarked l region x.sectors)).reportFlagLost c.key x.sectors
        x1.sectors := by
  unfold Device.applyStray
  rw [he]

/-! ### Format writes against a buffer (R125 to R129) -/

/-- R66 a: the single-track entries of a track. -/
theorem isSingle_eq (o : OverrideEntry) (c h : Nat) :
    o.isSingle c h = decide (o.firstCyl = c ∧ o.lastCyl = c ∧ o.heads = if h = 0 then .head0 else .head1) := by
  have hh : HeadSelector.single h = if h = 0 then .head0 else .head1 := by
    unfold HeadSelector.single
    by_cases hz : h = 0
    · rw [if_pos hz, if_pos (by rw [hz]; rfl)]
    · rw [if_neg hz, if_neg (by simpa using hz)]
  rw [Bool.eq_iff_iff]
  unfold OverrideEntry.isSingle
  simp only [Bool.and_eq_true, beq_iff_eq, decide_eq_true_eq, hh, and_assoc]

/-- The override table without the single-track entries of a track. -/
theorem changedTable_none (table : List OverrideEntry) (c h : Nat) :
    changedTable table c h none = table.filter (fun e => !e.isSingle c h) := List.append_nil _

/-- R126 b: the ID_MISMATCH report. -/
theorem noteMismatch_eq (d : Device) (k : TrackKey) (ws : List WrittenSector) : d.noteMismatch k ws =
    if ∃ w ∈ ws, w.c ≠ k.cyl ∨ w.h ≠ k.head then d.reportTrack .note .idMismatch k none else d := by
  have hm : idMismatch k ws = true ↔ ∃ w ∈ ws, w.c ≠ k.cyl ∨ w.h ≠ k.head := by
    unfold idMismatch
    simp [List.any_eq_true]
  unfold Device.noteMismatch
  by_cases h : ∃ w ∈ ws, w.c ≠ k.cyl ∨ w.h ≠ k.head
  · rw [if_pos (hm.mpr h), if_pos h]
  · rw [if_neg (fun g => h (hm.mp g)), if_neg h]

/-- R127: the written sectors that match a layout. -/
theorem matchesLayout_iff (l : Layout) (x : TrackBuffer) (b : Basis) (n : Nat) (ws : List WrittenSector) :
    matchesLayout l x b n ws = true ↔ l.enc = b.enc ∧ l.rate = b.rate ∧ l.sectors = ws.length ∧ l.sizeCode = n
      ∧ x.sectors.map Sector.number = ws.map WrittenSector.r := by
  have hb : l.basis = b ↔ l.enc = b.enc ∧ l.rate = b.rate := by
    obtain ⟨e, r⟩ := b
    exact Basis.mk.injEq .. ▸ Iff.rfl
  unfold matchesLayout
  simp only [Bool.and_eq_true, beq_iff_eq, hb, and_assoc]

/-- R125: a format write on a mounted image goes by its parse. -/
theorem applyFormat_parsed {d : Device} {k : TrackKey} {m : MountRecord} (hm : d.images.get k.unit = some m)
    (i : Option Nat) (c : Capture) :
    (∀ cause, parseFormatWrite c.basis.enc c.fields = .error cause → d.applyFormat i k c = d.refuseFormat k cause)
    ∧ ∀ ws, parseFormatWrite c.basis.enc c.fields = .ok ws → d.applyFormat i k c = d.judgeFormat i k m c ws := by
  constructor <;> intro x hx <;> unfold Device.applyFormat <;> rw [hm] <;> simp only [hx]

/-- R126 to R129: what a parsed format write on a buffer is judged by. -/
theorem judgeFormat_some {d : Device} {i : Nat} {l : Layout} (hl : (d.buf i).layout = some l) (k : TrackKey)
    (m : MountRecord) (c : Capture) (w : WrittenSector) (ws : List WrittenSector) :
    ((∃ y ∈ ws, y.n ≠ w.n) → d.judgeFormat (some i) k m c (w :: ws) = d.refuseFormat k .formatMixed)
    ∧ ((∀ y ∈ ws, y.n = w.n) → ∀ old, m.geometry.formatOf k.cyl k.head = some old →
      let e := d.noteMismatch k (w :: ws)
      let f := writtenFormat c.basis old.gap3 (w :: ws) w.n
      (fitLayout f k.cyl k.head m.geometry.heads = none →
        d.judgeFormat (some i) k m c (w :: ws) = e.refuseFormat k .formatFit)
      ∧ ((fitLayout f k.cyl k.head m.geometry.heads).isSome = true →
        (matchesLayout l (d.buf i) c.basis w.n (w :: ws) = true →
          d.judgeFormat (some i) k m c (w :: ws) = e.applyFormatData i k l (w :: ws))
        ∧ (matchesLayout l (d.buf i) c.basis w.n (w :: ws) = false →
          d.judgeFormat (some i) k m c (w :: ws) = e.changeFormat i k m f (w :: ws)))) := by
  have mixed : (w :: ws).any (fun x => x.n != w.n) = true ↔ ∃ y ∈ ws, y.n ≠ w.n := by simp
  refine ⟨fun h => if_pos (mixed.mpr h), fun h old hold => ?_⟩
  have hn : ¬ (w :: ws).any (fun x => x.n != w.n) = true := fun g => by
    obtain ⟨y, hy, ne⟩ := mixed.mp g
    exact ne (h y hy)
  have hb : (d.noteMismatch k (w :: ws)).buf i = d.buf i := by
    rw [noteMismatch_eq]
    split <;> rfl
  intro e f
  unfold Device.judgeFormat
  dsimp only
  rw [if_neg hn, hold]
  dsimp only
  refine ⟨fun hf => ?_, fun hf => ?_⟩
  · rw [hf]
  · obtain ⟨y, hy⟩ := Option.isSome_iff_exists.mp hf
    rw [hy]
    dsimp only
    rw [hb, hl]
    exact ⟨fun hm => if_pos hm, fun hm => if_neg (by rw [hm]; decide)⟩

/-- R128: a format write that fits and does not match the layout. -/
theorem changeFormat_cases {m : MountRecord} {k : TrackKey} {old : TrackFormat}
    (hold : m.geometry.formatOf k.cyl k.head = some old) (d : Device) (i : Nat) (f : TrackFormat) (ws : List WrittenSector) :
    (f.dataSize ≠ old.dataSize ∨ m.hasFlagMap = true ∧ f.sectors ≠ old.sectors →
      d.changeFormat i k m f ws = d.refuseFormat k .formatSize)
    ∧ (f.dataSize = old.dataSize → (m.hasFlagMap = true → f.sectors = old.sectors) →
      (m.changeOverride k.cyl k.head (overrideToAppend m k f) = .full →
        d.changeFormat i k m f ws = d.refuseFormat k .formatTableFull)
      ∧ ∀ m1, m.changeOverride k.cyl k.head (overrideToAppend m k f) = .changed m1 →
        d.changeFormat i k m f ws = d.applyFormatChange i k m1 ws) := by
  unfold Device.changeFormat
  rw [hold]
  dsimp only
  refine ⟨fun h => if_neg (fun hc => ?_), fun h1 h2 => ?_⟩
  · rcases h with h | ⟨h, h'⟩
    · exact h hc.1
    · exact h' (hc.2 h)
  · rw [if_pos ⟨h1, h2⟩]
    exact ⟨fun h => by rw [h], fun m1 h => by rw [h]⟩

/-- R128 steps 1 to 4: the new layout is taken, and where the track is under its head the section and the slot end. -/
theorem applyFormatChange_eq {d : Device} {k : TrackKey} {m : MountRecord} {l : Layout}
    (hl : (d.setImage k.unit (some m)).layoutFor k = some l) (i : Nat) (ws : List WrittenSector) :
    let x := d.buf i
    let x1 := storeWritten ws l.dataLen { x with layout := some l, data := [] } l.sectorTable
    let z := (d.setImage k.unit (some m)).storeWrite i x1 true
    d.applyFormatChange i k m ws = Device.reportFlagLost
      (if z.currentTrack k.unit = some k then Device.finishSlot d (z.closeSection k.unit) k.unit else z) k x.sectors
      x1.sectors := by
  intro x x1 z
  have hite : (if z.currentTrack k.unit == some k then Device.finishSlot d (z.closeSection k.unit) k.unit else z)
      = if z.currentTrack k.unit = some k then Device.finishSlot d (z.closeSection k.unit) k.unit else z := by
    by_cases h : z.currentTrack k.unit = some k
    · rw [if_pos h, if_pos (beq_iff_eq.mpr h)]
    · rw [if_neg h, if_neg (fun g => h (beq_iff_eq.mp g))]
  rw [← hite]
  unfold Device.applyFormatChange
  dsimp only
  rw [hl]

end Sys2Proof.Proofs
end

section
namespace Sys2Proof.Proofs
open Sys2Proof Sys2Proof.Machine

/-! ### The parse of a format write (R125, R126) -/

theorem isData_iff (k : MarkKind) : k.isData = true ↔ k = .data ∨ k = .deleted := by cases k <;> decide

/-- R125: a field that is no ID field is passed over. -/
theorem parseFormatWrite_skip (k : Encoding) {f : CapField} (h : f.kind ≠ .ident) (rest : List CapField) :
    parseFormatWrite k (f :: rest) = parseFormatWrite k rest := by
  rw [parseFormatWrite.eq_def]
  exact if_pos (by simpa using h)

/-- R125: the first fault of an ID field. -/
theorem parseFormatWrite_badId (k : Encoding) {f : CapField} (h : f.kind = .ident) (rest : List CapField) :
    (f.bytes.length < 6 → parseFormatWrite k (f :: rest) = .error .formatSize)
    ∧ (6 ≤ f.bytes.length → 6 < (byteAt f.bytes 3).toNat → parseFormatWrite k (f :: rest) = .error .formatFit) := by
  have hk : ¬ (f.kind != .ident) = true := by simp [h]
  rw [parseFormatWrite.eq_def]
  dsimp only
  rw [if_neg hk]
  exact ⟨fun hl => if_pos hl, fun hl hn => (if_neg (by omega)).trans (if_pos hn)⟩

/-- R125: the data field after a good ID field, and what there is without one. -/
theorem parseFormatWrite_goodId (k : Encoding) {f : CapField} (h : f.kind = .ident) (hl : 6 ≤ f.bytes.length)
    (hn : (byteAt f.bytes 3).toNat ≤ 6) (rest : List CapField) :
    let d := 128 * 2 ^ (byteAt f.bytes 3).toNat
    ((∀ g more, rest = g :: more → g.kind ≠ .data ∧ g.kind ≠ .deleted ∨ g.bytes.length < d + 2) →
      parseFormatWrite k (f :: rest) = .error .formatSize)
    ∧ ∀ g more, rest = g :: more → (g.kind = .data ∨ g.kind = .deleted) → d + 2 ≤ g.bytes.length →
      parseFormatWrite k (f :: rest) = (parseFormatWrite k more).map (fun ws => writtenSector k f g :: ws) := by
  intro d
  have hk : ¬ (f.kind != .ident) = true := by simp [h]
  rw [parseFormatWrite.eq_def]
  dsimp only
  rw [if_neg hk, if_neg (by omega), if_neg (by omega)]
  refine ⟨fun hbad => ?_, fun g more hr hd hg => ?_⟩
  · cases rest with
    | nil => rfl
    | cons g more =>
      refine if_neg (fun hc => ?_)
      simp only [Bool.and_eq_true, isData_iff, decide_eq_true_eq] at hc
      have hlen : d + 2 ≤ g.bytes.length := hc.2
      rcases hbad g more rfl with hb | hb
      · exact hc.1.elim hb.1 hb.2
      · omega
  · subst hr
    refine (if_pos (by rw [(isData_iff _).mpr hd, decide_eq_true (show sizeLen _ + 2 ≤ _ from hg)]; rfl)).trans ?_
    cases parseFormatWrite k more <;> rfl

/-- R126 d: the gap between the first two written sectors, clamped to 1..255. -/
theorem measuredGap_pair (k : Encoding) (old : Nat) (w v : WrittenSector) (ws : List WrittenSector) :
    measuredGap k old (w :: v :: ws) = max 1 (min 255 (v.idSlot - (w.crcEnd + syncLen k))) := by
  unfold measuredGap
  dsimp only
  omega

/-! ### The written sectors stored (R127, R128) -/

/-- R127: a written sector is laid down at the logical index of its number. -/
def storeStep (ws : List WrittenSector) (n : Nat) (mem : Mem) (s : Sector) : Mem :=
  match ws.find? (fun w => w.r == s.number) with
  | some w => mem.write (s.logical * n) w.data
  | none => mem

theorem storeWritten_data (ws : List WrittenSector) (n : Nat) (x : TrackBuffer) (table : List Sector) :
    (storeWritten ws n x table).data = table.foldl (storeStep ws n) x.data := rfl

/-- A sector is laid down in its own place alone. -/
theorem storeStep_read_other {ws : List WrittenSector} {n : Nat} (hw : ∀ w ∈ ws, w.data.length = n) {s : Sector}
    {q j : Nat} (hj : j < n) (hq : s.logical ≠ q) (mem : Mem) : (storeStep ws n mem s).read (q * n + j) = mem.read (q * n + j) := by
  unfold storeStep
  cases h : ws.find? (fun w => w.r == s.number) with
  | none => rfl
  | some w =>
    dsimp only
    rw [Mem.read_write_out]
    rw [hw w (List.mem_of_find?_eq_some h)]
    rcases Nat.lt_or_gt_of_ne hq with h | h
    · have := Nat.mul_le_mul_right n (Nat.succ_le_of_lt h)
      rw [Nat.succ_mul] at this
      omega
    · have := Nat.mul_le_mul_right n (Nat.succ_le_of_lt h)
      rw [Nat.succ_mul] at this
      omega

theorem foldl_storeStep_other {ws : List WrittenSector} {n : Nat} (hw : ∀ w ∈ ws, w.data.length = n) {q j : Nat}
    (hj : j < n) : ∀ (table : List Sector) (mem : Mem), (∀ s ∈ table, s.logical ≠ q) →
      (table.foldl (storeStep ws n) mem).read (q * n + j) = mem.read (q * n + j)
  | [], _, _ => rfl
  | s :: table, mem, h => by
    rw [List.foldl_cons, foldl_storeStep_other hw hj table _ (fun t ht => h t (List.mem_cons_of_mem _ ht)),
      storeStep_read_other hw hj (h s List.mem_cons_self)]

/-- R127: the data of a written sector stands in its place. -/
theorem foldl_storeStep_read {ws : List WrittenSector} {n : Nat} (hw : ∀ w ∈ ws, w.data.length = n) {t : Sector}
    {w : WrittenSector} (ht : ws.find? (fun y => y.r == t.number) = some w) {j : Nat} (hj : j < n) :
    ∀ (table : List Sector) (mem : Mem), (table.map Sector.logical).Nodup → t ∈ table →
      (table.foldl (storeStep ws n) mem).read (t.logical * n + j) = w.data.getD j 0
  | [], _, _, h => nomatch h
  | s :: table, mem, hnd, h => by
    rw [List.map_cons, List.nodup_cons] at hnd
    rw [List.foldl_cons]
    rcases List.mem_cons.mp h with rfl | h
    · rw [foldl_storeStep_other hw hj table _ (fun y hy he => hnd.1 (List.mem_map.mpr ⟨y, hy, he⟩))]
      unfold storeStep
      rw [ht]
      exact Mem.read_write_in _ _ _ _ (by rw [hw w (List.mem_of_find?_eq_some ht)]; exact hj)
    · exact foldl_storeStep_read hw ht hj table _ hnd.2 h

/-- R127: the record of a written sector in the table. -/
theorem storeWritten_sector {ws : List WrittenSector} {t : Sector} {w : WrittenSector}
    (ht : ws.find? (fun y => y.r == t.number) = some w) (n : Nat) (x : TrackBuffer) {table : List Sector} (hm : t ∈ table) :
    { t with
      flags := { deleted := w.deleted, dataCrcBad := !w.dataGood, idCrcBad := !w.idGood, noData := false
                 unreadable := false }
      dirty := true, inFlush := false } ∈ (storeWritten ws n x table).sectors := by
  unfold storeWritten
  refine List.mem_map.mpr ⟨t, hm, ?_⟩
  rw [ht]
  rfl

/-! ### Override changes (R66) -/

/-- R66 a, b: an override change fails just when there is no room for a new entry, and its result. -/
theorem changeOverride_spec (m m1 : MountRecord) (c h : Nat) (new : Option TrackFormat) :
    (m.changeOverride c h new = .full ↔ new.isSome = true ∧ 16 ≤ (m.geometry.overrides.filter (fun e => !e.isSingle c h)).length)
    ∧ (m.changeOverride c h new = .changed m1 →
      m1.geometry.overrides = changedTable m.geometry.overrides c h new
      ∧ (m.headerState = .writing → m1.headerState = .writing ∧ m1.reDirtied = true)
      ∧ (m.headerState ≠ .writing → m1.headerState = .dirty ∧ m1.reDirtied = m.reDirtied)) := by
  have hfull : (new.isSome && decide (Config.overrideLimit ≤ (m.geometry.overrides.filter (fun e => !e.isSingle c h)).length)) = true
      ↔ new.isSome = true ∧ 16 ≤ (m.geometry.overrides.filter (fun e => !e.isSingle c h)).length := by
    rw [Bool.and_eq_true, decide_eq_true_eq]
    exact Iff.rfl
  have hmark : ∀ x : MountRecord, x.markHeader.geometry = x.geometry
      ∧ (x.headerState = .writing → x.markHeader.headerState = .writing ∧ x.markHeader.reDirtied = true)
      ∧ (x.headerState ≠ .writing → x.markHeader.headerState = .dirty ∧ x.markHeader.reDirtied = x.reDirtied) := fun x => by
    unfold MountRecord.markHeader
    cases x.headerState <;> exact ⟨rfl, by simp, by simp⟩
  unfold MountRecord.changeOverride
  dsimp only
  refine ⟨⟨fun hc => ?_, fun hc => if_pos (hfull.mpr hc)⟩, fun hc => ?_⟩
  · by_contra hn
    rw [if_neg (fun g => hn (hfull.mp g))] at hc
    split at hc
    · split at hc <;> exact nomatch hc
    · exact nomatch hc
  · split at hc
    · exact nomatch hc
    · split at hc
      · split at hc
        · cases hc
          obtain ⟨h1, h2, h3⟩ := hmark { m with
            geometry := { m.geometry with overrides := changedTable m.geometry.overrides c h new }
            headerCopy := changedCopy m.headerCopy m.geometry.overrides c h new }
          exact ⟨by rw [h1], h2, h3⟩
        · exact nomatch hc
      · exact nomatch hc

/-! ### FLAG_LOST and layouts (R13, R131) -/

/-- R131: the image of a unit has a flag map. -/
theorem hasFlagMap_iff (d : Device) (u : UnitId) :
    d.hasFlagMap u = true ↔ ∃ m, d.images.get u = some m ∧ m.hasFlagMap = true := by
  unfold Device.hasFlagMap
  cases d.images.get u <;> simp

/-- R131: the flags that a sector had before a decode. -/
theorem oldFlags_eq (old : List Sector) (t : Sector) : oldFlags old t =
    ((old.find? (fun y => y.number == t.number)).map Sector.flags).getD ⟨false, false, false, false, false⟩ := by
  unfold oldFlags
  cases old.find? (fun y => y.number == t.number) <;> rfl

/-- R13, R14: a layout is that of a format that fits. -/
theorem fitLayout_iff (f : TrackFormat) (c h heads : Nat) (l : Layout) :
    fitLayout f c h heads = some l ↔ layoutOf f c h heads = .fit l := by
  unfold fitLayout
  cases layoutOf f c h heads <;> simp

/-- R13: the layout of a key is that of its format in force. -/
theorem layoutFor_iff (d : Device) (k : TrackKey) (l : Layout) :
    d.layoutFor k = some l ↔ ∃ m g, d.images.get k.unit = some m ∧ m.geometry.formatOf k.cyl k.head = some g
      ∧ layoutOf g k.cyl k.head m.geometry.heads = .fit l := by
  unfold Device.layoutFor Device.formatOf Device.headCount
  cases hm : d.images.get k.unit with
  | none => simp
  | some m =>
    cases hg : m.geometry.formatOf k.cyl k.head with
    | none => simp [hg]
    | some g => simp [hg, fitLayout_iff]

/-! ### The release of the write gate and the end of a capture -/

/-- Settles O20: the command is the capture end and the side, and each operation of a decode is as its clause says. -/
theorem aWriteGateReleaseEndsTheCapture : Obligations.AWriteGateReleaseEndsTheCapture := by
  unfold Obligations.AWriteGateReleaseEndsTheCapture
  intro note early single noted made
  have hsingle : ∀ c h, (fun o => !single c h o) = fun o : OverrideEntry => !o.isSingle c h := fun c h => by
    funext o
    rw [isSingle_eq]
  have hover : ∀ (d : Device) (c : Capture), d.reportOverlong c =
      if c.capReached then note c .note .overlongWrite none d else d := reportOverlong_eq
  have hnoted : ∀ (c : Capture) ws (y : Device), y.noteMismatch c.key ws = noted c ws y := fun c ws y =>
    noteMismatch_eq y c.key ws
  refine ⟨fun s hw => ?_, fun s hw hu => ?_, ?_, ?_, ?_, ?_, ?_, ?_, ?_, ?_, ?_, ?_, ?_, ?_, ?_, ?_⟩
  · exact Follows.answers (if_neg (by rw [hw]; decide)) id
  · exact Follows.answers (onGateRelease_none hw hu)
      (fun h => rest_engine (d := s.dev) rfl rfl rfl rfl rfl rfl (fun _ => ⟨rfl, rfl, rfl⟩) rfl h)
  · intro s u hw hu d
    obtain ⟨hreach, hend, hmove, hstay⟩ := gateRelease_selected s u hw hu
    refine ⟨hreach, hend, hmove, fun hs => ?_⟩
    obtain ⟨hleads, hnone, hempty⟩ := hstay hs
    refine ⟨hleads, hnone, fun c hc hst => ⟨hempty c hc hst, fun hl => ?_⟩⟩
    obtain ⟨h1, h2⟩ := captureEnd_cases hc hst hl
    intro e
    rw [hover] at h1 h2
    exact ⟨fun hf => h1 hf ▸ hleads, fun hf => ⟨fun i hi => (h2 hf).1 i hi ▸ hleads, fun hn => (h2 hf).2 hn ▸ hleads⟩⟩
  · refine fun d u => ⟨captureEnd_none, fun c hc hst => ⟨captureEnd_empty hc hst, fun hl => ?_⟩⟩
    have h := captureEnd_cases hc hst hl
    rw [hover] at h
    exact h
  · intro d i c l hl x span damaged stray
    have hstray : ∀ region y, y.reportStray c.key (firstMarked l region x.sectors) = stray region y := fun region y => by
      dsimp only [stray]
      unfold Device.reportStray
      cases firstMarked l region x.sectors <;> rfl
    have hjudged : ∀ (y : Device) r f, y.reportSectorWrite c.key r f l.enc l.dataLen =
        if f.bytes.length < l.dataLen + 2 then note c .corrected .partialWrite r y
        else if bytesAt f.bytes l.dataLen 2 ≠ crcBytes
            (dataCrc l.enc (if f.kind = .deleted then 0xF8 else 0xFB) (bytesAt f.bytes 0 l.dataLen)) then
          note c .note .writeCrc r y
        else y := fun y r f => reportSectorWrite_eq y c.key r f l.enc l.dataLen
    have hearly : isFormatWrite (some l) c = true ↔ early c l.enc l.rate := isFormatWrite_some l c
    obtain ⟨hwrite, hstrayed, hformat⟩ := decode_some hl c
    refine ⟨fun p f rest e hp hf he => ?_, fun hp => ⟨fun hn e he => ?_, fun hi m hm => ?_⟩⟩
    · intro x1 number judged
      refine ⟨fun h => ?_, fun h => ?_⟩
      · rw [hwrite p f rest hp hf, applySectorWrite_alone he h, hjudged]
      · rw [hwrite p f rest hp hf, applySectorWrite_spills he h, hjudged, hstray]
        rfl
    · rw [hstrayed hp (Bool.eq_false_iff.mpr (fun g => hn (hearly.mp g))), applyStray_eq he, hstray]
      rfl
    · intro refused
      have hdec : d.decode (some i) c = d.applyFormat (some i) c.key c := hformat hp (hearly.mpr hi)
      obtain ⟨herr, hok⟩ := applyFormat_parsed hm (some i) c
      rw [hdec]
      refine ⟨herr, fun w ws hws => ?_⟩
      rw [hok _ hws]
      obtain ⟨hmixed, hjudge⟩ := judgeFormat_some hl c.key m c w ws
      refine ⟨hmixed, fun hn old hold => ?_⟩
      have hj := hjudge hn old hold
      intro e f same kept new
      obtain ⟨hnofit, hfit⟩ := hj
      rw [hnoted] at hnofit hfit
      have hsame : matchesLayout l (d.buf i) c.basis w.n (w :: ws) = true ↔ same := matchesLayout_iff ..
      have hnew : overrideToAppend m c.key f = new := by
        dsimp only [new, kept]
        unfold overrideToAppend
        rw [changedTable_none, hsingle] <;> rfl
      have hebuf : e.buf i = d.buf i := by
        dsimp only [e, noted]
        split <;> rfl
      refine ⟨hnofit, fun hf => ⟨fun hs => ?_, fun hs hbad => ?_, fun hs hsize hmap => ?_⟩⟩
      · rw [(hfit hf).1 (hsame.mpr hs)]
        unfold Device.applyFormatData
        rw [hebuf]
      · rw [(hfit hf).2 (Bool.eq_false_iff.mpr (fun g => hs (hsame.mp g)))]
        exact (changeFormat_cases hold e i f (w :: ws)).1 hbad
      · rw [(hfit hf).2 (Bool.eq_false_iff.mpr (fun g => hs (hsame.mp g)))]
        obtain ⟨hfull, hchanged⟩ := (changeFormat_cases hold e i f (w :: ws)).2 hsize hmap
        rw [hnew] at hfull hchanged
        refine ⟨hfull, fun m1 k hm1 hk => ?_⟩
        have hchange := (hchanged m1 hm1).trans (applyFormatChange_eq hk i (w :: ws))
        rw [hebuf] at hchange
        exact hchange
  · intro d c isFormat
    have hearly : isFormatWrite none c = true ↔ isFormat := isFormatWrite_none c
    obtain ⟨hno, hyes⟩ := decode_none_of_parse d c
    refine ⟨fun hn => hno (Bool.eq_false_iff.mpr (fun g => hn (hearly.mp g))), fun hi => ⟨?_, fun m hm => ?_⟩⟩
    · exact parseFormatWrite_ne_nil _ _ hi.1
    · obtain ⟨herr, hok⟩ := hyes (hearly.mpr hi) m hm
      refine ⟨herr, fun w ws hws => ?_⟩
      rw [hok _ hws]
      obtain ⟨hmixed, hjudge⟩ := judgeFormat_none d c.key m c w ws
      refine ⟨hmixed, fun hn => ?_⟩
      have hj := hjudge hn
      intro gap fit
      have hgap : ((m.geometry.formatOf c.key.cyl c.key.head).map TrackFormat.gap3).getD 1 = gap := by
        dsimp only [gap]
        cases m.geometry.formatOf c.key.cyl c.key.head <;> rfl
      rw [hgap, hnoted] at hj
      exact hj
  · intro k f rest d
    refine ⟨fun hk => parseFormatWrite_skip k hk rest, fun hk => (parseFormatWrite_badId k hk rest).1,
      fun hk => (parseFormatWrite_badId k hk rest).2, fun hk hl hn => parseFormatWrite_goodId k hk hl hn rest⟩
  · intro a b ha hb
    rw [PhaseSpan.overlaps_iff_reaches a b ha hb]
    exact ⟨fun ⟨i, hi, j, hj, h⟩ => ⟨i, j, hi, hj, h⟩, fun ⟨i, j, hi, hj, h⟩ => ⟨i, hi, j, hj, h⟩⟩
  · intro l k D
    refine ⟨fun he => ?_, fun he => ?_, fun rate a b => rfl, fun c => ⟨rfl, rfl⟩⟩
    · obtain ⟨h1, h2⟩ := l.spans_mfm k he
      have hs : l.start k = 128 + k * (62 + D + l.gap3) := by rw [Layout.start_eq, he]; rfl
      rw [h1, h2, hs]
      exact ⟨rfl, rfl, rfl⟩
    · obtain ⟨h1, h2⟩ := l.spans_fm k he
      have hs : l.start k = 64 + k * (33 + D + l.gap3) := by rw [Layout.start_eq, he]; rfl
      rw [h1, h2, hs]
      exact ⟨rfl, rfl, rfl⟩
  · exact fun l region ss h hr hm => firstMarked_spec l region ss h hr hm
  · intro d k old new mapped was kept
    have hwas : ∀ t, oldFlags old t = was t := oldFlags_eq old
    have hkept : ∀ t, (oldFlags old t).storedDiffer t.flags = false ↔ kept t := fun t => by
      rw [SectorFlags.storedDiffer_eq_false, hwas]
    obtain ⟨hsilent, hlost⟩ := reportFlagLost_spec d k old new
    refine ⟨fun h => hsilent ?_, fun a t b hm hnew ha ht => hlost a t b ?_ hnew (fun y hy => (hkept y).mpr (ha y hy)) ?_⟩
    · exact h.imp (fun hm => (hasFlagMap_iff d k.unit).mpr hm) (fun hk t ht => (hkept t).mpr (hk t ht))
    · exact Bool.eq_false_iff.mpr (fun g => hm ((hasFlagMap_iff d k.unit).mp g))
    · exact Bool.eq_true_of_not_eq_false (fun g => ht ((hkept t).mp g))
  · exact fun d k f c h heads l => ⟨fitLayout_iff f c h heads l, layoutFor_iff d k l, rfl⟩
  · intro m m1 c h new kept
    obtain ⟨hfull, hchanged⟩ := changeOverride_spec m m1 c h new
    have hk : kept = m.geometry.overrides.filter (fun e => !e.isSingle c h) := by rw [← hsingle]
    rw [← hk] at hfull
    refine ⟨hfull, fun hm => ?_⟩
    obtain ⟨ho, hh⟩ := hchanged hm
    refine ⟨?_, changeOverride_core m c h new m1 hm, hh⟩
    rw [ho, hk]
    have hheads : HeadSelector.single h = if h = 0 then .head0 else .head1 := by
      unfold HeadSelector.single
      by_cases hz : h = 0 <;> simp [hz]
    unfold changedTable singleEntry
    rw [hheads]
  · refine ⟨fun k f g => ?_, fun k old w v ws => ⟨rfl, ?_⟩⟩
    · intro n size w
      refine ⟨rfl, rfl, rfl, rfl, rfl, ?_, ?_, dataCrcGood_iff g k size, rfl, rfl⟩
      · exact beq_iff_eq
      · exact beq_iff_eq
    · cases k <;> exact measuredGap_pair _ old w v ws
  · exact least_spec
  · exact fun ws n x table hnd hw t ht w hf =>
      ⟨storeWritten_sector hf n x ht, fun j hj => foldl_storeStep_read hw hf hj table x.data hnd ht⟩

end Sys2Proof.Proofs
end

section
namespace Sys2Proof.Proofs
open Sys2Proof Sys2Proof.Machine

/-! ### What the stream of a unit reads (R98 to R100) -/

/-- The buffer of a stream and its basis read the pool, the images and the place of the head. -/
theorem streamBuffer_congr {d e : Device} {u : UnitId} (hp : e.pool = d.pool) (hi : e.images = d.images)
    (hc : (e.units.get u).cylinder = (d.units.get u).cylinder) (hs : (e.units.get u).side = (d.units.get u).side) :
    e.streamBuffer u = d.streamBuffer u := by
  unfold Device.streamBuffer Device.currentTrack Device.headKey Device.mounted
  rw [hi, hc, hs]
  congr 1
  funext k
  unfold Device.readableHolder Device.holder Device.buf
  rw [hp]

theorem streamBasis_congr {d e : Device} {u : UnitId} (hp : e.pool = d.pool) (hi : e.images = d.images)
    (hc : (e.units.get u).cylinder = (d.units.get u).cylinder) (hs : (e.units.get u).side = (d.units.get u).side) :
    e.streamBasis u = d.streamBasis u := by
  unfold Device.streamBasis Device.headKey Device.buf
  rw [streamBuffer_congr hp hi hc hs, hi, hc, hs, hp]

/-- Time changes no stream. -/
theorem streamBuffer_advance (d : Device) (dt : Nat) (u : UnitId) : (d.advance dt).streamBuffer u = d.streamBuffer u :=
  streamBuffer_congr rfl rfl (by simp) (by simp)

theorem streamBasis_advance (d : Device) (dt : Nat) (u : UnitId) : (d.advance dt).streamBasis u = d.streamBasis u :=
  streamBasis_congr rfl rfl (by simp) (by simp)

theorem streamMode_advance (d : Device) (dt : Nat) (u : UnitId) : (d.advance dt).streamMode u = d.streamMode u := by
  unfold Device.streamMode Device.isSelected
  rw [selected_advance, streamBuffer_advance, Device.advance_unit, UnitRecord.advance_motor, UnitRecord.advance_atSpeed]
  rfl

/-- R100: a stream carries its track with the unit at speed, not OFFLINE, the gate released, and its track readable. -/
def carriesTrack (d : Device) (u : UnitId) : Prop :=
  (d.units.get u).motor = true ∧ (d.units.get u).atSpeed = true ∧ d.banks.offline = false ∧ d.lines.wgate = false
    ∧ ∃ i, d.streamBuffer u = some i

/-- R98, R100: the mode of a stream. -/
theorem streamMode_cases (d : Device) (u : UnitId) :
    (d.streamMode u = .silent ↔ d.selected ≠ some u)
    ∧ (d.streamMode u = .track ↔ d.selected = some u ∧ carriesTrack d u)
    ∧ (d.streamMode u = .filler ↔ d.selected = some u ∧ ¬ carriesTrack d u) := by
  have hmount : ∀ i, d.streamBuffer u = some i → d.mounted u = true := fun i hi => by
    by_contra hm
    unfold Device.streamBuffer Device.currentTrack at hi
    rw [if_neg hm] at hi
    exact nomatch hi
  have hc : ((d.units.get u).motor && (d.units.get u).atSpeed && d.mounted u && !d.banks.offline
      && (d.streamBuffer u).isSome && !d.lines.wgate) = true ↔ carriesTrack d u := by
    simp only [Bool.and_eq_true, Bool.not_eq_true', Option.isSome_iff_exists, and_assoc]
    exact ⟨fun ⟨h1, h2, _, h4, h5, h6⟩ => ⟨h1, h2, h4, h6, h5⟩,
      fun ⟨h1, h2, h4, h6, ⟨i, hi⟩⟩ => ⟨h1, h2, hmount i hi, h4, ⟨i, hi⟩, h6⟩⟩
  have hs : (!d.isSelected u) = true ↔ d.selected ≠ some u := by
    unfold Device.isSelected
    simp
  unfold Device.streamMode
  by_cases h : d.selected = some u
  · rw [if_neg (fun g => hs.mp g h)]
    by_cases hk : carriesTrack d u
    · rw [if_pos (hc.mpr hk)]
      simp [h, hk]
    · rw [if_neg (fun g => hk (hc.mp g))]
      simp [h, hk]
  · rw [if_pos (hs.mpr h)]
    simp [h]

/-- R99: the buffer of a stream holds the current track, readable. -/
theorem streamBuffer_eq_some (d : Device) (u : UnitId) (i : Nat) :
    let r := d.units.get u
    let key : TrackKey := { unit := u, cyl := r.cylinder, head := if r.side = true then 1 else 0 }
    d.streamBuffer u = some i ↔
      d.images.get u ≠ none ∧ i < 8 ∧ (d.buf i).key = some key
        ∧ ((d.buf i).state = .clean ∨ (d.buf i).state = .dirty ∨ (d.buf i).state = .flushing)
        ∧ ∀ j < i, (d.buf j).state = .free ∨ (d.buf j).key ≠ some key := by
  intro r key
  have hread : ∀ b : BufferState, b.readable = true ↔ b = .clean ∨ b = .dirty ∨ b = .flushing := fun b => by
    cases b <;> decide
  have hfree : ∀ b : BufferState, b.readable = true → b ≠ .free := fun b => by cases b <;> decide
  have hhold : d.holder key = some i ↔ ((d.buf i).state ≠ .free ∧ (d.buf i).key = some key) ∧ i < 8
      ∧ ∀ j < i, (d.buf j).state = .free ∨ (d.buf j).key ≠ some key := by
    unfold Device.holder bufferIds
    rw [List.find?_range_eq_some]
    simp only [Bool.and_eq_true, bne_iff_ne, beq_iff_eq, List.mem_range, Bool.not_eq_true', Bool.and_eq_false_iff,
      bne_eq_false_iff_eq, beq_eq_false_iff_ne, ne_eq]
    exact Iff.rfl
  have hmount : d.mounted u = true ↔ d.images.get u ≠ none := by
    unfold Device.mounted
    cases d.images.get u <;> simp
  unfold Device.streamBuffer Device.currentTrack
  by_cases hm : d.mounted u = true
  · rw [if_pos hm, ← hmount, ← hread]
    show d.readableHolder key = some i ↔ _
    unfold Device.readableHolder
    rw [Option.filter_eq_some_iff, hhold]
    exact ⟨fun ⟨⟨⟨_, hk⟩, hi, hj⟩, hr⟩ => ⟨hm, hi, hk, hr, hj⟩, fun ⟨_, hi, hk, hr, hj⟩ => ⟨⟨⟨hfree _ hr, hk⟩, hi, hj⟩, hr⟩⟩
  · rw [if_neg hm]
    exact ⟨nofun, fun h => absurd (hmount.mpr h.1) hm⟩

/-- R99: the basis of a stream. -/
theorem streamBasis_cases (d : Device) (u : UnitId) :
    let r := d.units.get u
    let key : TrackKey := { unit := u, cyl := r.cylinder, head := if r.side = true then 1 else 0 }
    (d.images.get u = none → d.streamBasis u = { enc := .mfm, rate := 250000 })
    ∧ ∀ m, d.images.get u = some m →
      (∀ i l, d.streamBuffer u = some i → (d.buf i).layout = some l →
        d.streamBasis u = { enc := l.enc, rate := l.rate })
      ∧ (d.streamBuffer u = none →
        (∀ f, m.geometry.formatOf key.cyl key.head = some f →
          d.streamBasis u = { enc := f.enc, rate := f.rate })
        ∧ (m.geometry.formatOf key.cyl key.head = none →
          d.streamBasis u = { enc := m.geometry.base.enc, rate := m.geometry.base.rate })) := by
  intro r key
  have hk : d.headKey u = key := rfl
  unfold Device.streamBasis
  refine ⟨fun h => by rw [h], fun m hm => ?_⟩
  rw [hm, hk]
  refine ⟨fun i l hi hl => ?_, fun hn => ⟨fun f hf => ?_, fun hf => ?_⟩⟩
  · have hl' : (d.streamBuffer u).bind (fun i => (d.buf i).layout) = some l := by rw [hi]; exact hl
    simp only [hl']
    rfl
  · rw [hn]
    simp only [Option.bind_none, hf]
  · rw [hn]
    simp only [Option.bind_none, hf]

/-! ### The next slot (R12, R99) -/

/-- R99: the first slot that begins at or after a moment. -/
theorem ceil_div_eq {a len x : Nat} (hlen : 0 < len) (h1 : a ≤ x * len) (h2 : x * len < a + len) :
    (a + len - 1) / len = x := by
  refine Nat.div_eq_of_lt_le ?_ ?_
  · omega
  · rw [Nat.succ_mul]
    omega

theorem nextSlot_cases (d : Device) (u : UnitId) (h0 : 0 < (d.streamBasis u).rate) (h1 : (d.streamBasis u).rate ≤ 8000000) :
    let r := d.units.get u
    let len := 8000000 / (d.streamBasis u).rate
    ((d.delivery.get u).slotEnd = none → d.nextSlot u = (0, r.phase / len))
    ∧ ∀ t, (d.delivery.get u).slotEnd = some t →
      (r.motor = false → d.nextSlot u = (t - d.now, 0))
      ∧ (r.motor = true → t + r.phase % len ≤ d.now → d.nextSlot u = (0, r.phase / len))
      ∧ ∀ x, r.motor = true → d.now < t + r.phase % len → r.phase + (t - d.now) ≤ x * len →
        x * len < r.phase + (t - d.now) + len →
        d.nextSlot u = (x * len - r.phase, x % ((d.streamBasis u).rate / 40)) := by
  intro r len
  have hlen : 0 < len := Nat.div_pos h1 h0
  unfold Device.nextSlot
  dsimp only
  refine ⟨fun h => by rw [h]; rfl, fun t ht => ?_⟩
  rw [ht]
  dsimp only
  refine ⟨fun hm => if_pos (by rw [show (d.units.get u).motor = false from hm]; rfl), fun hm hle => ?_, fun x hm hlt ha hb => ?_⟩
  · rw [if_neg (by rw [show (d.units.get u).motor = true from hm]; decide)]
    exact if_pos hle
  · rw [if_neg (by rw [show (d.units.get u).motor = true from hm]; decide)]
    refine (if_neg (Nat.not_le.mpr hlt)).trans ?_
    rw [show ((d.units.get u).phase + (t - d.now) + slotLen (d.streamBasis u).rate - 1) / slotLen (d.streamBasis u).rate = x
      from ceil_div_eq hlen ha hb]
    rfl

/-! ### READ_SLOT -/

/-- R102: the part with a byte on read data, the end of its slot and the delivery record after it. -/
def slotDelivered (d : Device) (u : UnitId) (basis : Basis) (x : Delivery) (b : SlotByte) : Device :=
  { d with
    delivery := d.delivery.set u { x with
      slotEnd := some (d.now - (d.units.get u).phase % (8000000 / basis.rate) + 8000000 / basis.rate) }
    readData := some { value := b.1, basis := basis, broken := b.2 } }

/-- The delivery of a slot makes nothing owed. -/
theorem slotDelivered_rest {d : Device} (u : UnitId) (basis : Basis) (x : Delivery) (b : SlotByte) (h : d.AtRest) :
    (slotDelivered d u basis x b).micro = none :=
  rest_engine (d := d) rfl rfl rfl rfl rfl rfl (fun _ => ⟨rfl, rfl, rfl⟩) rfl h

/-- The time to the next slot, and the closing of the section, make nothing owed. -/
theorem readSlot_rest {d : Device} (u : UnitId) (h : d.AtRest) :
    (Device.closeSection (d.advance (d.nextSlot u).1) u).AtRest :=
  close_rest (d.advance (d.nextSlot u).1) u (adv_rest d (d.nextSlot u).1 h)

theorem onReadSlot_none {d : Device} (h : d.selected = none) : d.onReadSlot = d := by
  unfold Device.onReadSlot
  rw [h]

/-- R100: a slot of a stream in FILLER. -/
theorem onReadSlot_filler {d : Device} {u : UnitId} (hu : d.selected = some u) (hm : d.streamMode u = .filler) :
    d.onReadSlot = slotDelivered (Device.closeSection (d.advance (d.nextSlot u).1) u) u (d.streamBasis u)
      ((Device.closeSection (d.advance (d.nextSlot u).1) u).delivery.get u) (fillerSlot (d.streamBasis u).enc) := by
  unfold Device.onReadSlot
  rw [hu]
  dsimp only
  unfold Device.deliverSlot
  rw [streamMode_advance, hm, streamBasis_advance]
  rfl

/-- Settles O22: a FILLER stream delivers the filler, and mode, basis and next slot are as their clauses say. -/
theorem fillerIsDelivered : Obligations.FillerIsDelivered := by
  refine ⟨fun s hu => Follows.answers (onReadSlot_none hu) id, ?_, nextSlot_cases, fun d u => ?_⟩
  · intro s u hu hm
    exact Follows.answers (onReadSlot_filler hu hm)
      (fun h => slotDelivered_rest u (s.dev.streamBasis u)
        ((Device.closeSection (s.dev.advance (s.dev.nextSlot u).1) u).delivery.get u) (fillerSlot (s.dev.streamBasis u).enc)
        (readSlot_rest u h))
  · obtain ⟨h1, h2, h3⟩ := streamMode_cases d u
    obtain ⟨h4, h5⟩ := streamBasis_cases d u
    exact ⟨streamBuffer_eq_some d u, h1, h2, h3, h4, h5⟩

end Sys2Proof.Proofs
end

section
namespace Sys2Proof.Proofs
open Sys2Proof Sys2Proof.Machine

/-! ### The section that begins at a slot (R16, R17, R101) -/

/-- R16: the width of a sector with its gap. -/
def sectorWidth (l : Layout) : Nat := overhead l.enc + l.dataLen + l.gap3

theorem dataLen_pos (l : Layout) : 128 ≤ l.dataLen :=
  Nat.le_mul_of_pos_right 128 (Nat.two_pow_pos l.sizeCode)

theorem start_eq_width (l : Layout) (k : Nat) : l.start k = preamble l.enc + k * sectorWidth l := rfl

/-- R17: a slot within a sector lies there. -/
theorem place_sector {l : Layout} {k o : Nat} (hk : k < l.sectors) (ho : o < sectorWidth l) :
    l.place (l.start k + o) = .sector k o := by
  have hw : 0 < sectorWidth l := Nat.lt_of_le_of_lt (Nat.zero_le o) ho
  have hlt : k * sectorWidth l + o < l.sectors * sectorWidth l := by
    have := Nat.mul_le_mul_right (sectorWidth l) (Nat.succ_le_of_lt hk)
    rw [Nat.succ_mul] at this
    omega
  have hsub : l.start k + o - preamble l.enc = sectorWidth l * k + o := by
    rw [start_eq_width, Nat.mul_comm]
    omega
  unfold Layout.place
  dsimp only
  rw [if_neg (by rw [start_eq_width]; omega), if_pos (by rw [start_eq_width]; exact Nat.add_assoc _ _ _ ▸ Nat.add_lt_add_left hlt _)]
  show SlotPlace.sector ((l.start k + o - preamble l.enc) / sectorWidth l) ((l.start k + o - preamble l.enc) % sectorWidth l) = _
  rw [hsub, Nat.mul_add_div hw, Nat.div_eq_of_lt ho, Nat.mul_add_mod, Nat.mod_eq_of_lt ho, Nat.add_zero]

/-- R17: a slot in a sector is the start of that sector and an offset. -/
theorem place_sector_inv {l : Layout} {slot k o : Nat} (h : l.place slot = .sector k o) :
    k < l.sectors ∧ slot = l.start k + o := by
  unfold Layout.place at h
  dsimp only at h
  split at h
  · exact nomatch h
  · next hp =>
    split at h
    · next hs =>
      have hk : (slot - preamble l.enc) / sectorWidth l = k := (SlotPlace.sector.inj h).1
      have ho : (slot - preamble l.enc) % sectorWidth l = o := (SlotPlace.sector.inj h).2
      have hs' : slot < preamble l.enc + l.sectors * sectorWidth l := hs
      refine ⟨?_, ?_⟩
      · rw [← hk]
        exact Nat.div_lt_of_lt_mul (by rw [Nat.mul_comm]; omega)
      · rw [start_eq_width, ← hk, ← ho, Nat.add_assoc, Nat.div_add_mod', Nat.add_sub_cancel' (Nat.not_lt.mp hp)]
    · exact nomatch h

/-- R101: the INDEX section begins at its slot of the preamble. -/
theorem sectionAt_index (l : Layout) : sectionAt l (gap4aLen l.enc) = some .index := by
  have hp : l.place (gap4aLen l.enc) = .preamble (gap4aLen l.enc) :=
    if_pos (by cases l.enc <;> decide)
  unfold sectionAt
  rw [hp]
  exact if_pos rfl

/-- R101: which section begins at an offset of a sector. -/
theorem sectionAt_offset {l : Layout} {k o : Nat} (hk : k < l.sectors) (ho : o < sectorWidth l) :
    sectionAt l (l.start k + o) =
      if o = 0 then some (.ident k) else if o = dataSyncOffset l.enc then some (.data k) else none := by
  unfold sectionAt
  rw [place_sector hk ho]

theorem sectionAt_ident {l : Layout} {k : Nat} (hk : k < l.sectors) : sectionAt l (l.start k) = some (.ident k) :=
  (sectionAt_offset (o := 0) hk (by have := dataLen_pos l; unfold sectorWidth; omega)).trans (if_pos rfl)

theorem dataSync_lt_width (l : Layout) : dataSyncOffset l.enc + syncLen l.enc < sectorWidth l := by
  have := dataLen_pos l
  unfold sectorWidth dataSyncOffset idEndOffset gap2Len syncLen overhead
  cases l.enc <;> dsimp only <;> omega

theorem sectionAt_data {l : Layout} {k : Nat} (hk : k < l.sectors) :
    sectionAt l (l.start k + dataSyncOffset l.enc) = some (.data k) := by
  rw [sectionAt_offset hk (by have := dataSync_lt_width l; omega), if_neg (by cases l.enc <;> decide), if_pos rfl]

/-- R105: no section begins at a data mark. -/
theorem sectionAt_mark {l : Layout} {k : Nat} (hk : k < l.sectors) :
    sectionAt l (l.start k + (dataSyncOffset l.enc + syncLen l.enc)) = none := by
  rw [sectionAt_offset hk (dataSync_lt_width l), if_neg (by cases l.enc <;> decide), if_neg (by cases l.enc <;> decide)]

/-- R101: no section begins at another slot. -/
theorem sectionAt_none {l : Layout} {slot : Nat} (hi : slot ≠ gap4aLen l.enc)
    (hs : ∀ k < l.sectors, slot ≠ l.start k ∧ slot ≠ l.start k + dataSyncOffset l.enc) : sectionAt l slot = none := by
  unfold sectionAt
  split
  next x hp =>
    have hx : x = slot := by
      unfold Layout.place at hp
      dsimp only at hp
      split at hp
      · exact (SlotPlace.preamble.inj hp).symm
      · split at hp <;> exact nomatch hp
    exact if_neg (fun h => hi (hx.symm.trans h))
  next k o hp =>
    obtain ⟨hk, ho⟩ := place_sector_inv hp
    obtain ⟨h1, h2⟩ := hs k hk
    rw [if_neg (fun h => h1 (by rw [ho, h]; rfl)), if_neg (fun h => h2 (by rw [ho, h]))]
  next => rfl

/-! ### A slot of a synthesized track (R101 to R105) -/

/-- R102: a slot at which no latch is taken. -/
theorem trackSlot_eq {d : Device} {u : UnitId} {i : Nat} {l : Layout} {slot : Nat} {x y : Delivery}
    (hx : ((d.delivery.get u).dropPast l slot).openAt (d.buf i) l slot = x)
    (hy : x.takeLatch (d.buf i) l slot = (y, false)) :
    d.trackSlot u i l slot = slotDelivered d u l.basis (y.closeAfter l slot) (y.byteAt l slot) := by
  unfold Device.trackSlot
  dsimp only
  rw [hx, hy]
  cases u <;> rfl

/-- R105 b: a slot at which the latch is taken, and the buffer moves to the head of the LRU order. -/
theorem trackSlot_latch {d : Device} {u : UnitId} {i : Nat} {l : Layout} {slot : Nat} {x y : Delivery}
    (hx : ((d.delivery.get u).dropPast l slot).openAt (d.buf i) l slot = x)
    (hy : x.takeLatch (d.buf i) l slot = (y, true)) :
    d.trackSlot u i l slot =
      { slotDelivered d u l.basis (y.closeAfter l slot) (y.byteAt l slot) with
        pool := { d.pool with lru := i :: d.pool.lru.filter (fun j => j != i) } } := by
  unfold Device.trackSlot
  dsimp only
  rw [hx, hy]
  cases u <;> rfl

/-- R105: a latch is taken in a PRESENT field alone. -/
theorem takeLatch_none {x : Delivery} (h : ∀ k, x.openSection = some (.data k) → x.dataDecision ≠ some .present)
    (b : TrackBuffer) (l : Layout) (slot : Nat) : x.takeLatch b l slot = (x, false) := by
  unfold Delivery.takeLatch
  split
  next k hs hd => exact absurd hd (h k hs)
  next => rfl

/-- R105: and at its data mark slot alone. -/
theorem takeLatch_elsewhere {x : Delivery} {l : Layout} {slot : Nat}
    (h : ∀ k, x.openSection = some (.data k) → x.dataDecision = some .present →
      slot ≠ l.start k + (dataSyncOffset l.enc + syncLen l.enc)) (b : TrackBuffer) : x.takeLatch b l slot = (x, false) := by
  unfold Delivery.takeLatch
  split
  next k hs hd => exact if_neg (fun e => h k hs hd (e.trans (Nat.add_assoc ..)))
  next => rfl

/-- R105: at the data mark slot the sector is latched, or the field is ABSENT. -/
theorem takeLatch_mark {x : Delivery} {b : TrackBuffer} {l : Layout} {k : Nat} {s : Sector}
    (hs : x.openSection = some (.data k)) (hd : x.dataDecision = some .present) (hb : b.sectorAt k = some s) :
    x.takeLatch b l (l.start k + (dataSyncOffset l.enc + syncLen l.enc)) =
      if s.flags.noData then ({ x with dataDecision := some .absent }, false)
      else ({ x with latch := some (b.latchOf l s) }, true) := by
  unfold Delivery.takeLatch
  rw [hs, hd]
  refine (if_pos (Nat.add_assoc _ _ _).symm).trans ?_
  rw [hb]

/-- R101: a section stays open before its last slot, and none closes that is not open. -/
theorem closeAfter_keep {x : Delivery} {l : Layout} {slot : Nat}
    (h : ∀ sec, x.openSection = some sec → slot ≠ (sec.span l).2) : x.closeAfter l slot = x := by
  unfold Delivery.closeAfter
  split
  next sec hs => exact if_neg (h sec hs)
  next => rfl

theorem closeAfter_last {x : Delivery} {l : Layout} {slot : Nat} {sec : StreamSection} (hs : x.openSection = some sec)
    (h : slot = (sec.span l).2) : x.closeAfter l slot = x.close := by
  unfold Delivery.closeAfter
  rw [hs]
  exact if_pos h

/-- A section that holds the slot is not past. -/
theorem dropPast_keep {x : Delivery} {l : Layout} {slot : Nat}
    (h : ∀ sec, x.openSection = some sec → (sec.span l).1 ≤ slot ∧ slot ≤ (sec.span l).2) : x.dropPast l slot = x := by
  unfold Delivery.dropPast
  split
  next sec hs => exact if_pos (h sec hs)
  next => rfl

theorem dropPast_past {x : Delivery} {l : Layout} {slot : Nat} {sec : StreamSection} (hs : x.openSection = some sec)
    (h : slot < (sec.span l).1 ∨ (sec.span l).2 < slot) : x.dropPast l slot = x.close := by
  unfold Delivery.dropPast
  rw [hs]
  exact if_neg (by omega)

/-- A past section is closed, or nothing changes: what is closed then is the same. -/
theorem dropPast_close (x : Delivery) (l : Layout) (slot : Nat) : (x.dropPast l slot).close = x.close := by
  unfold Delivery.dropPast
  split
  · split <;> rfl
  · rfl

/-- R101: no section opens where none begins. -/
theorem openAt_none {x : Delivery} {b : TrackBuffer} {l : Layout} {slot : Nat} (h : sectionAt l slot = none) :
    x.openAt b l slot = x := by
  unfold Delivery.openAt
  rw [h]

/-- R101, R103, R104: what opens at the first slot of a section. -/
theorem openAt_index {x : Delivery} {b : TrackBuffer} {l : Layout} {slot : Nat} (h : sectionAt l slot = some .index) :
    x.openAt b l slot = { x.close with openSection := some .index } := by
  unfold Delivery.openAt
  rw [h]

theorem openAt_ident {x : Delivery} {b : TrackBuffer} {l : Layout} {slot k : Nat} (h : sectionAt l slot = some (.ident k)) :
    x.openAt b l slot = if b.visible l k then
      { x.close with openSection := some (.ident k), idDecision := b.idDecision l k } else x.close := by
  unfold Delivery.openAt
  rw [h]

theorem openAt_data {x : Delivery} {b : TrackBuffer} {l : Layout} {slot k : Nat} (h : sectionAt l slot = some (.data k)) :
    x.openAt b l slot = if b.visible l k then
      { x.close with openSection := some (.data k), dataDecision := some (b.dataDecision k) } else x.close := by
  unfold Delivery.openAt
  rw [h]

/-! ### The byte that a section carries (R102 to R105) -/

/-- R102: outside the open section, and in an ABSENT field, a slot carries the filler. -/
theorem byteAt_filler {x : Delivery} {l : Layout}
    (h : x.openSection = none ∨ ∃ k, x.openSection = some (.data k) ∧ x.dataDecision = some .absent) (o : Nat) :
    x.byteAt l o = fillerSlot l.enc := by
  unfold Delivery.byteAt
  rcases h with h | ⟨k, h1, h2⟩
  · rw [h]
  · rw [h1, h2]

/-- R105 a: the sync run of a PRESENT field. -/
theorem byteAt_dataSync {x : Delivery} {l : Layout} {k : Nat} (hs : x.openSection = some (.data k))
    (hd : x.dataDecision = some .present) {o : Nat} (ho : o < syncLen l.enc) :
    x.byteAt l (l.start k + dataSyncOffset l.enc + o) = (0, false) := by
  unfold Delivery.byteAt
  rw [hs, hd]
  exact if_pos (Nat.add_lt_add_left ho _)

/-- R105 c: the mark, the data and the CRC of a PRESENT field are the latch's. -/
theorem byteAt_latch {x : Delivery} {l : Layout} {k : Nat} {y : DataLatch} (hs : x.openSection = some (.data k))
    (hd : x.dataDecision = some .present) (hy : x.latch = some y) (o : Nat) :
    x.byteAt l (l.start k + dataSyncOffset l.enc + (syncLen l.enc + o)) = (latchSlots l.enc y).getD o (fillerSlot l.enc) := by
  have hsub : l.start k + dataSyncOffset l.enc + (syncLen l.enc + o) - (l.dataSpan k).1 - syncLen l.enc = o := by
    show l.start k + dataSyncOffset l.enc + (syncLen l.enc + o) - (l.start k + dataSyncOffset l.enc) - syncLen l.enc = o
    omega
  unfold Delivery.byteAt
  rw [hs, hd]
  refine (if_neg ?_).trans ?_
  · show ¬ _ < l.start k + dataSyncOffset l.enc + syncLen l.enc
    omega
  · rw [hy, hsub]

/-- R102 b: the INDEX section. -/
theorem byteAt_index {x : Delivery} (l : Layout) (hs : x.openSection = some .index) (o : Nat) :
    x.byteAt l (gap4aLen l.enc + o) = (indexSlots l.enc).getD o (fillerSlot l.enc) := by
  unfold Delivery.byteAt
  rw [hs]
  show (indexSlots l.enc).getD (gap4aLen l.enc + o - gap4aLen l.enc) _ = _
  rw [Nat.add_sub_cancel_left]

/-- R103: the ID section. -/
theorem byteAt_ident {x : Delivery} (l : Layout) {k : Nat} {i : IdDecision} (hs : x.openSection = some (.ident k))
    (hi : x.idDecision = some i) (o : Nat) :
    x.byteAt l (l.start k + o) = (idSlots l.enc i).getD o (fillerSlot l.enc) := by
  unfold Delivery.byteAt
  rw [hs, hi]
  show (idSlots l.enc i).getD (l.start k + o - l.start k) _ = _
  rw [Nat.add_sub_cancel_left]

/-- An element of a list, read with a value for what lies past its end. -/
theorem getElem?_eq_getD {α : Type} {bs : List α} {o : Nat} (h : o < bs.length) (a : α) : bs[o]? = some (bs.getD o a) := by
  rw [List.getD_eq_getElem _ _ h, List.getElem?_eq_getElem h]

/-! ### READ_SLOT in TRACK mode -/

/-- R102: the selected unit's stream in TRACK mode, from its buffer `i` with the layout `l`. -/
structure Streams (d : Device) (u : UnitId) (i : Nat) (l : Layout) : Prop where
  selected : d.selected = some u
  mode : d.streamMode u = .track
  buffer : d.streamBuffer u = some i
  layout : (d.buf i).layout = some l

theorem Streams.effect {d : Device} {u : UnitId} {i : Nat} {l : Layout} (h : Streams d u i l) :
    d.onReadSlot = (d.advance (d.nextSlot u).1).trackSlot u i l (d.nextSlot u).2 := by
  have hl : ((d.advance (d.nextSlot u).1).buf i).layout = some l := h.layout
  unfold Device.onReadSlot
  rw [h.selected]
  dsimp only
  unfold Device.deliverSlot
  rw [streamMode_advance, streamBuffer_advance, h.mode, h.buffer]
  dsimp only
  rw [hl]

/-- R102: a slot at which no latch is taken, by the delivery record after it and the byte that it carries. -/
theorem answers_slot {s : State} {u : UnitId} {i : Nat} {l : Layout} (h : Streams s.dev u i l) {x y z : Delivery}
    {b : SlotByte}
    (hx : ((s.dev.delivery.get u).dropPast l (s.dev.nextSlot u).2).openAt (s.dev.buf i) l (s.dev.nextSlot u).2 = x)
    (hy : x.takeLatch (s.dev.buf i) l (s.dev.nextSlot u).2 = (y, false)) (hz : y.closeAfter l (s.dev.nextSlot u).2 = z)
    (hb : y.byteAt l (s.dev.nextSlot u).2 = b) :
    Answers .readSlot s (slotDelivered (s.dev.advance (s.dev.nextSlot u).1) u l.basis z b) := by
  subst hz hb
  exact Follows.answers (h.effect.trans (trackSlot_eq hx hy))
    (fun hrest => slotDelivered_rest u l.basis _ _ (adv_rest s.dev _ hrest))

/-- R73, R105 b: the part with the byte and the latch, and buffer `i` at the head of the LRU order. -/
def slotLatched (d : Device) (u : UnitId) (i : Nat) (basis : Basis) (x : Delivery) (b : SlotByte) : Device :=
  { slotDelivered d u basis x b with pool := { d.pool with lru := i :: d.pool.lru.filter (fun j => j != i) } }

theorem slotLatched_rest {d : Device} {u : UnitId} {i : Nat} (basis : Basis) (x : Delivery) (b : SlotByte)
    (hi : i ∈ d.pool.lru) (h : d.AtRest) : (slotLatched d u i basis x b).micro = none := by
  refine (SameWork.of_bufs (d := d) (e := slotLatched d u i basis x b) rfl (fun _ => ⟨rfl, rfl, rfl, rfl⟩) (fun j => ?_)
    rfl rfl rfl rfl rfl (fun _ => ⟨rfl, rfl, rfl⟩) rfl h).quiet h
  show j ∈ i :: d.pool.lru.filter (fun j => j != i) ↔ j ∈ d.pool.lru
  rw [List.mem_cons, List.mem_filter, bne_iff_ne]
  by_cases hj : j = i
  · simp [hj, hi]
  · simp [hj]

/-- R73, R105 b: a slot at which the latch is taken. -/
theorem answers_latch {s : State} {u : UnitId} {i : Nat} {l : Layout} (h : Streams s.dev u i l) {x y z : Delivery}
    {b : SlotByte}
    (hx : ((s.dev.delivery.get u).dropPast l (s.dev.nextSlot u).2).openAt (s.dev.buf i) l (s.dev.nextSlot u).2 = x)
    (hy : x.takeLatch (s.dev.buf i) l (s.dev.nextSlot u).2 = (y, true)) (hz : y.closeAfter l (s.dev.nextSlot u).2 = z)
    (hb : y.byteAt l (s.dev.nextSlot u).2 = b) (hlru : ∀ j < 8, j ∈ s.dev.pool.lru) :
    Answers .readSlot s (slotLatched (s.dev.advance (s.dev.nextSlot u).1) u i l.basis z b) := by
  subst hz hb
  exact Follows.answers (h.effect.trans (trackSlot_latch hx hy)) (fun hrest => slotLatched_rest l.basis _ _
    (hlru i ((streamBuffer_eq_some s.dev u i).mp h.buffer).2.1) (adv_rest s.dev _ hrest))

/-- The first and last slots of the INDEX section, and of the ID and DATA sections of a position. -/
theorem span_bounds (l : Layout) (k : Nat) :
    gap4aLen l.enc ≠ (StreamSection.span l .index).2
    ∧ l.start k ≠ (StreamSection.span l (.ident k)).2
    ∧ l.start k + dataSyncOffset l.enc ≠ (StreamSection.span l (.data k)).2
    ∧ (StreamSection.span l (.data k)).1 ≤ l.start k + (dataSyncOffset l.enc + syncLen l.enc)
    ∧ l.start k + (dataSyncOffset l.enc + syncLen l.enc) < (StreamSection.span l (.data k)).2
    ∧ l.start k + dataSyncOffset l.enc ≠ l.start k + (dataSyncOffset l.enc + syncLen l.enc) := by
  have := dataLen_pos l
  simp only [StreamSection.span, Layout.indexSpan, Layout.idSpan, Layout.dataSpan]
  cases l.enc <;>
    simp only [gap4aLen, syncLen, markLen, idEndOffset, dataSyncOffset, gap2Len, firstDataOffset] <;> omega

/-- R101, R102: the first slot of the INDEX section. -/
theorem answers_index {s : State} {u : UnitId} {i : Nat} {l : Layout} (h : Streams s.dev u i l)
    (hn : (s.dev.nextSlot u).2 = gap4aLen l.enc) :
    Answers .readSlot s (slotDelivered (s.dev.advance (s.dev.nextSlot u).1) u l.basis
      { openSection := some .index, idDecision := none, dataDecision := none, latch := none, slotEnd := none }
      (0x00, false)) := by
  refine answers_slot h (z := { Delivery.close _ with openSection := some .index })
    (openAt_index (hn ▸ sectionAt_index l)) (takeLatch_none (fun k hk => by cases hk) _ _ _)
    (closeAfter_keep (fun sec hs => by cases hs; rw [hn]; exact (span_bounds l 0).1)) ?_
  rw [hn]
  refine (byteAt_index l rfl 0).trans ?_
  cases l.enc <;> rfl

/-- R101, R103: the first slot of the ID section of a visible sector. -/
theorem answers_ident {s : State} {u : UnitId} {i k : Nat} {l : Layout} (h : Streams s.dev u i l) (hk : k < l.sectors)
    (hv : (s.dev.buf i).visible l k = true) (hn : (s.dev.nextSlot u).2 = l.start k) {y : IdDecision}
    (hi : (s.dev.buf i).idDecision l k = some y) :
    Answers .readSlot s (slotDelivered (s.dev.advance (s.dev.nextSlot u).1) u l.basis
      { openSection := some (.ident k), idDecision := some y, dataDecision := none, latch := none, slotEnd := none }
      (0x00, false)) := by
  refine answers_slot h (z := { Delivery.close _ with openSection := some (.ident k), idDecision := some y })
    (hi ▸ (openAt_ident (hn ▸ sectionAt_ident hk)).trans (if_pos hv)) (takeLatch_none (fun k hk => by cases hk) _ _ _)
    (closeAfter_keep (fun sec hs => by cases hs; rw [hn]; exact (span_bounds l k).2.1)) ?_
  rw [hn]
  refine (byteAt_ident l rfl rfl 0).trans ?_
  cases l.enc <;> rfl

/-- R101, R104, R105 a: the first slot of the DATA section of a visible sector. -/
theorem answers_data {s : State} {u : UnitId} {i k : Nat} {l : Layout} (h : Streams s.dev u i l) (hk : k < l.sectors)
    (hv : (s.dev.buf i).visible l k = true) (hn : (s.dev.nextSlot u).2 = l.start k + dataSyncOffset l.enc)
    {y : DataDecision} (hy : (s.dev.buf i).dataDecision k = y) :
    Answers .readSlot s (slotDelivered (s.dev.advance (s.dev.nextSlot u).1) u l.basis
      { openSection := some (.data k), idDecision := none, dataDecision := some y, latch := none, slotEnd := none }
      (match y with
        | .present => (0x00, false)
        | .absent => fillerSlot l.enc)) := by
  obtain ⟨-, -, hlast, -, -, hmark⟩ := span_bounds l k
  refine answers_slot h (z := { Delivery.close _ with openSection := some (.data k), dataDecision := some y })
    (hy ▸ (openAt_data (hn ▸ sectionAt_data hk)).trans (if_pos hv))
    (takeLatch_elsewhere (fun j hj _ => by cases hj; rw [hn]; exact hmark) _)
    (closeAfter_keep (fun sec hs => by cases hs; rw [hn]; exact hlast)) ?_
  rw [hn]
  cases y with
  | present => exact byteAt_dataSync (o := 0) rfl rfl (by cases l.enc <;> decide)
  | absent => exact byteAt_filler (.inr ⟨k, rfl, rfl⟩) _

/-- R105 b: the data mark slot of a PRESENT field. -/
theorem answers_mark {s : State} {u : UnitId} {i k : Nat} {l : Layout} {x : Sector} (h : Streams s.dev u i l)
    (hk : k < l.sectors) (hx : (s.dev.buf i).sectorAt k = some x)
    (hs : (s.dev.delivery.get u).openSection = some (.data k)) (hd : (s.dev.delivery.get u).dataDecision = some .present)
    (hn : (s.dev.nextSlot u).2 = l.start k + (dataSyncOffset l.enc + syncLen l.enc)) :
    (x.flags.noData = true → Answers .readSlot s (slotDelivered (s.dev.advance (s.dev.nextSlot u).1) u l.basis
      { s.dev.delivery.get u with dataDecision := some .absent } (fillerSlot l.enc)))
    ∧ (x.flags.noData = false → (∀ j < 8, j ∈ s.dev.pool.lru) →
      Answers .readSlot s (slotLatched (s.dev.advance (s.dev.nextSlot u).1) u i l.basis
        { s.dev.delivery.get u with latch := some ((s.dev.buf i).latchOf l x) }
        ((latchSlots l.enc ((s.dev.buf i).latchOf l x)).getD 0 (fillerSlot l.enc)))) := by
  obtain ⟨-, -, -, hlow, hhigh, -⟩ := span_bounds l k
  have hopen : ((s.dev.delivery.get u).dropPast l (s.dev.nextSlot u).2).openAt (s.dev.buf i) l (s.dev.nextSlot u).2
      = s.dev.delivery.get u := by
    rw [dropPast_keep (fun sec hsec => by
      obtain rfl : sec = .data k := Option.some.inj (hsec.symm.trans hs)
      rw [hn]; exact ⟨hlow, Nat.le_of_lt hhigh⟩), openAt_none (hn ▸ sectionAt_mark hk)]
  have htake := takeLatch_mark (l := l) hs hd hx
  rw [← hn] at htake
  have hkeep : ∀ y : Delivery, y.openSection = some (.data k) → y.closeAfter l (s.dev.nextSlot u).2 = y := fun y hy =>
    closeAfter_keep (fun sec hsec => by
      obtain rfl : sec = .data k := Option.some.inj (hsec.symm.trans hy)
      rw [hn]; exact Nat.ne_of_lt hhigh)
  refine ⟨fun hno => ?_, fun hno hlru => ?_⟩
  · refine answers_slot h hopen (htake.trans (if_pos hno)) (hkeep _ hs) ?_
    exact byteAt_filler (x := { s.dev.delivery.get u with dataDecision := some .absent }) (.inr ⟨k, hs, rfl⟩) _
  · refine answers_latch h hopen (htake.trans (if_neg (by rw [hno]; decide))) (hkeep _ hs) ?_ hlru
    rw [hn, ← Nat.add_assoc]
    exact byteAt_latch (x := { s.dev.delivery.get u with latch := some ((s.dev.buf i).latchOf l x) }) hs hd rfl 0

/-- R83, R101: the first slot of a section of a sector that is not visible. -/
theorem answers_hidden {s : State} {u : UnitId} {i k : Nat} {l : Layout} (h : Streams s.dev u i l) (hk : k < l.sectors)
    (hv : (s.dev.buf i).visible l k = false)
    (hn : (s.dev.nextSlot u).2 = l.start k ∨ (s.dev.nextSlot u).2 = l.start k + dataSyncOffset l.enc) :
    Answers .readSlot s (slotDelivered (s.dev.advance (s.dev.nextSlot u).1) u l.basis
      { openSection := none, idDecision := none, dataDecision := none, latch := none, slotEnd := none }
      (fillerSlot l.enc)) := by
  have hopen : ((s.dev.delivery.get u).dropPast l (s.dev.nextSlot u).2).openAt (s.dev.buf i) l (s.dev.nextSlot u).2
      = (s.dev.delivery.get u).close := by
    rw [← dropPast_close (s.dev.delivery.get u) l (s.dev.nextSlot u).2]
    rcases hn with hn | hn
    · exact (openAt_ident (hn ▸ sectionAt_ident hk)).trans (if_neg (by rw [hv]; decide))
    · exact (openAt_data (hn ▸ sectionAt_data hk)).trans (if_neg (by rw [hv]; decide))
  exact answers_slot h (z := (s.dev.delivery.get u).close) hopen (takeLatch_none (fun k hk => by cases hk) _ _ _)
    (closeAfter_keep (fun sec hs => by cases hs)) (byteAt_filler (.inl rfl) _)

/-- R101, R102: a slot that is the first of no section. -/
theorem answers_within {s : State} {u : UnitId} {i : Nat} {l : Layout} (h : Streams s.dev u i l)
    (hn : sectionAt l (s.dev.nextSlot u).2 = none) :
    ((s.dev.delivery.get u).openSection = none → Answers .readSlot s
      (slotDelivered (s.dev.advance (s.dev.nextSlot u).1) u l.basis (s.dev.delivery.get u) (fillerSlot l.enc)))
    ∧ ∀ sec, (s.dev.delivery.get u).openSection = some sec →
      ((s.dev.nextSlot u).2 < (sec.span l).1 ∨ (sec.span l).2 < (s.dev.nextSlot u).2 → Answers .readSlot s
        (slotDelivered (s.dev.advance (s.dev.nextSlot u).1) u l.basis (s.dev.delivery.get u).close (fillerSlot l.enc)))
      ∧ ((sec.span l).1 ≤ (s.dev.nextSlot u).2 → (s.dev.nextSlot u).2 ≤ (sec.span l).2 →
        (∀ k, sec = .data k → (s.dev.delivery.get u).dataDecision = some .present →
          (s.dev.nextSlot u).2 ≠ l.start k + (dataSyncOffset l.enc + syncLen l.enc)) →
        Answers .readSlot s (slotDelivered (s.dev.advance (s.dev.nextSlot u).1) u l.basis
          ((s.dev.delivery.get u).closeAfter l (s.dev.nextSlot u).2)
          ((s.dev.delivery.get u).byteAt l (s.dev.nextSlot u).2))) := by
  refine ⟨fun hs => ?_, fun sec hs => ⟨fun hout => ?_, fun h1 h2 hl => ?_⟩⟩
  · have hno : ∀ sec, (s.dev.delivery.get u).openSection ≠ some sec := fun sec g => nomatch hs.symm.trans g
    refine answers_slot h (x := s.dev.delivery.get u) ?_ (takeLatch_none (fun k hk => absurd hk (hno _)) _ _ _)
      (closeAfter_keep (fun sec g => absurd g (hno sec))) (byteAt_filler (.inl hs) _)
    rw [dropPast_keep (fun sec g => absurd g (hno sec)), openAt_none hn]
  · refine answers_slot h (x := (s.dev.delivery.get u).close) ?_ (takeLatch_none (fun k hk => by cases hk) _ _ _)
      (closeAfter_keep (fun sec hs => by cases hs)) (byteAt_filler (.inl rfl) _)
    rw [dropPast_past hs hout, openAt_none hn]
  · refine answers_slot h (x := s.dev.delivery.get u) ?_ (takeLatch_elsewhere (fun k hk hd =>
      hl k (Option.some.inj (hs.symm.trans hk)) hd) _) rfl rfl
    rw [dropPast_keep (fun sec' g => by
      obtain rfl : sec' = sec := Option.some.inj (g.symm.trans hs)
      exact ⟨h1, h2⟩), openAt_none hn]

/-- The last slots of the INDEX and of a DATA section, from the lengths of what the section carries. -/
theorem span_last (l : Layout) (k : Nat) :
    (StreamSection.span l .index).2 = gap4aLen l.enc + (syncSlots l.enc ++ markSlots l.enc 0xC2 0xFC).length - 1
    ∧ (StreamSection.span l (.data k)).2 =
      l.start k + (dataSyncOffset l.enc + syncLen l.enc) + (markSlots l.enc 0xA1 0xFB).length + l.dataLen + 1 := by
  have hm : (syncSlots l.enc ++ markSlots l.enc 0xC2 0xFC).length = syncLen l.enc + markLen l.enc := by
    cases l.enc <;> rfl
  have hd : dataSyncOffset l.enc + syncLen l.enc + (markSlots l.enc 0xA1 0xFB).length = firstDataOffset l.enc := by
    cases l.enc <;> rfl
  rw [hm, Nat.add_assoc (l.start k), hd, ← Nat.add_assoc (gap4aLen l.enc)]
  exact ⟨rfl, rfl⟩

/-- A section begins before it ends. -/
theorem span_ordered (l : Layout) (sec : StreamSection) : (sec.span l).1 ≤ (sec.span l).2 := by
  cases sec with
  | index => show gap4aLen l.enc ≤ _; rw [(span_last l 0).1]; cases l.enc <;> decide
  | ident k =>
    show l.start k ≤ l.start k + idEndOffset l.enc - 1
    cases l.enc <;> simp only [idEndOffset] <;> omega
  | data k => obtain ⟨-, -, -, h1, h2, -⟩ := span_bounds l k; omega

/-- Settles O23: each slot of a synthesized track by where it lies, and the bytes of the sections. -/
theorem anIdSectionIsDelivered : Obligations.AnIdSectionIsDelivered := by
  unfold Obligations.AnIdSectionIsDelivered
  intro marked sync plain check fill indexAt dataAt latchAt delivered opened closed idLen first last
  have hmarked : marked = markSlots := by funext e a b; cases e <;> rfl
  have hsync : sync = syncSlots := by funext e; cases e <;> rfl
  have hfill : fill = fillerSlot := by funext e; cases e <;> rfl
  have hindex : indexAt = gap4aLen := by funext e; cases e <;> rfl
  have hdata : dataAt = dataSyncOffset := by funext e; cases e <;> rfl
  have hlatch : latchAt = fun e => dataSyncOffset e + syncLen e := by funext e; cases e <;> rfl
  have hid : idLen = idEndOffset := by funext e; cases e <;> rfl
  have hfirst : ∀ l sec, first l sec = (sec.span l).1 := fun l sec => by
    dsimp only [first]
    rw [hindex, hdata]
    cases sec <;> rfl
  have hlast : ∀ l sec, last l sec = (sec.span l).2 := fun l sec => by
    dsimp only [last]
    rw [hindex, hid, hlatch, hmarked, hsync]
    cases sec with
    | index => exact (span_last l 0).1.symm
    | ident k => rfl
    | data k => exact (span_last l k).2.symm
  have hsyncLen : ∀ e, (syncSlots e).length = syncLen e := fun e => by cases e <;> rfl
  refine ⟨fun s u i l hu hm hb hl => ?_, fun s u i l hu hm hb hl => ?_, fun x l o => ?_⟩
  · have h : Streams s.dev u i l := ⟨hu, hm, hb, hl⟩
    rw [hindex, hdata, hlatch, hfill, hmarked]
    refine ⟨fun hn => answers_index h hn, fun k x key hkey hk hx => ⟨fun hv => ⟨fun hn => ?_, fun hn => ⟨fun hno => ?_, fun hno => ?_⟩⟩,
      fun hs hd hn hlru => ⟨fun hno => ?_, fun hno => ?_⟩⟩⟩
    · have hi : (s.dev.buf i).idDecision l k = some
          { c := key.cyl, h := key.head, r := x.number, n := l.sizeCode, complemented := x.flags.idCrcBad } := by
        unfold TrackBuffer.idDecision
        rw [hkey, hx]
      exact answers_ident h hk hv hn hi
    · have hy : (s.dev.buf i).dataDecision k = .present := by
        unfold TrackBuffer.dataDecision
        rw [hx]
        exact if_neg (by rw [hno]; decide)
      exact answers_data h hk hv hn hy
    · have hy : (s.dev.buf i).dataDecision k = .absent := by
        unfold TrackBuffer.dataDecision
        rw [hx]
        exact if_pos hno
      exact answers_data h hk hv hn hy
    · exact (answers_mark h hk hx hs hd hn).1 hno
    · have ha := (answers_mark h hk hx hs hd hn).2 hno hlru
      intro data mark y
      have hcheck : ∀ bad, maybeComplement (dataCrc l.enc mark data) bad = check l.enc mark data bad := fun bad => by
        dsimp only [check]
        cases l.enc <;> rfl
      have hy : (s.dev.buf i).latchOf l x = y := by
        show DataLatch.mk data mark (maybeComplement (dataCrc l.enc mark data) _) = y
        rw [hcheck]
      have hhead : (latchSlots l.enc y).getD 0 (fillerSlot l.enc) = (markSlots l.enc 0xA1 mark).headD (0x00, false) := by
        cases l.enc <;> rfl
      rw [hy, hhead] at ha
      exact ha
  · have h : Streams s.dev u i l := ⟨hu, hm, hb, hl⟩
    intro n x
    rw [hindex, hdata, hlatch, hfill]
    refine ⟨fun k hk hv hn => answers_hidden h hk hv hn, fun hn hns => ?_⟩
    have hno : sectionAt l n = none := sectionAt_none hn hns
    obtain ⟨hclosed, hopen⟩ := answers_within h hno
    refine ⟨hclosed, fun sec hs => ?_⟩
    obtain ⟨hout, hin⟩ := hopen sec hs
    rw [hfirst, hlast]
    refine ⟨hout, fun hl => ?_, fun h1 h2 hl => ?_⟩
    · have hl' : (s.dev.nextSlot u).2 = (sec.span l).2 := hl
      have ha := hin (hl' ▸ span_ordered l sec) (Nat.le_of_eq hl') (fun k hk _ => by
        rw [hl', hk]
        exact Nat.ne_of_gt (span_bounds l k).2.2.2.2.1)
      rw [closeAfter_last hs hl'] at ha
      exact ha
    · have ha := hin h1 (Nat.le_of_lt h2) hl
      rw [closeAfter_keep (fun sec' g => by
        obtain rfl : sec' = sec := Option.some.inj (g.symm.trans hs)
        exact Nat.ne_of_lt h2)] at ha
      exact ha
  · rw [hindex, hdata, hfill, hmarked, hsync]
    refine ⟨fun hs => ?_, fun k i hs hi => ?_, fun k y hs hd hy => ?_, fun k hs hd ho => ?_,
      fun k hs hd => byteAt_filler (.inr ⟨k, hs, hd⟩) o, fun hs => byteAt_filler (.inl hs) o, fun b k => ?_⟩
    · intro bs ho
      rw [byteAt_index l hs]
      exact getElem?_eq_getD ho _
    · intro ids bs ho
      have hbs : idSlots l.enc i = bs := by
        dsimp only [bs, ids, check, plain]
        cases l.enc <;> rfl
      rw [byteAt_ident l hs hi, hbs]
      exact getElem?_eq_getD ho _
    · intro bs ho
      have hbs : bs = syncSlots l.enc ++ latchSlots l.enc y := List.append_assoc ..
      by_cases hlt : o < syncLen l.enc
      · rw [byteAt_dataSync hs hd hlt, hbs, List.getElem?_append_left (by rw [hsyncLen]; exact hlt)]
        unfold syncSlots plainSlots
        rw [List.getElem?_map, List.getElem?_replicate, if_pos hlt]
        rfl
      · obtain ⟨j, rfl⟩ := Nat.exists_eq_add_of_le (Nat.not_lt.mp hlt)
        have hj : j < (latchSlots l.enc y).length := by
          rw [hbs, List.length_append, hsyncLen] at ho
          omega
        rw [byteAt_latch hs hd hy j, hbs, List.getElem?_append_right (by rw [hsyncLen]; omega), hsyncLen,
          Nat.add_sub_cancel_left]
        exact getElem?_eq_getD hj _
    · exact byteAt_dataSync hs hd (by rw [← hsyncLen]; exact ho)
    · unfold TrackBuffer.visible
      cases b.completion with
      | none => simp
      | some p =>
        simp only [decide_eq_true_eq, Option.some.injEq, forall_eq']
        exact Iff.rfl

end Sys2Proof.Proofs
end

section
namespace Sys2Proof.Proofs
open Sys2Proof Sys2Proof.Machine

/-! ### The card is inserted and initialized (R135, R136, R149) -/

/-- Nothing becomes owed when the parts that decide it agree, no other sector command is in execution and no FLUSH is. -/
theorem rest_ended {d e : Device} (h1 : e.news = d.news) (h2 : e.pool = d.pool) (h3 : e.images = d.images)
    (h4 : e.windows = d.windows) (h5 : e.captures = d.captures) (h6 : e.banks.entryOwed = d.banks.entryOwed)
    (h7 : ∀ u, (e.units.get u).cylinder = (d.units.get u).cylinder
      ∧ (e.units.get u).side = (d.units.get u).side ∧ (e.units.get u).motor = (d.units.get u).motor)
    (hk : e.commandKey = d.commandKey) (hf : e.flushDone = none) (h : d.micro = none) : e.micro = none := by
  have hs := SameWork.of_engine (d := d) (e := { e with port := d.port }) h1 h2 h3 h4 h5 h6 h7 rfl h
  exact SameWork.quiet (d := d) (e := e)
    { news := hs.news, bufs := hs.bufs, lru := hs.lru, waits := hs.waits, chain := hs.chain, windows := hs.windows
      current := hs.current, owed := hs.owed, command := hk, flush := hf } h

/-- R135: what the beginning of an initialization leaves, with the requests of the set told. -/
theorem beginInit_eq (d : Device) : d.beginInit = { d with
    news := d.news ++ d.card.requests.map (fun r => { who := r.who, ok := false, data := [] })
    card := { d.card with state := .initializing, capacity := none, initTime := some 0, requests := []
                          resetWaits := false } } := by
  unfold Device.beginInit
  rw [Device.failRequests_eq]

/-- Settles O24: the initialization begins on the assertion in ABSENT; requests still in the set are told. -/
theorem anInsertedCardIsInitialized : Obligations.AnInsertedCardIsInitialized := by
  unfold Obligations.AnInsertedCardIsInitialized
  intro s d e
  refine ⟨fun ha hl => ?_, fun h => ?_⟩
  · have he : effect .cardDetectAssert s.dev = { e with
        news := e.news ++ d.card.requests.map (fun r => { who := r.who, ok := false, data := [] }) } :=
      (if_pos (And.intro ha hl)).trans (beginInit_eq d)
    refine ⟨Follows.reaches (he ▸ (follows_news e _).settles), fun hr => Follows.answers ?_ fun hq => ?_⟩
    · rw [he, show d.card.requests = [] from hr, List.map_nil, List.append_nil]
    · exact rest_engine (d := s.dev) (e := e) rfl rfl rfl rfl rfl rfl (fun _ => ⟨rfl, rfl, rfl⟩) rfl hq
  · have hn : ¬ (s.dev.card.state = .absent ∧ s.dev.lines.cardDetect = false) := fun g =>
      h.elim (absurd g.1) (fun t => absurd (g.2.symm.trans t) Bool.false_ne_true)
    exact Follows.answers (if_neg hn) fun hq =>
      rest_engine (d := s.dev) (e := d) rfl rfl rfl rfl rfl rfl (fun _ => ⟨rfl, rfl, rfl⟩) rfl hq

/-- R149: a CARD_RESET in execution ends with its class and detail, and no other command does. -/
theorem endCardReset_of_executing {d : Device} (h : d.port.engine = .executing .cardReset) (cls : TermClass)
    (detail : Detail) : d.endCardReset cls detail = { d with port := { d.port with
      engine := .result { cls := cls, detail := detail, code := 0x42, bytes := [] } } } := by
  unfold Device.endCardReset Device.finishCommand
  rw [h]
  rfl

theorem endCardReset_of_other {d : Device} (h : d.port.engine ≠ .executing .cardReset) (cls : TermClass)
    (detail : Detail) : d.endCardReset cls detail = d := by
  unfold Device.endCardReset
  split
  · next g => exact absurd g h
  · rfl

/-- The end of a CARD_RESET makes nothing owed. -/
theorem endCardReset_rest (d : Device) (cls : TermClass) (detail : Detail) (h : d.micro = none) :
    (d.endCardReset cls detail).micro = none := by
  by_cases g : d.port.engine = .executing .cardReset
  · rw [endCardReset_of_executing g]
    refine rest_ended (d := d) rfl rfl rfl rfl rfl rfl (fun _ => ⟨rfl, rfl, rfl⟩) ?_ rfl h
    unfold Device.commandKey
    rw [g]
  · rw [endCardReset_of_other g]
    exact h

/-- R135: an initialization runs just in INITIALIZING, before 1,000,000 µs. -/
theorem initRunning_iff (d : Device) : d.initRunning = true ↔ d.card.state = .initializing
    ∧ ∃ t, d.card.initTime = some t ∧ t < 1000000 := by
  unfold Device.initRunning
  rw [Bool.and_eq_true, beq_iff_eq]
  refine and_congr_right fun _ => ?_
  cases d.card.initTime with
  | none => exact ⟨nofun, nofun⟩
  | some t =>
    exact (decide_eq_true_iff (p := t < 1000000)).trans
      ⟨fun h => ⟨t, rfl, h⟩, fun ⟨_, h, g⟩ => Option.some.inj h ▸ g⟩

/-- Settles O25: an answer in time ends the initialization READY or FAILED, the time-out ends it FAILED, and neither
does anything outside of one. -/
theorem anInitializationEnds : Obligations.AnInitializationEnds := by
  unfold Obligations.AnInitializationEnds
  intro told failed
  have htold : told = Device.endCardReset := by
    funext d cls detail
    dsimp only [told]
    split
    · next h => exact (endCardReset_of_executing h cls detail).symm
    · next h => exact (endCardReset_of_other h cls detail).symm
  have hfailed : failed = Device.initFailed := by
    dsimp only [failed]
    rw [htold]
    rfl
  rw [hfailed, htold]
  refine ⟨fun s t n hs ht hlt => ?_, fun s t n hs ht hge => ?_, fun s t hs ht => ?_, fun s n h => ?_⟩
  · have hrun := (initRunning_iff s.dev).mpr ⟨hs, t, ht, hlt⟩
    have he : effect (.cardInitAnswer n) s.dev
        = if n.toNat = 0 then s.dev.initFailed else s.dev.cardReady n.toNat := if_pos hrun
    refine ⟨fun hn => Follows.answers (he.trans (if_neg fun h0 => hn (BitVec.eq_of_toNat_eq h0))) fun hq => ?_,
      fun hn => Follows.leads (he.trans (if_pos (hn ▸ rfl)))⟩
    exact endCardReset_rest _ _ _ (rest_engine (d := s.dev) rfl rfl rfl rfl rfl rfl (fun _ => ⟨rfl, rfl, rfl⟩) rfl hq)
  · have hrun : ¬ s.dev.initRunning = true := fun h => by
      obtain ⟨-, u, hu, hlt⟩ := (initRunning_iff s.dev).mp h
      exact absurd (Option.some.inj (ht.symm.trans hu) ▸ hlt) (Nat.not_lt.mpr hge)
    exact Follows.answers (if_neg hrun) id
  · refine Follows.leads ?_
    show s.dev.onInitTimeout = _
    unfold Device.onInitTimeout
    rw [hs, ht]
    rfl
  · have hrun : ¬ s.dev.initRunning = true := fun g => by
      obtain ⟨hs, u, hu, -⟩ := (initRunning_iff s.dev).mp g
      exact h.elim (absurd hs) (fun k => nomatch hu.symm.trans k)
    refine ⟨Follows.answers (if_neg hrun) id, Follows.answers ?_ id⟩
    show s.dev.onInitTimeout = _
    unfold Device.onInitTimeout
    split
    · next hs ht => exact h.elim (absurd hs) (fun k => nomatch ht.symm.trans k)
    · rfl

end Sys2Proof.Proofs
end

section
namespace Sys2Proof.Proofs
open Sys2Proof Sys2Proof.Machine

/-! ### Buffers become FREE (R73) -/

/-- A buffer read after one of the list was set; one beyond the list reads FREE and stays so. -/
theorem setFree_buf (d : Device) (i j : Nat) :
    (d.freeBuf i).buf j = if j = i then TrackBuffer.free else d.buf j := by
  show (d.pool.buffers.set i TrackBuffer.free).getD j TrackBuffer.free = _
  rw [List.getD_eq_getElem?_getD, List.getElem?_set]
  by_cases h : i = j
  · rw [if_pos h, if_pos h.symm]
    split <;> rfl
  · rw [if_neg h, if_neg (Ne.symm h)]
    rfl

/-- R73: what the freeing of buffers leaves: those are FREE and out of the queue, and only the pool changes. -/
theorem foldl_freeBuf_spec : ∀ (l : List Nat) (d : Device), ∃ p : Pool, l.foldl Device.freeBuf d = { d with pool := p }
    ∧ p.waits = d.pool.waits ∧ (∀ j, p.buf j = if j ∈ l then TrackBuffer.free else d.buf j)
    ∧ ∀ j, j ∈ p.queue ↔ j ∈ d.pool.queue ∧ j ∉ l
  | [], d => ⟨d.pool, rfl, rfl, fun _ => rfl, fun _ => ⟨fun h => ⟨h, nofun⟩, fun h => h.1⟩⟩
  | i :: l, d => by
    obtain ⟨p, he, hw, hb, hq⟩ := foldl_freeBuf_spec l (d.freeBuf i)
    refine ⟨p, he, hw, fun j => ?_, fun j => ?_⟩
    · rw [hb j, setFree_buf]
      by_cases hl : j ∈ l
      · rw [if_pos hl, if_pos (List.mem_cons_of_mem i hl)]
      · rw [if_neg hl]
        by_cases hi : j = i
        · rw [if_pos hi, if_pos (hi ▸ List.mem_cons_self)]
        · rw [if_neg hi, if_neg (fun h => (List.mem_cons.mp h).elim hi hl)]
    · have : j ∈ (d.freeBuf i).pool.queue ↔ j ∈ d.pool.queue ∧ j ≠ i := by
        show j ∈ d.pool.queue.filter (fun x => x != i) ↔ _
        rw [List.mem_filter, bne_iff_ne]
      rw [hq j, this, and_assoc, List.mem_cons, not_or]

/-- R73, R96: the buffers of a list that are not FREE become FREE and leave the queue. -/
theorem freeAll_spec (d : Device) (is : List Nat) : ∃ (n : Nat) (p : Pool),
    d.freeAll is = { d with freeCount := n, pool := p } ∧ p.waits = d.pool.waits
    ∧ (∀ j, p.buf j = if j ∈ is ∧ (d.buf j).state ≠ .free then TrackBuffer.free else d.buf j)
    ∧ ∀ j, j ∈ p.queue ↔ j ∈ d.pool.queue ∧ ¬ (j ∈ is ∧ (d.buf j).state ≠ .free) := by
  let held := is.filter (fun i => (d.buf i).state != .free)
  have hheld : ∀ j, j ∈ held ↔ j ∈ is ∧ (d.buf j).state ≠ .free := fun j => by
    rw [List.mem_filter, bne_iff_ne]
  have hperm := Device.shuffle_perm held.length d held (Nat.le_refl _)
  obtain ⟨n, hn⟩ := Device.shuffle_count held.length d held
  obtain ⟨p, he, hw, hb, hq⟩ := foldl_freeBuf_spec (d.shuffle held.length held).1 (d.shuffle held.length held).2
  have hmem : ∀ j, j ∈ (d.shuffle held.length held).1 ↔ j ∈ is ∧ (d.buf j).state ≠ .free := fun j =>
    hperm.mem_iff.trans (hheld j)
  refine ⟨n, p, ?_, ?_, fun j => ?_, fun j => ?_⟩
  · rw [show d.freeAll is = (d.shuffle held.length held).1.foldl Device.freeBuf (d.shuffle held.length held).2 from rfl, he,
      hn]
  · rw [hw, hn]
  · rw [hb j, hn]
    exact if_congr (hmem j) rfl rfl
  · rw [hq j, hn, hmem j]

/-! ### The part without a card (R96, R146, R147, R162) -/

/-- R96, R146, R147: what a part has whose card was taken: no image, no capture, no buffer in use, nothing asked for and
no command in execution. -/
structure Emptied (d : Device) : Prop where
  card : d.card = CardRecord.reset
  images : d.images = ⟨none, none⟩
  captures : d.captures = ⟨none, none⟩
  bufs : ∀ i < 8, (d.buf i).state = .free
  queue : d.pool.queue = []
  waits : d.pool.waits = []
  idle : d.port.engine.busy = false

theorem Emptied.noImage {d : Device} (h : Emptied d) (u : UnitId) : d.images.get u = none := by
  rw [h.images]
  cases u <;> rfl

theorem Emptied.noCapture {d : Device} (h : Emptied d) (u : UnitId) : d.captures.get u = none := by
  rw [h.captures]
  cases u <;> rfl

/-- What changes neither the parts of `Emptied` nor a buffer's state keeps it. -/
theorem Emptied.of_same {d e : Device} (h : Emptied d) (hc : e.card = d.card) (hi : e.images = d.images)
    (hk : e.captures = d.captures) (hb : ∀ i, (e.buf i).state = (d.buf i).state) (hq : e.pool.queue = d.pool.queue)
    (hw : e.pool.waits = d.pool.waits) (hp : e.port = d.port) : Emptied e :=
  ⟨hc.trans h.card, hi.trans h.images, hk.trans h.captures, fun i hlt => (hb i).trans (h.bufs i hlt), hq.trans h.queue,
    hw.trans h.waits, (congrArg (fun p => p.engine.busy) hp).trans h.idle⟩

theorem Emptied.setWork {d : Device} (h : Emptied d) (i : Nat) (w : Work) : Emptied (d.setWork i w) := by
  refine h.of_same rfl rfl rfl (fun j => ?_) rfl rfl rfl
  show ((d.pool.buffers.set i { d.buf i with work := some w }).getD j TrackBuffer.free).state = (d.buf j).state
  rw [List.getD_eq_getElem?_getD, List.getElem?_set]
  split
  · next hij =>
    subst hij
    split
    · rfl
    · next hlt =>
      unfold Device.buf
      rw [List.getD_eq_getElem?_getD, List.getElem?_eq_none (Nat.not_lt.mp hlt)]
  · rfl

/-- With no card READY a request is answered by its failure alone. -/
theorem request_not_ready {d : Device} (h : d.card.state ≠ .ready) (r : Request) : d.request r = d.tell r.who false [] :=
  if_neg (fun g => h (beq_iff_eq.mp g))

theorem Emptied.request {d : Device} (h : Emptied d) (r : Request) : Emptied (d.request r) := by
  rw [request_not_ready (by rw [h.card]; decide)]
  exact h.of_same rfl rfl rfl (fun _ => rfl) rfl rfl rfl

theorem Emptied.modWindow {d : Device} (h : Emptied d) (u : UnitId) (f : ExtentWindow → ExtentWindow) :
    Emptied (d.modWindow u f) := h.of_same rfl rfl rfl (fun _ => rfl) rfl rfl rfl

/-- Without an image no work of a buffer goes on, fails or ends. -/
theorem Emptied.loseBlocks {d : Device} (h : Emptied d) (i n : Nat) : d.loseBlocks i n = d := by
  unfold Device.loseBlocks
  dsimp only
  split
  · rw [h.noImage]
  · rfl

theorem Emptied.endFlush {d : Device} (h : Emptied d) (i : Nat) : d.endFlush i = d := by
  unfold Device.endFlush
  dsimp only
  split
  · rw [h.noImage]
  · rfl

theorem Emptied.failLookup {d : Device} (h : Emptied d) (u : UnitId) (c : Cause) (b : Option Nat) :
    Emptied (d.failLookup u c b) := by
  unfold Device.failLookup
  split
  · exact h
  · next l rest _ =>
    dsimp only
    have h1 : Emptied ((d.report
      { cls := .uncorrected, cause := c, op := d.workOp l.buffer, unit := some u, track := d.lookupLoc l.buffer
        block := b }).modWindow u (fun w => { w with lookups := rest })) :=
      h.of_same rfl rfl rfl (fun _ => rfl) rfl rfl rfl
    rw [h1.loseBlocks]
    exact h1

theorem Emptied.lookupAnswered {d : Device} (h : Emptied d) (i a n : Nat) : Emptied (d.lookupAnswered i a n) := by
  unfold Device.lookupAnswered
  split
  · split
    · split
      · exact (h.setWork i _).request _
      · exact (h.setWork i _).request _
    · exact h
  · exact h

theorem Emptied.serveLookup {d e : Device} (h : Emptied d) (u : UnitId) (he : d.serveLookup u = some e) : Emptied e := by
  unfold Device.serveLookup at he
  dsimp only at he
  split at he
  · exact nomatch he
  split at he
  · exact nomatch he
  split at he
  · split at he
    · exact Option.some.inj he ▸ (h.modWindow u _).lookupAnswered _ _ _
    · exact nomatch he
  · split at he
    · exact Option.some.inj he ▸ (h.modWindow u _).failLookup _ _ _
    · exact Option.some.inj he ▸ (h.modWindow u _).request _
  · exact Option.some.inj he ▸ (h.modWindow u _).failLookup _ _ _
  · exact nomatch he

theorem Emptied.deliver {d : Device} (h : Emptied d) (n : RunNews) : Emptied (d.deliver n) := by
  unfold Device.deliver
  split
  · unfold Device.windowNews
    dsimp only
    split
    · exact h
    split
    · exact h.modWindow _ _
    · exact (h.modWindow _ _).failLookup _ _ _
  · next i _ =>
    have hrun : d.runSucceeded i n.data = d := by
      unfold Device.runSucceeded
      dsimp only
      split
      · rw [h.noImage]
      · rfl
    have hfail : d.runFailed i = d := by
      unfold Device.runFailed
      split
      · split <;> first | exact h.loseBlocks _ _ | rfl
      · rfl
    rw [hrun, hfail, ite_self]
    exact h
  · unfold Device.headerNews
    rw [h.noImage]
    exact h
  · have hi := h.idle
    unfold Device.engineNews
    revert hi
    cases d.port.engine with
    | executing c => exact nofun
    | idle => exact fun _ => h
    | result r => exact fun _ => h

theorem Emptied.noCommand {d : Device} (h : Emptied d) : d.commandKey = none := by
  have hi := h.idle
  unfold Device.commandKey
  revert hi
  cases d.port.engine with
  | executing c => exact nofun
  | idle => exact fun _ => rfl
  | result r => exact fun _ => rfl

/-- R187: without captures and without a command the entry to OFFLINE closes the sections alone. -/
theorem Emptied.enterOffline {d : Device} (h : Emptied d) : d.enterOffline
    = ((Device.closeSection { d with banks := { d.banks with entryOwed := false } } .u0).closeSection .u1) := by
  have hc : ∀ u, Device.captureEnd { d with banks := { d.banks with entryOwed := false } } u
      = { d with banks := { d.banks with entryOwed := false } } := fun u =>
    captureEnd_none fun c hk => nomatch hk.symm.trans (h.noCapture u)
  have hd : ∀ e : Device, e.commandKey = none → e.displaceSectors .offline (fun _ => true) = e := fun e he => by
    unfold Device.displaceSectors
    rw [he]
  unfold Device.enterOffline
  dsimp only
  rw [hc .u0, hc .u1]
  exact hd _ h.noCommand

theorem Emptied.workOn {d : Device} (h : Emptied d) {i : Nat} (hi : i < 8) : Emptied (d.workOn i) := by
  unfold Device.workOn
  split
  · split
    · unfold Device.askLookup
      exact (h.setWork i _).modWindow _ _
    · rw [h.bufs i hi, if_neg (by decide), h.endFlush]
      exact h
  · exact h

/-- Nothing that follows the removal of a card fills the part again. -/
theorem Emptied.micro {d e : Device} (h : Emptied d) (he : d.micro = some e) : Emptied e := by
  unfold Device.micro at he
  split at he
  · rw [← Option.some.inj he, h.enterOffline]
    exact h.of_same rfl rfl rfl (fun _ => rfl) rfl rfl rfl
  split at he
  · next n rest _ =>
    have h1 : Emptied { d with news := rest } := h.of_same rfl rfl rfl (fun _ => rfl) rfl rfl rfl
    exact Option.some.inj he ▸ h1.deliver n
  split at he
  · next i hi => exact Option.some.inj he ▸ h.workOn (List.mem_range.mp (List.mem_of_find?_eq_some hi))
  rcases orElse_cases he with g | he
  · exact h.serveLookup _ g
  rcases orElse_cases he with g | he
  · exact h.serveLookup _ g
  rcases orElse_cases he with g | he
  · unfold Device.dropStaleWaits at g
    rw [h.waits] at g
    exact nomatch g
  rcases orElse_cases he with g | he
  · unfold Device.serveWait Device.firstWait at g
    rw [h.waits] at g
    exact nomatch g
  · have hi := h.idle
    unfold Device.flushDone at he
    split at he
    · next hx =>
      rw [hx] at hi
      exact nomatch hi
    · exact nomatch he

theorem Emptied.settle : ∀ (n : Nat) {d : Device}, Emptied d → Emptied (settle n d)
  | 0, _, h => h
  | n + 1, d, h => by
    unfold Machine.settle
    split
    · next he => exact Emptied.settle n (h.micro he)
    · exact h

/-- What follows in a part that has one effect owed, and none after it. -/
theorem settled_of_one {d e : Device} (h : d.micro = some e) (he : e.micro = none) : d.settled = e := by
  show settle (4095 + 1) d = e
  unfold Machine.settle
  rw [h]
  show settle (4094 + 1) e = e
  unfold Machine.settle
  rw [he]

/-- With no news, no work and no lookup left nothing is owed but the entry to OFFLINE. -/
theorem Emptied.quiet {d : Device} (h : Emptied d) (hn : d.news = []) (hw : ∀ i < 8, (d.buf i).work = none)
    (hl : ∀ u, (d.windows.get u).lookups = []) (ho : d.banks.entryOwed = false) : d.micro = none := by
  have hlook : ∀ u, d.serveLookup u = none := fun u => by
    unfold Device.serveLookup
    dsimp only
    rw [hl u]
  rw [micro_none_iff]
  refine ⟨hn, List.find?_eq_none.mpr fun i hi => ?_, hlook _, hlook _, ?_, ?_, ho, ?_⟩
  · unfold Device.workIdle
    rw [hw i (List.mem_range.mp hi)]
    exact Bool.false_ne_true
  · unfold Device.dropStaleWaits
    rw [h.waits]
    rfl
  · unfold Device.serveWait Device.firstWait
    rw [h.waits]
    rfl
  · have hi := h.idle
    rw [flushDone_none]
    intro sel hs
    rw [hs] at hi
    exact nomatch hi

/-- What follows a removal that leaves no work: the entry to OFFLINE, when it is owed. -/
theorem Emptied.settled_quiet {d : Device} (h : Emptied d) (hn : d.news = []) (hw : ∀ i < 8, (d.buf i).work = none)
    (hl : ∀ u, (d.windows.get u).lookups = []) :
    d.settled.windows = d.windows ∧ d.settled.banks = { d.banks with entryOwed := false } := by
  cases ho : d.banks.entryOwed with
  | false =>
    rw [settled_of_quiet d (h.quiet hn hw hl ho), ← ho]
    exact ⟨rfl, rfl⟩
  | true =>
    have hm : d.micro = some d.enterOffline := by
      unfold Device.micro
      exact if_pos ho
    have he : Emptied d.enterOffline := h.micro hm
    have hq : d.enterOffline.micro = none := by
      rw [h.enterOffline] at he ⊢
      exact he.quiet hn hw hl rfl
    rw [settled_of_one hm hq, h.enterOffline]
    exact ⟨rfl, rfl⟩

/-! ### The removal (R146 to R148) -/

/-- R147 d: a unit's record at the loss of its card. -/
def lostRecord (d : Device) (u : UnitId) : UnitRecord :=
  { d.units.get u with
    latch := (d.units.get u).latch || d.mounted u, protect := (d.units.get u).protect && !d.mounted u
    lost := (d.units.get u).lost || (d.mounted u || (d.seq.pending.get u).isSome) }

/-- R96, R146, R147, R162: the part as the removal leaves it, ahead of the end of its command and its report. -/
def gutted (d : Device) (n : Nat) (p : Pool) (x : PerUnit Delivery) : Device :=
  { d with
    units := ⟨lostRecord d .u0, lostRecord d .u1⟩, card := CardRecord.reset, news := [], freeCount := n, pool := p
    images := ⟨none, none⟩, windows := ⟨ExtentWindow.empty ⟨0, 0, 0⟩, ExtentWindow.empty ⟨0, 0, 0⟩⟩
    captures := ⟨none, none⟩, seq := d.seq.lose, delivery := x }

theorem finishSlot_delivery (b d : Device) (u : UnitId) : ∃ x, Device.finishSlot b d u = { d with delivery := x } := by
  rcases Device.finishSlot_eq b d u with h | ⟨t, h⟩
  · exact ⟨d.delivery, h⟩
  · exact ⟨_, h⟩

theorem sectionsEnd_delivery (b d : Device) : ∃ x,
    Device.finishSlot b ((Device.finishSlot b (d.closeSection .u0) .u0).closeSection .u1) .u1 = { d with delivery := x } := by
  obtain ⟨x, hx⟩ := finishSlot_delivery b (d.closeSection .u0) .u0
  obtain ⟨y, hy⟩ := finishSlot_delivery b (Device.closeSection { d.closeSection .u0 with delivery := x } .u1) .u1
  exact ⟨y, by rw [hx, hy]; rfl⟩

theorem removal_eq (d : Device) : ∃ n p x, d.removal = ((gutted d n p x).endCommandAbsent).reportRemoval d
    ∧ p.queue = [] ∧ p.waits = []
    ∧ ∀ i < 8, p.buf i = if (d.buf i).state ≠ .free then TrackBuffer.free else d.buf i := by
  obtain ⟨n, q, he, -, hb, -⟩ := freeAll_spec (((d.loseUnit .u0).loseUnit .u1).emptyCard) bufferIds
  have hg : { (((d.loseUnit .u0).loseUnit .u1).emptyCard.emptyPool.emptyImages) with
      captures := ⟨none, none⟩
      seq := Sequencer.lose (((d.loseUnit .u0).loseUnit .u1).emptyCard.emptyPool.emptyImages).seq } = gutted d n { q with queue := [], waits := [] } d.delivery := by
    unfold Device.emptyPool
    rw [he]
    rfl
  obtain ⟨x, hx⟩ := sectionsEnd_delivery d (gutted d n { q with queue := [], waits := [] } d.delivery)
  refine ⟨n, { q with queue := [], waits := [] }, x, ?_, rfl, rfl, fun i hi => (hb i).trans ?_⟩
  · exact congrArg (fun e : Device => e.endCommandAbsent.reportRemoval d) ((congrArg (fun e : Device => Device.finishSlot d
      ((Device.finishSlot d (e.closeSection .u0) .u0).closeSection .u1) .u1) hg).trans hx)
  · exact if_congr (and_iff_right (List.mem_range.mpr hi)) rfl rfl

/-- R147 f, R57 b: the class with which a command that waits on the card ends at its removal. -/
def absentClass : Command → TermClass
  | .mount _ | .readBlocks _ _ | .writeBlocks _ _ | .cardReset => .failed
  | .sectors _ | .flush _ => .displaced

theorem endCommandAbsent_executing {d : Device} {c : Command} (h : d.port.engine = .executing c) :
    d.endCommandAbsent = { d with port := { d.port with
      engine := .result ⟨absentClass c, .cardAbsent, c.code, []⟩ } } := by
  unfold Device.endCommandAbsent Device.finishCommand
  rw [h]
  cases c <;> rfl

theorem endCommandAbsent_idle {d : Device} (h : d.port.engine.busy = false) : d.endCommandAbsent = d := by
  unfold Device.endCommandAbsent
  revert h
  cases d.port.engine with
  | executing c => exact nofun
  | idle => exact fun _ => rfl
  | result r => exact fun _ => rfl

/-- R147 f: the removal ends any command in execution, and only the Loader Port changes with it. -/
theorem endCommandAbsent_eq (d : Device) : ∃ p : LoaderPort, p.engine.busy = false ∧ d.endCommandAbsent = { d with port := p } := by
  cases h : d.port.engine with
  | executing c => exact ⟨_, rfl, endCommandAbsent_executing h⟩
  | idle =>
    have hi : d.port.engine.busy = false := by rw [h]; rfl
    exact ⟨d.port, hi, endCommandAbsent_idle hi⟩
  | result r =>
    have hi : d.port.engine.busy = false := by rw [h]; rfl
    exact ⟨d.port, hi, endCommandAbsent_idle hi⟩

/-- R148: what the report of a removal changes. -/
theorem reportRemoval_eq (d b : Device) : ∃ k : FaultBanks, d.reportRemoval b = { d with banks := k }
    ∧ (b.carries .u0 = false → b.carries .u1 = false → k = d.banks)
    ∧ (b.carries .u0 = true ∨ b.carries .u1 = true → k = (d.report
      { cls := .uncorrected, cause := .cardRemoved, op := .flush, unit := b.removedUnit, track := none, block := none }).banks) := by
  unfold Device.reportRemoval
  by_cases h : (b.carries .u0 || b.carries .u1) = true
  · rw [if_pos h]
    refine ⟨_, rfl, fun h0 h1 => ?_, fun _ => rfl⟩
    rw [h0, h1] at h
    exact nomatch h
  · rw [if_neg h]
    exact ⟨d.banks, rfl, fun _ _ => rfl, fun g => absurd (Bool.or_eq_true_iff.mpr g) h⟩

/-- R148: the unit that the report names, by the buffers that were not saved. -/
theorem removedUnit_iff (d : Device) : ∀ u : UnitId,
    (d.unsavedCount u ≠ 0 → d.unsavedCount u.other = 0 → d.removedUnit = some u)
    ∧ ((d.unsavedCount u = 0 ↔ d.unsavedCount u.other = 0) → d.removedUnit = none) := by
  have hb : ∀ n : Nat, (n != 0) = true ↔ n ≠ 0 := fun n => bne_iff_ne
  unfold Device.removedUnit
  simp only [hb]
  intro u
  cases u with
  | u0 =>
    refine ⟨fun h g => (if_pos h).trans (if_neg (not_not.mpr g)), fun h => ?_⟩
    by_cases h0 : d.unsavedCount .u0 = 0
    · have h1 : d.unsavedCount .u1 = 0 := h.mp h0
      rw [if_neg (not_not.mpr h0), if_neg (not_not.mpr h1)]
    · rw [if_pos h0, if_pos (fun g : d.unsavedCount .u1 = 0 => h0 (h.mpr g))]
  | u1 =>
    refine ⟨fun h g => (if_neg (not_not.mpr g)).trans (if_pos h), fun h => ?_⟩
    by_cases h0 : d.unsavedCount .u0 = 0
    · have h1 : d.unsavedCount .u1 = 0 := h.mpr h0
      rw [if_neg (not_not.mpr h0), if_neg (not_not.mpr h1)]
    · rw [if_pos h0, if_pos (fun g : d.unsavedCount .u1 = 0 => h0 (h.mp g))]

/-- The part after a removal, with its port and its banks, is one with no card. -/
theorem emptied_removed (d : Device) (n : Nat) (p : Pool) (x : PerUnit Delivery) (o : LoaderPort) (k : FaultBanks)
    (hq : p.queue = []) (hw : p.waits = []) (ho : o.engine.busy = false)
    (hb : ∀ i < 8, p.buf i = if (d.buf i).state ≠ .free then TrackBuffer.free else d.buf i) :
    Emptied { gutted d n p x with port := o, banks := k } where
  card := rfl
  images := rfl
  captures := rfl
  bufs i hi := by
    show (p.buf i).state = .free
    rw [hb i hi]
    split
    · rfl
    · next h => exact not_not.mp h
  queue := hq
  waits := hw
  idle := ho

/-- A part with no change pending is left alone by the test of R159. -/
theorem tested_of_nothing_pending {d : Device} (h : d.seq.pending = ⟨none, none⟩) : d.tested = d :=
  tested_eq d fun u => .inr (.inl (by rw [h]; cases u <;> rfl))

/-- R146 to R148: the part after a removal, with all that follows it. -/
theorem removal_settled (d : Device) : ∃ n p x o k,
    ({ gutted d n p x with port := o, banks := k } : Device) = d.removal
    ∧ o = (gutted d n p x).endCommandAbsent.port
    ∧ Emptied d.removal ∧ Emptied d.removal.settled ∧ d.removal.settled.tested = d.removal.settled
    ∧ (d.carries .u0 = false → d.carries .u1 = false → k = d.banks)
    ∧ (d.carries .u0 = true ∨ d.carries .u1 = true → k = (d.report
      { cls := .uncorrected, cause := .cardRemoved, op := .flush, unit := d.removedUnit, track := none, block := none }).banks)
    ∧ ∀ i < 8, d.removal.buf i = if (d.buf i).state ≠ .free then TrackBuffer.free else d.buf i := by
  obtain ⟨n, p, x, he, hq, hw, hb⟩ := removal_eq d
  obtain ⟨o, ho, hp⟩ := endCommandAbsent_eq (gutted d n p x)
  obtain ⟨k, hk, hk0, hk1⟩ := reportRemoval_eq (gutted d n p x).endCommandAbsent d
  have hr : ({ gutted d n p x with port := o, banks := k } : Device) = d.removal := by
    rw [he, hk, hp]
  have hem : Emptied d.removal := hr ▸ emptied_removed d n p x o k hq hw ho hb
  have hs := Emptied.settle 4096 hem
  refine ⟨n, p, x, o, k, hr, by rw [hp], hem, hs, ?_, fun h0 h1 => (hk0 h0 h1).trans (by rw [hp]; rfl), fun h => (hk1 h).trans
    (by rw [hp]; rfl), fun i hi => hr ▸ hb i hi⟩
  refine tested_of_nothing_pending ?_
  rw [((follows_settled d.removal).settles.idle hem.idle).2, ← hr]
  rfl

/-- A unit has unsaved buffers just when their count is not 0. -/
theorem unsavedCount_ne_zero_iff (d : Device) (u : UnitId) : (∃ i < 8, d.ownedBy i u = true
    ∧ ((d.buf i).state = .dirty ∨ (d.buf i).state = .flushing)) ↔ d.unsavedCount u ≠ 0 := by
  rw [unsavedCount_eq, Ne, List.length_eq_zero_iff, List.filter_eq_nil_iff]
  simp only [List.mem_range, Bool.and_eq_true, Bool.or_eq_true, beq_iff_eq]
  push Not
  exact Iff.rfl

/-- R147, R148: a unit carried something. -/
theorem carries_iff (d : Device) : (∃ u, d.mounted u = true ∨ d.seq.pending.get u ≠ none)
    ↔ d.carries .u0 = true ∨ d.carries .u1 = true := by
  have h : ∀ u, d.carries u = true ↔ d.mounted u = true ∨ d.seq.pending.get u ≠ none := fun u => by
    unfold Device.carries
    rw [Bool.or_eq_true, Option.isSome_iff_ne_none]
  rw [h, h]
  exact ⟨fun ⟨u, hu⟩ => by cases u <;> [exact .inl hu; exact .inr hu], fun g => g.elim (⟨.u0, ·⟩) (⟨.u1, ·⟩)⟩

/-- Settles O26: the removal event empties the part, and nothing that follows fills it again. -/
theorem aRemovedCardTakesEverything : Obligations.ARemovedCardTakesEverything := by
  unfold Obligations.ARemovedCardTakesEverything
  refine ⟨fun s h => Follows.answers (if_pos h) fun hq =>
    rest_engine (d := s.dev) rfl rfl rfl rfl rfl rfl (fun _ => ⟨rfl, rfl, rfl⟩) rfl hq, fun s h => ?_⟩
  have hexec : exec .cardDetectRelease s = .next { s with dev :=
      (Device.removal { s.dev with lines := { s.dev.lines with cardDetect := false } }).settled.tested } := by
    rw [exec_eq]
    exact congrArg (fun e : Device => Host.Outcome.next { s with dev := e.settled.tested }) (if_neg h)
  obtain ⟨n, p, x, o, k, hr, ho, hem, hes, ht, hk0, hk1, hb⟩ :=
    removal_settled { s.dev with lines := { s.dev.lines with cardDetect := false } }
  generalize hR : Device.removal { s.dev with lines := { s.dev.lines with cardDetect := false } } = R at *
  have hf := (follows_settled R).settles
  obtain ⟨hport, hseq⟩ := hf.idle hem.idle
  refine ⟨_, hexec, rfl, ?_⟩
  rw [ht]
  refine ⟨hf.now.trans (by rw [← hr]; rfl), hf.lines.trans (by rw [← hr]; rfl), hes.card, hes.images, hes.captures, hes.bufs,
    hes.queue, hes.waits, by rw [hseq, ← hr]; rfl, by rw [hseq, ← hr]; rfl, fun u => ?_, fun hfree => ?_, ?_⟩
  · rw [hf.units, ← hr]
    cases u <;> rfl
  · intro carried unsaved reported
    have hwork : ∀ i < 8, (R.buf i).work = none := fun i hi => by
      rw [hb i hi]
      split
      · rfl
      · next hs => exact hfree i hi (not_not.mp hs)
    have hlook : ∀ u, (R.windows.get u).lookups = [] := fun u => by
      rw [← hr]
      cases u <;> rfl
    obtain ⟨hwin, hbank⟩ := hem.settled_quiet (by rw [← hr]; rfl) hwork hlook
    have hun : ∀ u, unsaved u ↔ s.dev.unsavedCount u ≠ 0 := unsavedCount_ne_zero_iff s.dev
    have hcarried : carried ↔ s.dev.carries .u0 = true ∨ s.dev.carries .u1 = true := carries_iff s.dev
    have hbanks : R.settled.banks = { k with entryOwed := false } := by rw [hbank, ← hr]
    refine ⟨by rw [hwin, ← hr]; rfl, fun hn => ?_, fun hc => ⟨fun u hu hv => ?_, fun hu => ?_⟩⟩
    · obtain ⟨h0, h1⟩ := not_or.mp (mt hcarried.mpr hn)
      rw [hbanks, hk0 (Bool.eq_false_iff.mpr h0) (Bool.eq_false_iff.mpr h1)]
    · have hv0 : s.dev.unsavedCount u.other = 0 := not_not.mp (mt (hun _).mpr hv)
      have hu' : s.dev.removedUnit = some u := (removedUnit_iff s.dev u).1 ((hun u).mp hu) hv0
      refine hbanks.trans ?_
      rw [hk1 (hcarried.mp hc), ← hu']
      rfl
    · have hu' : s.dev.removedUnit = none := (removedUnit_iff s.dev .u0).2
        (not_iff_not.mp (((hun .u0).symm.trans (hu .u0)).trans (hun .u1)))
      refine hbanks.trans ?_
      rw [hk1 (hcarried.mp hc), ← hu']
      rfl
  · rw [hport, ← hr]
    have hg : ∀ e : Engine, s.dev.port.engine = e → s.dev.port = { s.dev.port with engine := e } := fun e he => by
      rw [← he]
    refine ho.trans ?_
    generalize hG : gutted { s.dev with lines := { s.dev.lines with cardDetect := false } } n p x = G
    have hGp : G.port = s.dev.port := hG ▸ rfl
    rw [← hGp] at hg ⊢
    cases he : G.port.engine with
    | executing c =>
      refine (congrArg Device.port (endCommandAbsent_executing (c := c) he)).trans ?_
      cases c <;> rfl
    | idle => exact (congrArg Device.port (endCommandAbsent_idle (congrArg Engine.busy he))).trans (hg _ he)
    | result r => exact (congrArg Device.port (endCommandAbsent_idle (congrArg Engine.busy he))).trans (hg _ he)

end Sys2Proof.Proofs
end

section
namespace Sys2Proof.Proofs
open Sys2Proof Sys2Proof.Machine

/-! ### The choice of a grant (R138, R139) -/

/-- The earliest time of a list with a request is the time of one of them, and no other is earlier. -/
theorem earliest_spec : ∀ (r : Request) (rs : List Request), (∃ q ∈ r :: rs, q.time = earliest (r :: rs))
    ∧ ∀ q ∈ r :: rs, earliest (r :: rs) ≤ q.time
  | r, [] => ⟨⟨r, List.mem_cons_self, rfl⟩, fun _ h => Nat.le_of_eq (congrArg Request.time (List.mem_singleton.mp h)).symm⟩
  | r, s :: ss => by
    obtain ⟨⟨q, hq, he⟩, hle⟩ := earliest_spec s ss
    show (∃ q ∈ r :: s :: ss, q.time = min r.time (earliest (s :: ss))) ∧ _
    refine ⟨?_, fun p hp => ?_⟩
    · rcases Nat.le_total r.time (earliest (s :: ss)) with h | h
      · exact ⟨r, List.mem_cons_self, (Nat.min_eq_left h).symm⟩
      · exact ⟨q, List.mem_cons_of_mem _ hq, he.trans (Nat.min_eq_right h).symm⟩
    · rcases List.mem_cons.mp hp with h | h
      · exact h ▸ Nat.min_le_left _ _
      · exact (Nat.min_le_right _ _).trans (hle p h)

/-- A request is of a class just when it is in that class's list. -/
theorem mem_ofClass (d : Device) (cls : ArbClass) (q : Request) :
    q ∈ d.ofClass cls ↔ q ∈ d.card.requests ∧ d.requestClass q = cls := by
  unfold Device.ofClass
  rw [List.mem_filter, beq_iff_eq]

theorem waitsD_iff (d : Device) : d.waitsD = true ↔ ∃ q ∈ d.card.requests, d.requestClass q = .d := by
  unfold Device.waitsD
  simp only [List.any_eq_true, beq_iff_eq]

/-- R138: of a class that holds a request an oldest one is chosen. -/
theorem oldest_some {d : Device} {cls : ArbClass} (h : ∃ q ∈ d.card.requests, d.requestClass q = cls) :
    ∃ r n, d.oldest cls = (some r, { d with freeCount := n }) ∧ r ∈ d.card.requests ∧ d.requestClass r = cls
      ∧ ∀ q ∈ d.card.requests, d.requestClass q = cls → r.time ≤ q.time := by
  obtain ⟨q, hq, hc⟩ := h
  have hmem := mem_ofClass d cls
  obtain ⟨n, hn⟩ := oldest_eq d cls
  unfold Device.oldest at hn ⊢
  dsimp only at hn ⊢
  obtain ⟨first, rest, hl⟩ := List.exists_cons_of_ne_nil (List.ne_nil_of_mem ((hmem q).mpr ⟨hq, hc⟩))
  obtain ⟨⟨p, hp, hpe⟩, hle⟩ := earliest_spec first rest
  rw [← hl] at hp hpe hle
  generalize ht : (d.ofClass cls).filter (fun r => r.time == earliest (d.ofClass cls)) = tied at *
  have hpt : p ∈ tied := ht ▸ List.mem_filter.mpr ⟨hp, beq_iff_eq.mpr hpe⟩
  have hi : (d.choose tied.length).1 < tied.length := by
    unfold Device.choose
    split
    · exact List.length_pos_of_mem hpt
    · exact Nat.mod_lt _ (List.length_pos_of_mem hpt)
  have hr : tied[(d.choose tied.length).1] ∈ (d.ofClass cls).filter (fun r => r.time == earliest (d.ofClass cls)) :=
    ht ▸ List.getElem_mem hi
  obtain ⟨hr1, hr2⟩ := List.mem_filter.mp hr
  obtain ⟨hr3, hr4⟩ := (hmem _).mp hr1
  refine ⟨tied[(d.choose tied.length).1], n, Prod.ext (List.getElem?_eq_getElem hi) hn, hr3, hr4, fun q hq hc => ?_⟩
  rw [beq_iff_eq.mp hr2]
  exact hle q ((hmem q).mpr ⟨hq, hc⟩)

/-- R138 c: the highest class that holds a request. -/
theorem highestClass_eq {d : Device} {cls : ArbClass} (h : ∃ q ∈ d.card.requests, d.requestClass q = cls)
    (hl : ∀ k : ArbClass, k.rank < cls.rank → ¬ ∃ q ∈ d.card.requests, d.requestClass q = k) :
    d.highestClass = some cls := by
  have hs : ∀ k, (!(d.ofClass k).isEmpty) = true ↔ ∃ q ∈ d.card.requests, d.requestClass q = k := fun k => by
    rw [Bool.not_eq_true', List.isEmpty_eq_false_iff_exists_mem]
    exact exists_congr fun q => mem_ofClass d k q
  unfold Device.highestClass
  rw [List.find?_eq_some_iff_append]
  refine ⟨(hs cls).mpr h, ?_⟩
  have hn : ∀ k : ArbClass, k.rank < cls.rank → (!(d.ofClass k).isEmpty) = false := fun k hk =>
    Bool.eq_false_iff.mpr (mt (hs k).mp (hl k hk))
  refine ⟨[ArbClass.a, .b, .c, .d, .e, .f].take cls.rank, [ArbClass.a, .b, .c, .d, .e, .f].drop (cls.rank + 1), by cases cls <;> rfl,
    fun k hk => ?_⟩
  rw [hn k (by revert hk; cases cls <;> cases k <;> decide)]
  rfl

/-- R139: the class that a grant goes to. -/
theorem grantClass_eq {d : Device} {cls : ArbClass} (h : ∃ q ∈ d.card.requests, d.requestClass q = cls)
    (hc : 8 ≤ d.card.grants ∧ (∃ q ∈ d.card.requests, d.requestClass q = .d) ∧ cls = .d
      ∨ ¬ (8 ≤ d.card.grants ∧ ∃ q ∈ d.card.requests, d.requestClass q = .d)
        ∧ ∀ k : ArbClass, k.rank < cls.rank → ¬ ∃ q ∈ d.card.requests, d.requestClass q = k) : d.grantClass = some cls := by
  have hst : d.starving = true ↔ 8 ≤ d.card.grants ∧ ∃ q ∈ d.card.requests, d.requestClass q = .d := by
    unfold Device.starving
    rw [Bool.and_eq_true, waitsD_iff]
    exact and_congr_left fun _ => decide_eq_true_iff (p := 8 ≤ d.card.grants)
  unfold Device.grantClass
  rcases hc with ⟨h8, hw, rfl⟩ | ⟨hn, hl⟩
  · rw [if_pos (hst.mpr ⟨h8, hw⟩)]
  · rw [if_neg (mt hst.mp hn), highestClass_eq h hl]

/-- R139 b, d: the count after a grant. -/
theorem grantsAfter_eq (d : Device) (cls : ArbClass) : d.grantsAfter cls = if cls = .d then 0
    else if d.waitsD = true ∧ (cls = .a ∨ cls = .b ∨ cls = .c) then d.card.grants + 1 else d.card.grants := by
  cases cls <;> simp [Device.grantsAfter]

/-! ### A grant makes nothing owed (R67, R142) -/

/-- A FLUSH ends no sooner in a part in which no unit is saved that was not. -/
theorem flushHolds_mono {d e : Device} (h : ∀ u, e.unitSaved u = true → d.unitSaved u = true) {sel : FlushSel}
    (he : e.flushHolds sel = true) : d.flushHolds sel = true := by
  unfold Device.flushHolds at *
  simp only [Bool.and_eq_true, Bool.or_eq_true] at *
  exact he.imp (Or.imp_right (h .u0)) (Or.imp_right (h .u1))

/-- R67: the header that is being written is one that is not saved. -/
theorem markWriting_rest (d : Device) (r : Request) (h : d.micro = none) : (d.markWriting r).micro = none := by
  unfold Device.markWriting
  split
  · next u _ =>
    generalize hi : (d.images.get u).map (fun m => { m with headerState := .writing }) = image
    have hget : ∀ v, (d.setImage u image).images.get v = if v = u then image else d.images.get v := fun v => by
      by_cases hv : v = u
      · rw [if_pos hv, hv]
        exact PerUnit.get_set_self _ _ _
      · rw [if_neg hv]
        exact PerUnit.get_set_ne _ _ hv
    have hm : ∀ v, (d.setImage u image).mounted v = d.mounted v := fun v => by
      unfold Device.mounted
      rw [hget v]
      split
      · next hv => rw [← hi, hv, Option.isSome_map]
      · rfl
    have hs := SameWork.of_engine (d := d) (e := d) rfl rfl rfl rfl rfl rfl (fun _ => ⟨rfl, rfl, rfl⟩) rfl h
    refine SameWork.quiet (d := d)
      { news := rfl, bufs := hs.bufs, lru := hs.lru, waits := rfl, windows := rfl, owed := rfl, command := rfl
        chain := fun v => ?_, current := ?_, flush := ?_ } h
    · unfold Device.chainStart
      rw [hget v]
      by_cases hv : v = u
      · rw [if_pos hv, ← hi, hv]
        cases d.images.get u <;> rfl
      · rw [if_neg hv]
    · exact isCurrent_congr hm (fun _ => ⟨rfl, rfl, rfl⟩) (fun _ => rfl)
    · have hf := ((micro_none_iff d).mp h).2.2.2.2.2.2.2
      rw [flushDone_none] at hf ⊢
      intro sel hsel
      refine Bool.eq_false_iff.mpr fun hh => absurd (flushHolds_mono (fun v hv => ?_) hh) (Bool.eq_false_iff.mp (hf sel hsel))
      unfold Device.unitSaved at *
      rw [Bool.and_eq_true] at *
      refine ⟨hv.1, ?_⟩
      have h2 := hv.2
      unfold Device.headerDirty at h2 ⊢
      rw [hget v] at h2
      by_cases hvu : v = u
      · rw [if_pos hvu, ← hi, ← hvu] at h2
        cases hg : d.images.get v with
        | none => rfl
        | some m =>
          rw [hg] at h2
          exact nomatch h2
      · rwa [if_neg hvu] at h2
  all_goals exact h

/-- A change of the card's record and of the free-choice counter makes nothing owed. -/
theorem card_rest (d : Device) (c : CardRecord) (n : Nat) (h : d.micro = none) :
    Device.micro { d with card := c, freeCount := n } = none :=
  rest_engine (d := d) rfl rfl rfl rfl rfl rfl (fun _ => ⟨rfl, rfl, rfl⟩) rfl h

/-! ### The classes of requests (R72, R75, R94, R137) -/

/-- R72: which keys are current. -/
theorem isCurrent_iff (d : Device) (k : TrackKey) : d.isCurrent k = true ↔
    d.images.get k.unit ≠ none ∧ (d.units.get k.unit).motor = true ∧ k.cyl = (d.units.get k.unit).cylinder
        ∧ k.head = (if (d.units.get k.unit).side = true then 1 else 0)
      ∨ ∃ c, d.captures.get k.unit = some c ∧ c.state = .pending ∧ c.key = k := by
  have hcap : (match d.captures.get k.unit with
      | some c => c.state == .pending && c.key == k
      | none => false) = true ↔ ∃ c, d.captures.get k.unit = some c ∧ c.state = .pending ∧ c.key = k := by
    cases d.captures.get k.unit with
    | none => exact ⟨nofun, nofun⟩
    | some c => simp
  have htrack : (d.currentTrack k.unit == some k && (d.units.get k.unit).motor) = true ↔ d.images.get k.unit ≠ none
      ∧ (d.units.get k.unit).motor = true ∧ k.cyl = (d.units.get k.unit).cylinder
      ∧ k.head = (if (d.units.get k.unit).side = true then 1 else 0) := by
    obtain ⟨u, cyl, head⟩ := k
    unfold Device.currentTrack Device.mounted Device.headKey headOf
    cases d.images.get u with
    | none => exact ⟨nofun, fun h => absurd rfl h.1⟩
    | some m =>
      rw [Bool.and_eq_true, beq_iff_eq]
      refine ⟨fun ⟨h, hm⟩ => ?_, fun ⟨_, hm, hc, hh⟩ => ⟨?_, hm⟩⟩
      · have hk := Option.some.inj h
        exact ⟨nofun, hm, (congrArg TrackKey.cyl hk).symm, (congrArg TrackKey.head hk).symm⟩
      · exact congrArg some (TrackKey.mk.injEq .. ▸ ⟨rfl, hc.symm, hh.symm⟩)
  unfold Device.isCurrent
  rw [Bool.or_eq_true]
  exact or_congr htrack hcap

theorem commandKey_iff (d : Device) (k : TrackKey) :
    d.commandKey = some k ↔ ∃ c, d.port.engine = .executing (.sectors c) ∧ c.key = k := by
  unfold Device.commandKey
  split
  · next c h =>
    rw [h]
    exact ⟨fun g => ⟨c, rfl, Option.some.inj g⟩, fun ⟨_, g, hk⟩ => by cases g; exact congrArg some hk⟩
  · next h => exact ⟨nofun, fun ⟨c, g, _⟩ => absurd g (h c)⟩

/-- R75, R77: the purpose of a fill. -/
theorem purpose_cases (d : Device) (k : TrackKey) : (d.isCurrent k = true → d.purpose k = .current)
    ∧ (d.isCurrent k = false → d.commandKey = some k → d.purpose k = .loader)
    ∧ (d.isCurrent k = false → d.commandKey ≠ some k → d.purpose k = .prefetch) := by
  unfold Device.purpose
  refine ⟨fun h => if_pos h, fun h g => ?_, fun h g => ?_⟩
  · rw [if_neg (by rw [h]; exact Bool.false_ne_true), if_pos (beq_iff_eq.mpr g)]
  · rw [if_neg (by rw [h]; exact Bool.false_ne_true), if_neg (mt beq_iff_eq.mp g)]

/-- R94: how many buffers are unsaved. -/
theorem unsavedTotal_eq (d : Device) : d.unsavedTotal = ((List.range 8).filter
    (fun j => (d.buf j).state = .dirty ∨ (d.buf j).state = .flushing)).length := by
  unfold Device.unsavedTotal bufferIds
  refine congrArg (fun f => (List.filter f (List.range 8)).length) (funext fun j => ?_)
  cases (d.buf j).state <;> rfl

/-- R75, R137: the class of a fill's request is that of its purpose. -/
theorem requestClass_filling {d : Device} {q : Request} {i : Nat} {k : TrackKey} (hq : q.who = .buffer i)
    (hs : (d.buf i).state = .filling) (hk : (d.buf i).key = some k) : d.requestClass q = (d.purpose k).arbClass := by
  unfold Device.requestClass
  rw [hq]
  dsimp only
  rw [hs, hk]

/-- R94, R137: the class of a flush's request. -/
theorem requestClass_flushing {d : Device} {q : Request} {i : Nat} (hq : q.who = .buffer i)
    (hs : (d.buf i).state = .flushing) : d.requestClass q = d.writeBackClass (d.buf i).evict := by
  unfold Device.requestClass
  rw [hq]
  dsimp only
  rw [hs]

theorem bufCurrent_iff (d : Device) (i : Nat) : d.bufCurrent i = true ↔ (d.buf i).state ≠ .free
    ∧ ∃ k, (d.buf i).key = some k ∧ d.isCurrent k = true := by
  unfold Device.bufCurrent
  cases (d.buf i).key with
  | none => exact ⟨nofun, fun ⟨_, _, h, _⟩ => nomatch h⟩
  | some k =>
    dsimp only
    rw [Bool.and_eq_true, bne_iff_ne]
    exact and_congr_right fun _ => ⟨fun h => ⟨k, rfl, h⟩, fun ⟨_, h, g⟩ => Option.some.inj h ▸ g⟩

/-- R67, R92, R176: the bytes of a WRITE run by its requester; a READ takes none. -/
theorem runBytes_read {d : Device} {q : Request} (h : q.kind = .read) : d.runBytes q = [] := by
  unfold Device.runBytes
  rw [h]

theorem runBytes_header {d : Device} {q : Request} {u : UnitId} {m : MountRecord} (h : q.kind = .write)
    (hw : q.who = .header u) (hm : d.images.get u = some m) : d.runBytes q = m.headerBytes := by
  unfold Device.runBytes
  rw [h, hw]
  dsimp only
  rw [hm]

theorem runBytes_engine {d : Device} {q : Request} (h : q.kind = .write) (hw : q.who = .engine) :
    d.runBytes q = (List.range (q.count * 512)).map d.port.window.read := by
  unfold Device.runBytes
  rw [h, hw]
  exact congrArg (fun f => (List.range (q.count * 512)).map f) (funext fun i => congrArg _ (Nat.zero_add i))

theorem runBytes_buffer {d : Device} {q : Request} {i card n : Nat} {k : TrackKey} {m : MountRecord} {w : Work}
    (h : q.kind = .write) (hq : q.who = .buffer i) (hk : (d.buf i).key = some k) (hm : d.images.get k.unit = some m)
    (hw : (d.buf i).work = some w) (hs : w.stage = .writing card n) : d.runBytes q = ((w.todo.take n).zipIdx.map (fun b =>
      flushBlockBytes m k (d.buf i) b.1 (bytesAt w.taken (b.2 * 512) 512))).flatten := by
  unfold Device.runBytes
  rw [h, hq]
  show d.flushRunBytes i = _
  unfold Device.flushRunBytes
  dsimp only
  rw [hk, hw]
  dsimp only
  rw [hm, hs]

/-- R137: a request handed to a READY card joins the set. -/
theorem request_ready {d : Device} (h : d.card.state = .ready) (q : Request) : d.request q = { d with card := { d.card with
    requests := d.card.requests ++ [{ q with time := d.now }]
    grants := if (d.requestClass { q with time := d.now } == .d && !d.waitsD) = true then 0 else d.card.grants } } :=
  if_pos (beq_iff_eq.mpr h)

/-- Settles O27: the retry, the starvation bound or the highest class chooses, and an oldest request of it is granted. -/
theorem aGrantGoesByClassAndAge : Obligations.AGrantGoesByClassAndAge := by
  unfold Obligations.AGrantGoesByClassAndAge
  refine ⟨fun s h => Follows.answers (if_neg (Bool.eq_false_iff.mp h)) id, fun s hs hr => ⟨fun run cause hy => ?_,
    ?_⟩, fun d q => ⟨fun h => runBytes_read h, fun h => ⟨fun u m hw hm => runBytes_header h hw hm,
    fun hw => runBytes_engine h hw, fun i k m w card n hq hk hm hw hst => runBytes_buffer h hq hk hm hw hst⟩, fun u m hw hm => ?_,
    fun hn => ?_⟩, fun d q => ?_, fun d => ?_⟩
  · have hg : s.dev.canGrant = true := (canGrant_iff s.dev).mpr ⟨hs, hr, .inl (by rw [hy]; rfl)⟩
    refine Follows.answers (((if_pos hg).trans ?_)) fun hq => card_rest s.dev _ _ hq
    rw [hy]
    rfl
  · intro cls hy waits hc
    have hw : waits cls := hc.elim (fun ⟨_, h, e⟩ => e ▸ h) (fun h => h.2.1)
    have hg : s.dev.canGrant = true := (canGrant_iff s.dev).mpr ⟨hs, hr, .inr (List.ne_nil_of_mem hw.choose_spec.1)⟩
    have hcls : s.dev.grantClass = some cls := grantClass_eq hw (hc.imp id fun h => ⟨h.1, h.2.2⟩)
    obtain ⟨r, n, ho, hmem, hrc, hle⟩ := oldest_some hw
    refine ⟨r, n, hmem, hrc, hle, Follows.answers ((if_pos hg).trans ?_) fun hq => ?_⟩
    · rw [hy]
      dsimp only
      rw [hcls]
      dsimp only
      unfold Device.grantRequest
      rw [ho, grantsAfter_eq]
      rfl
    · exact markWriting_rest _ r (card_rest s.dev _ n hq)
  · unfold Device.markWriting
    rw [hw]
    dsimp only
    rw [hm]
    rfl
  · unfold Device.markWriting
    split
    · next u hu => exact absurd hu (hn u)
    all_goals rfl
  · intro asked
    refine ⟨fun h => (request_ready h q).trans ?_, fun h => request_not_ready h q⟩
    have : (d.requestClass asked == .d && !d.waitsD) = true
        ↔ d.requestClass asked = .d ∧ ∀ x ∈ d.card.requests, d.requestClass x ≠ .d := by
      rw [Bool.and_eq_true, beq_iff_eq, Bool.not_eq_true', Bool.eq_false_iff, Ne, waitsD_iff]
      push Not
      exact Iff.rfl
    exact congrArg (fun n => { d with card := { d.card with requests := d.card.requests ++ [asked], grants := n } })
      (if_congr this rfl rfl)
  · intro many current commanded
    have hcur : ∀ k, d.isCurrent k = true ↔ current k := isCurrent_iff d
    have hcmd : ∀ k, d.commandKey = some k ↔ commanded k := commandKey_iff d
    have hmany : 6 ≤ d.unsavedTotal ↔ many := by rw [unsavedTotal_eq]
    have hp : ∀ k, (current k → d.purpose k = .current) ∧ (¬ current k → commanded k → d.purpose k = .loader)
        ∧ (¬ current k → ¬ commanded k → d.purpose k = .prefetch) := fun k => by
      obtain ⟨h1, h2, h3⟩ := purpose_cases d k
      have hn : ¬ current k → d.isCurrent k = false := fun h => Bool.eq_false_iff.mpr (mt (hcur k).mp h)
      exact ⟨fun h => h1 ((hcur k).mpr h), fun h g => h2 (hn h) ((hcmd k).mpr g), fun h g => h3 (hn h) (mt (hcmd k).mp g)⟩
    refine ⟨(canGrant_iff d).trans (and_congr_right fun _ => and_congr_right fun _ => or_congr_left
      (Option.isSome_iff_ne_none)), fun q => ⟨fun u hu => ?_, fun hu => ?_, fun u hu => ?_, fun i hi => ⟨fun k hs hk => ?_,
      fun hs => ?_⟩, fun p => rfl, fun k => ?_, fun i => (bufCurrent_iff d i).trans (and_congr_right fun _ =>
      exists_congr fun k => and_congr_right fun _ => hcur k)⟩⟩
    · unfold Device.requestClass
      rw [hu]
    · unfold Device.requestClass
      rw [hu]
    · unfold Device.requestClass Device.writeBackClass
      rw [hu]
      exact if_congr ((or_iff_left Bool.false_ne_true).trans hmany) rfl rfl
    · obtain ⟨h1, h2, h3⟩ := hp k
      rw [requestClass_filling hi hs hk]
      exact ⟨fun h => by rw [h1 h]; rfl, fun h g => by rw [h2 h g]; rfl, fun h g => by rw [h3 h g]; rfl⟩
    · rw [requestClass_flushing hi hs]
      exact if_congr (or_congr_left hmany) rfl rfl
    · obtain ⟨h1, h2, h3⟩ := hp k
      by_cases hc : current k
      · rw [h1 hc]
        simp [hc]
      · by_cases hm : commanded k
        · rw [h2 hc hm]
          simp [hc, hm]
        · rw [h3 hc hm]
          simp [hc, hm]

end Sys2Proof.Proofs
end

section
namespace Sys2Proof.Proofs
open Sys2Proof Sys2Proof.Machine

/-! ### The ends of runs (R140 to R145, R149) -/

/-- R149: a CARD_RESET that waits for the run begins its initialization; the requests still in the set are told. -/
theorem afterRun_eq (d : Device) : d.afterRun = if d.card.resetWaits = true then { d with
    news := d.news ++ d.card.requests.map (fun r => { who := r.who, ok := false, data := [] })
    card := { d.card with state := .initializing, capacity := none, initTime := some 0, requests := []
                          resetWaits := false } } else d := by
  unfold Device.afterRun
  rw [beginInit_eq]

/-- R145 a: the requester of a run is told, unless it withdrew. -/
theorem tellRun_def (d : Device) (r : Run) (ok : Bool) (data : List Byte) : d.tellRun r ok data =
    if r.withdrawn then d else { d with news := d.news ++ [{ who := r.req.who, ok := ok, data := data }] } := rfl

theorem answerBytes_eq (r : Run) (data : List Byte) :
    r.answerBytes data = if r.req.kind = .read then bytesAt data 0 (r.req.count * 512) else [] := by
  unfold Run.answerBytes
  cases r.req.kind <;> rfl

/-- R142, R145 a: a first failure owes a retry unless the requester withdrew, and any other ends the run. -/
theorem runFails_retry {d : Device} {r : Run} (h : r.firstCause = none) (hw : r.withdrawn = false) (c : RunCause) :
    d.runFails r c = { d with card := { d.card with run := none, retry := some (r, c) } } :=
  if_pos (by rw [h, hw]; rfl)

theorem runFails_lost {d : Device} {r : Run} (h : r.firstCause.isSome = true ∨ r.withdrawn = true) (c : RunCause) :
    d.runFails r c = d.runLost r c :=
  if_neg fun g => by
    rw [Bool.and_eq_true, Bool.not_eq_true', Option.isNone_iff_eq_none] at g
    exact h.elim (fun k => by rw [g.1] at k; exact nomatch k) (fun k => by rw [g.2] at k; exact nomatch k)

/-- R142 b: a run that is lost without taking the card to FAILED. -/
theorem runLost_eq (d : Device) {r : Run} {c : RunCause}
    (h : ¬ (r.firstCause = some .timeout ∧ c = .timeout ∧ r.withdrawn = false)) :
    d.runLost r c = ((d.dropRun.tellRun r false []).report (r.report .uncorrected c)).afterRun := by
  unfold Device.runLost
  dsimp only
  rw [if_neg h]

/-- R144: the second time-out of a run takes the card to FAILED. -/
theorem runLost_failed (d : Device) {r : Run} (h : r.firstCause = some .timeout) (hw : r.withdrawn = false) :
    d.runLost r .timeout
      = ((d.dropRun.tellRun r false []).report (r.report .uncorrected .timeout)).cardFails.afterRun := by
  unfold Device.runLost
  dsimp only
  rw [if_pos ⟨h, rfl, hw⟩]

theorem cardFails_eq (d : Device) : d.cardFails = { d with
    news := d.news ++ d.card.requests.map (fun r => { who := r.who, ok := false, data := [] })
    card := { d.card with state := .failed, capacity := none, requests := [], grants := 0 } } := by
  unfold Device.cardFails
  dsimp only
  rw [Device.failRequests_eq]

/-- R141: an answer in time. -/
theorem onRunAnswer_in_time {d : Device} {r : Run} (h : d.card.run = some r) (ht : d.now < r.granted + 250000)
    (a : CardAnswer) : (∀ data, a = .complete data → d.runWithin r = true → d.onRunAnswer a = d.runDone r data)
    ∧ (∀ data, a = .complete data → d.runWithin r = false → d.onRunAnswer a = d.runFails r .reject)
    ∧ (a = .badCheck → d.onRunAnswer a = d.runFails r .crc) ∧ (a = .error → d.onRunAnswer a = d.runFails r .reject) := by
  have hin : d.onRunAnswer a = (match a with
      | .complete data => if d.runWithin r then d.runDone r data else d.runFails r .reject
      | .badCheck => d.runFails r .crc
      | .error => d.runFails r .reject) := by
    unfold Device.onRunAnswer
    rw [h]
    exact if_pos ht
  rw [hin]
  refine ⟨fun data ha hw => ?_, fun data ha hw => ?_, fun ha => ?_, fun ha => ?_⟩
  · rw [ha]
    exact if_pos hw
  · rw [ha]
    exact if_neg (Bool.eq_false_iff.mp hw)
  · rw [ha]
  · rw [ha]

/-- Settles O28: a good answer ends the run, a first failure owes a retry, and any other failure ends it. -/
theorem theCardAnswersARun : Obligations.TheCardAnswersARun := by
  unfold Obligations.TheCardAnswersARun
  refine ⟨fun s a h => Follows.answers ?_ id, fun s r hr ht => ?_⟩
  · show s.dev.onRunAnswer a = s.dev
    unfold Device.onRunAnswer
    rcases h with h | ⟨r, h, hlate⟩
    · rw [h]
    · rw [h]
      exact if_neg (Nat.not_lt.mpr hlate)
  intro d told ended report within
  obtain ⟨hdone, hbad, hcrc, herr⟩ : (∀ data, s.dev.runWithin r = true → s.dev.onRunAnswer (.complete data) = s.dev.runDone r data)
    ∧ (∀ data, s.dev.runWithin r = false → s.dev.onRunAnswer (.complete data) = s.dev.runFails r .reject)
    ∧ s.dev.onRunAnswer .badCheck = s.dev.runFails r .crc ∧ s.dev.onRunAnswer .error = s.dev.runFails r .reject :=
    ⟨fun data => (onRunAnswer_in_time hr ht _).1 data rfl, fun data => (onRunAnswer_in_time hr ht _).2.1 data rfl,
      (onRunAnswer_in_time hr ht _).2.2.1 rfl, (onRunAnswer_in_time hr ht _).2.2.2 rfl⟩
  have hended : ∀ x : Device, x.card.resetWaits = s.dev.card.resetWaits → x.afterRun = ended x := fun x hx => by
    rw [afterRun_eq, hx]
  have hreport : ∀ cls c, r.report cls c = report cls c := fun cls c => by cases c <;> rfl
  have hwithin : s.dev.runWithin r = true ↔ within := decide_eq_true_iff
  have hwaits : ∀ (x : Device) ok data, (told x ok data).card = x.card := fun x ok data => by
    dsimp only [told]
    split <;> rfl
  refine ⟨fun hw data => ?_, fun a c hac => ?_⟩
  · intro data'
    refine ⟨fun hf => Follows.leads ?_, fun c hf => Follows.leads ?_⟩
    · refine (hdone data (hwithin.mpr hw)).trans ?_
      unfold Device.runDone
      dsimp only
      rw [hf, answerBytes_eq]
      exact hended (told d true data') ((congrArg CardRecord.resetWaits (hwaits d true data')).trans rfl)
    · refine (hdone data (hwithin.mpr hw)).trans ?_
      unfold Device.runDone
      dsimp only
      rw [hf, answerBytes_eq]
      dsimp only
      rw [hreport]
      exact hended (told (d.report (report .corrected c)) true data')
        ((congrArg CardRecord.resetWaits (hwaits (d.report (report .corrected c)) true data')).trans rfl)
  · have he : effect (.runEnd a) s.dev = s.dev.runFails r c := by
      rcases hac with ⟨rfl, rfl⟩ | ⟨rfl, rfl⟩ | ⟨hn, ⟨data, rfl⟩, rfl⟩
      · exact hcrc
      · exact herr
      · exact hbad data (Bool.eq_false_iff.mpr (mt hwithin.mp hn))
    have hc : c ≠ .timeout := by
      rcases hac with ⟨-, rfl⟩ | ⟨-, rfl⟩ | ⟨-, -, rfl⟩ <;> nofun
    refine ⟨fun hf hw => Follows.answers (he.trans (runFails_retry hf hw c)) fun hq => ?_, fun hl => Follows.leads ?_⟩
    · exact rest_engine (d := s.dev) rfl rfl rfl rfl rfl rfl (fun _ => ⟨rfl, rfl, rfl⟩) rfl hq
    · refine (he.trans (runFails_lost hl c)).trans ((runLost_eq s.dev (fun h => hc h.2.1)).trans ?_)
      rw [hreport]
      exact hended ((told d false []).report (report .uncorrected c))
        ((congrArg CardRecord.resetWaits (hwaits d false [])).trans rfl)

/-- Settles O29: a first time-out owes a retry, the second takes the card to FAILED, and any other ends the run. -/
theorem aRunTimesOut : Obligations.ARunTimesOut := by
  unfold Obligations.ARunTimesOut
  refine ⟨fun s h => Follows.answers ?_ id, fun s r hr => ?_⟩
  · show s.dev.onRunTimeout = s.dev
    unfold Device.onRunTimeout
    rw [h]
  intro d0 d lost failAll ended failed
  have he : effect .runTimeout s.dev = d0.runFails r .timeout := by
    show s.dev.onRunTimeout = _
    unfold Device.onRunTimeout
    rw [hr]
    rfl
  have hd0 : d0.card.resetWaits = s.dev.card.resetWaits := rfl
  have hended : ∀ x : Device, x.card.resetWaits = s.dev.card.resetWaits → x.afterRun = ended x := fun x hx => by
    rw [afterRun_eq, hx]
  have hlost : (d0.dropRun.tellRun r false []).report (r.report .uncorrected .timeout) = lost := rfl
  have hlw : lost.card.resetWaits = s.dev.card.resetWaits := by
    rw [← hlost]
    obtain ⟨n, hn⟩ := tellRun_eq d0.dropRun r false []
    rw [hn]
    rfl
  refine ⟨fun hf hw => Follows.answers (he.trans (runFails_retry hf hw _)) fun hq => ?_, fun hf hw => Follows.leads ?_,
    fun hl => Follows.leads ?_⟩
  · exact rest_engine (d := d0) rfl rfl rfl rfl rfl rfl (fun _ => ⟨rfl, rfl, rfl⟩) rfl
      (adv_rest s.dev (r.granted + 250000 - s.dev.now) hq)
  · refine (he.trans (runFails_lost (.inl (by rw [hf]; rfl)) _)).trans ((runLost_failed d0 hf hw).trans ?_)
    rw [hlost, cardFails_eq]
    exact hended failed hlw
  · have hn : ¬ (r.firstCause = some .timeout ∧ RunCause.timeout = .timeout ∧ r.withdrawn = false) := fun ⟨h1, _, h3⟩ =>
      hl.elim (fun h => h.2 h1) (fun h => nomatch h.symm.trans h3)
    refine (he.trans (runFails_lost (hl.imp And.left id) _)).trans ((runLost_eq d0 hn).trans ?_)
    rw [hlost]
    exact hended lost hlw

end Sys2Proof.Proofs
end

section
namespace Sys2Proof.Proofs
open Sys2Proof Sys2Proof.Machine

/-! ### The start of a flush (R90, R91) -/

/-- A buffer with a key stands in the list. -/
theorem buf_lt_of_key {d : Device} {i : Nat} {k : TrackKey} (h : (d.buf i).key = some k) : i < d.pool.buffers.length := by
  refine Nat.lt_of_not_le fun hi => ?_
  unfold Device.buf at h
  rw [List.getD_eq_getElem?_getD, List.getElem?_eq_none hi] at h
  exact nomatch h

/-- A buffer that was set reads as it was set. -/
theorem setBuf_self {d : Device} {i : Nat} (h : i < d.pool.buffers.length) (b : TrackBuffer) : (d.setBuf i b).buf i = b :=
  (Pool.buf_set d.pool i i b).trans (if_pos ⟨rfl, h⟩)

/-- R90: the entry that a flush takes is one of the unit's in the queue. -/
theorem flushEntry_eq {d : Device} {u : UnitId} {i : Nat}
    (h : (d.pool.queue.filter (fun j => d.ownedBy j u)).find? (fun j => (d.buf j).evict) = some i
      ∨ (d.pool.queue.filter (fun j => d.ownedBy j u)).find? (fun j => (d.buf j).evict) = none
        ∧ (d.pool.queue.filter (fun j => d.ownedBy j u)).head? = some i) :
    d.flushEntry u = some i ∧ d.ownedBy i u = true := by
  unfold Device.flushEntry
  dsimp only
  rcases h with h | ⟨h, hh⟩
  · rw [h]
    exact ⟨rfl, (List.mem_filter.mp (List.mem_of_find?_eq_some h)).2⟩
  · rw [h]
    exact ⟨hh, (List.mem_filter.mp (List.mem_of_mem_head? hh)).2⟩

/-- R90: without its conditions no flush starts. -/
theorem flushReady_none {d : Device} {u : UnitId} (h : d.card.state ≠ .ready ∨ d.flushing u = true
    ∨ ∀ i ∈ d.pool.queue, d.ownedBy i u = false) : d.flushReady u = none := by
  unfold Device.flushReady
  by_cases hc : (d.card.state == .ready && !d.flushing u) = true
  · rw [if_pos hc]
    rw [Bool.and_eq_true, beq_iff_eq, Bool.not_eq_true'] at hc
    have hq : d.pool.queue.filter (fun i => d.ownedBy i u) = [] := List.filter_eq_nil_iff.mpr fun i hi =>
      Bool.eq_false_iff.mp (h.elim (absurd hc.1) (fun g => g.elim (fun k => nomatch hc.2.symm.trans k) fun k => k i hi))
    unfold Device.flushEntry
    rw [hq]
    rfl
  · rw [if_neg hc]

theorem flushReady_some {d : Device} {u : UnitId} {i : Nat} (hs : d.card.state = .ready) (hf : d.flushing u = false)
    (he : d.flushEntry u = some i) : d.flushReady u = some i := by
  unfold Device.flushReady
  rw [hs, hf, he]
  rfl

theorem ownedBy_iff (d : Device) (i : Nat) (u : UnitId) :
    d.ownedBy i u = true ↔ ∃ k, (d.buf i).key = some k ∧ k.unit = u := by
  unfold Device.ownedBy
  cases (d.buf i).key with
  | none => exact ⟨nofun, fun ⟨_, h, _⟩ => nomatch h⟩
  | some k => exact beq_iff_eq.trans ⟨fun h => ⟨k, rfl, h⟩, fun ⟨_, h, g⟩ => Option.some.inj h ▸ g⟩

/-- R91 b: the dirty sectors are taken in flight. -/
theorem snapshot_eq (x : TrackBuffer) (m : MountRecord) (k : TrackKey) : x.snapshot m k =
    let taken : TrackBuffer := { x with
      state := .flushing, reDirtied := false, dirtySince := none
      sectors := x.sectors.map (fun (s : Sector) => { s with dirty := false, inFlush := s.dirty || s.inFlush }) }
    { taken with work := some { todo := flushBlocks m k taken, stage := .next, taken := [], failed := [] } } := by
  have hs : ∀ s : Sector, (if s.dirty then { s with dirty := false, inFlush := true } else s)
      = { s with dirty := false, inFlush := s.dirty || s.inFlush } := fun s => by
    obtain ⟨_, _, _, _, dirty, _⟩ := s
    cases dirty <;> rfl
  unfold TrackBuffer.snapshot
  rw [funext hs]

/-! ### The runs of a flush (R91, R93) -/

/-- R143: a run of a flush is reported as one. -/
theorem workOp_flushing {d : Device} {i : Nat} (h : (d.buf i).state = .flushing) : d.workOp i = .flush := by
  unfold Device.workOp
  rw [h]
  rfl

/-- R93 a: the blocks of a run of a flush that failed. -/
theorem loseBlocks_flushing {d : Device} {i : Nat} {k : TrackKey} {m : MountRecord} {w : Work} (n : Nat)
    (hs : (d.buf i).state = .flushing) (hk : (d.buf i).key = some k) (hw : (d.buf i).work = some w)
    (hm : d.images.get k.unit = some m) : d.loseBlocks i n = d.setWork i
      { w with todo := w.todo.drop n, stage := .next, taken := []
               failed := w.failed ++ (w.todo.take n).map WorkBlock.image } := by
  unfold Device.loseBlocks
  dsimp only
  split
  · next k' w' hk' hw' =>
    obtain rfl : k = k' := Option.some.inj (hk.symm.trans hk')
    obtain rfl : w = w' := Option.some.inj (hw.symm.trans hw')
    have hn : ¬ ((d.buf i).state == .filling) = true := fun h => nomatch hs.symm.trans (beq_iff_eq.mp h)
    rw [hm]
    exact if_neg hn
  · next h => exact absurd hw (h k w hk)

/-- R91, R93 a: what a FLUSHING buffer does at the end of its runs. -/
theorem deliver_flushing {d : Device} {i card n : Nat} {k : TrackKey} {m : MountRecord} {w : Work}
    (hs : (d.buf i).state = .flushing) (hk : (d.buf i).key = some k) (hw : (d.buf i).work = some w)
    (hm : d.images.get k.unit = some m) :
    (w.stage = .reading card n → ∀ data, d.deliver { who := .buffer i, ok := true, data := data }
      = (d.setWork i { w with stage := .writing card n, taken := data }).request
        { who := .buffer i, kind := .write, block := card, count := n, time := 0, op := .flush
          unit := some k.unit, track := some { cyl := k.cyl, head := k.head, r := none } })
    ∧ (w.stage = .writing card n → ∀ data, d.deliver { who := .buffer i, ok := true, data := data }
      = d.setWork i { w with todo := w.todo.drop n, stage := .next, taken := [] })
    ∧ (w.stage = .reading card n ∨ w.stage = .writing card n → d.deliver { who := .buffer i, ok := false, data := [] }
      = d.loseBlocks i n) := by
  refine ⟨fun hst data => ?_, fun hst data => ?_, fun hst => ?_⟩
  · show d.runSucceeded i data = _
    have hop : (d.setWork i { w with stage := .writing card n, taken := data }).workOp i = .flush :=
      workOp_flushing ((congrArg TrackBuffer.state (setBuf_self (buf_lt_of_key hk) _)).trans hs)
    unfold Device.runSucceeded
    dsimp only
    rw [hk, hw]
    dsimp only
    rw [hm, hst]
    dsimp only
    rw [hs]
    show Device.requestRun (d.setWork i { w with stage := .writing card n, taken := data }) i k .write card n = _
    unfold Device.requestRun
    rw [hop]
    rfl
  · show d.runSucceeded i data = _
    unfold Device.runSucceeded
    dsimp only
    rw [hk, hw]
    dsimp only
    rw [hm, hst]
  · show d.runFailed i = _
    unfold Device.runFailed
    rw [hw]
    dsimp only
    rcases hst with h | h <;> rw [h]

/-! ### The blocks of a flush and their bytes (R91, R92) -/

theorem stores_iff (t : Sector) : t.stores = true ↔ t.inFlush = true ∧ t.flags.unreadable = false := by
  unfold Sector.stores
  rw [Bool.and_eq_true, Bool.not_eq_true']

theorem holds_iff (m : MountRecord) (k : TrackKey) (n : Nat) (t : Sector) (o : Nat) : m.holds k n t o = true ↔
    m.dataOffset k.cyl k.head t.logical n ≤ o ∧ o < m.dataOffset k.cyl k.head t.logical n + n := by
  unfold MountRecord.holds
  rw [Bool.and_eq_true, decide_eq_true_iff, decide_eq_true_iff]

/-- R51: a block carries data of a sector just when one of its bytes is. -/
theorem dataTouches_iff_byte (m : MountRecord) (k : TrackKey) (n : Nat) (t : Sector) (b : Nat) :
    m.dataTouches k n t b = true ↔ ∃ j < 512, m.holds k n t (b * 512 + j) = true := by
  rw [(m.touches_iff k n t b).1]
  simp only [holds_iff]
  constructor
  · rintro ⟨j, hj, hb⟩
    exact ⟨(m.dataOffset k.cyl k.head t.logical n + j) % 512, Nat.mod_lt _ (by decide), by omega, by omega⟩
  · rintro ⟨j, hj, h1, h2⟩
    exact ⟨b * 512 + j - m.dataOffset k.cyl k.head t.logical n, by omega, by omega⟩

theorem flagTouches_iff_byte (m : MountRecord) (k : TrackKey) (t : Sector) (b : Nat) :
    m.flagTouches k t b = true ↔ m.hasFlagMap = true
      ∧ ∃ j < 512, m.flagOffset k.cyl k.head t.logical = b * 512 + j := by
  rw [(m.touches_iff k 0 t b).2]
  refine and_congr_right fun _ => ⟨fun h => ⟨m.flagOffset k.cyl k.head t.logical % 512, Nat.mod_lt _ (by decide), by omega⟩, ?_⟩
  rintro ⟨j, hj, h⟩
  omega

/-- R91: which blocks a flush writes whole. -/
theorem wholeBlock_iff (m : MountRecord) (k : TrackKey) (x : TrackBuffer) (b : Nat) : wholeBlock m k x b = true ↔
    512 ≤ x.dataLen ∧ ∀ j < 512, ∃ t ∈ x.sectors, t.stores = true ∧ m.holds k x.dataLen t (b * 512 + j) = true := by
  unfold wholeBlock
  simp only [Bool.and_eq_true, List.all_eq_true, List.any_eq_true, List.mem_range, decide_eq_true_iff]
  exact Iff.rfl

/-- R91: the data blocks of a flush. -/
theorem mem_flushData_iff (m : MountRecord) (k : TrackKey) (x : TrackBuffer) (b : Nat)
    (hl : ∀ t ∈ x.sectors, t.logical < x.sectors.length) :
    b ∈ (m.dataBlocks k (x.sectors.length * x.dataLen)).filter
        (fun b => (x.sectors.filter Sector.stores).any (fun s => m.dataTouches k x.dataLen s b)) ↔
      ∃ t ∈ x.sectors, t.stores = true ∧ m.dataTouches k x.dataLen t b = true := by
  simp only [List.mem_filter, List.any_eq_true, and_assoc]
  refine ⟨fun h => h.2, fun ⟨t, ht, hs, hb⟩ => ⟨?_, t, ht, hs, hb⟩⟩
  obtain ⟨j, hj, he⟩ := (m.touches_iff k x.dataLen t b).1.mp hb
  have hle : (t.logical + 1) * x.dataLen ≤ x.sectors.length * x.dataLen := Nat.mul_le_mul_right _ (hl t ht)
  rw [Nat.succ_mul] at hle
  refine (mem_blocksOf_iff _ _ _).mpr ⟨t.logical * x.dataLen + j, by omega, ?_⟩
  rw [← Nat.add_assoc]
  exact he

/-- R91: the flag-map blocks of a flush. -/
theorem mem_flushFlags_iff (m : MountRecord) (k : TrackKey) (x : TrackBuffer) (b : Nat)
    (hl : ∀ t ∈ x.sectors, t.logical < x.sectors.length) :
    b ∈ (m.flagBlocks k x.sectors.length).filter
        (fun b => (x.sectors.filter Sector.stores).any (fun s => m.flagTouches k s b)) ↔
      ∃ t ∈ x.sectors, t.stores = true ∧ m.flagTouches k t b = true := by
  simp only [List.mem_filter, List.any_eq_true, and_assoc]
  refine ⟨fun h => h.2, fun ⟨t, ht, hs, hb⟩ => ⟨?_, t, ht, hs, hb⟩⟩
  obtain ⟨hm, he⟩ := (m.touches_iff k 0 t b).2.mp hb
  unfold MountRecord.flagBlocks
  rw [if_pos hm]
  exact (mem_blocksOf_iff _ _ _).mpr ⟨t.logical, hl t ht, he⟩

/-- R91: a block is written whole when it carries data and is whole; otherwise, or for its flag bytes, partial. -/
theorem mem_flushBlocks_iff (m : MountRecord) (k : TrackKey) (x : TrackBuffer) (b : Nat)
    (hl : ∀ t ∈ x.sectors, t.logical < x.sectors.length) :
    (⟨b, .whole⟩ ∈ flushBlocks m k x ↔
      (∃ t ∈ x.sectors, t.stores = true ∧ m.dataTouches k x.dataLen t b = true) ∧ wholeBlock m k x b = true)
    ∧ (⟨b, .partialBlock⟩ ∈ flushBlocks m k x ↔
      (∃ t ∈ x.sectors, t.stores = true ∧ m.dataTouches k x.dataLen t b = true) ∧ wholeBlock m k x b ≠ true
      ∨ ∃ t ∈ x.sectors, t.stores = true ∧ m.flagTouches k t b = true) := by
  unfold flushBlocks
  dsimp only
  simp only [List.mem_append, List.mem_map, WorkBlock.mk.injEq]
  constructor
  · rw [← mem_flushData_iff m k x b hl]
    constructor
    · rintro (⟨a, ha, rfl, hk⟩ | ⟨_, _, _, hk⟩)
      · exact ⟨ha, by_contra fun h => by rw [if_neg h] at hk; exact nomatch hk⟩
      · exact nomatch hk
    · exact fun ⟨h1, h2⟩ => .inl ⟨b, h1, rfl, if_pos h2⟩
  · rw [← mem_flushData_iff m k x b hl, ← mem_flushFlags_iff m k x b hl]
    refine or_congr ⟨?_, fun ⟨h1, h2⟩ => ⟨b, h1, rfl, if_neg h2⟩⟩ ⟨?_, fun h => ⟨b, h, rfl, trivial⟩⟩
    · rintro ⟨a, ha, rfl, hk⟩
      exact ⟨ha, fun h => by rw [if_pos h] at hk; exact nomatch hk⟩
    · rintro ⟨a, ha, rfl, -⟩
      exact ha

/-- R92: the bytes of a whole block are those of the buffer. -/
theorem flushBlockBytes_whole (m : MountRecord) (k : TrackKey) (x : TrackBuffer) (b : Nat) (read : List Byte) {j : Nat}
    (hj : j < 512) : (flushBlockBytes m k x ⟨b, .whole⟩ read)[j]?
      = some (x.data.read (b * 512 - m.offsetOf k.cyl k.head + j)) := by
  show ((List.range 512).map (fun i => x.data.read (b * 512 - m.offsetOf k.cyl k.head + i)))[j]? = _
  rw [List.getElem?_map, List.getElem?_range hj]
  rfl

theorem flushBlockBytes_partial (m : MountRecord) (k : TrackKey) (x : TrackBuffer) (b : Nat) (read : List Byte) {j : Nat}
    (hj : j < 512) : (flushBlockBytes m k x ⟨b, .partialBlock⟩ read)[j]?
      = some (flushByte m k x (b * 512 + j) (byteAt read j)) := by
  show ((List.range 512).map (fun i => flushByte m k x (b * 512 + i) (byteAt read i)))[j]? = _
  rw [List.getElem?_map, List.getElem?_range hj]
  rfl

/-- R92: a byte of a partial block that is data of a stored sector is the buffer's. -/
theorem flushByte_data {m : MountRecord} {k : TrackKey} {x : TrackBuffer} {o : Nat} (read : Byte)
    (h : ∃ t ∈ x.sectors, t.stores = true ∧ m.holds k x.dataLen t o = true) :
    flushByte m k x o read = x.data.read (o - m.offsetOf k.cyl k.head) := by
  obtain ⟨t, ht, hs, hh⟩ := h
  unfold flushByte
  dsimp only
  cases hf : (x.sectors.filter Sector.stores).find? (fun s => m.holds k x.dataLen s o) with
  | some s => rfl
  | none => exact absurd hh (List.find?_eq_none.mp hf t (List.mem_filter.mpr ⟨ht, hs⟩))

/-- R92: any other byte of a partial block is the flag byte that lies there, or the card's. -/
theorem flushByte_other {m : MountRecord} {k : TrackKey} {x : TrackBuffer} {o : Nat} (read : Byte)
    (h : ¬ ∃ t ∈ x.sectors, t.stores = true ∧ m.holds k x.dataLen t o = true) : flushByte m k x o read =
      match (x.sectors.filter Sector.stores).find?
        (fun s => m.hasFlagMap && m.flagOffset k.cyl k.head s.logical == o) with
      | some s => s.flags.stored
      | none => read := by
  unfold flushByte
  dsimp only
  rw [List.find?_eq_none.mpr fun t ht hh => h ⟨t, (List.mem_filter.mp ht).1, (List.mem_filter.mp ht).2, hh⟩] <;> rfl

theorem flushByte_flag {m : MountRecord} {k : TrackKey} {x : TrackBuffer} {o : Nat} (read : Byte)
    (h : ¬ ∃ t ∈ x.sectors, t.stores = true ∧ m.holds k x.dataLen t o = true)
    (nd : (x.sectors.map Sector.logical).Nodup) {t : Sector} (ht : t ∈ x.sectors) (hs : t.stores = true)
    (hm : m.hasFlagMap = true) (ho : m.flagOffset k.cyl k.head t.logical = o) : flushByte m k x o read = t.flags.stored := by
  rw [flushByte_other read h]
  cases hf : (x.sectors.filter Sector.stores).find?
      (fun s => m.hasFlagMap && m.flagOffset k.cyl k.head s.logical == o) with
  | none =>
    refine absurd ?_ (List.find?_eq_none.mp hf t (List.mem_filter.mpr ⟨ht, hs⟩))
    rw [hm, ho]
    exact beq_self_eq_true o
  | some s =>
    have hso := List.find?_some hf
    rw [Bool.and_eq_true, beq_iff_eq] at hso
    have hl : s.logical = t.logical := Nat.add_left_cancel (hso.2.trans ho.symm)
    have : s = t := List.inj_on_of_nodup_map nd (List.mem_filter.mp (List.mem_of_find?_eq_some hf)).1 ht hl
    rw [this]

theorem flushByte_card {m : MountRecord} {k : TrackKey} {x : TrackBuffer} {o : Nat} (read : Byte)
    (h : ¬ ∃ t ∈ x.sectors, t.stores = true ∧ m.holds k x.dataLen t o = true)
    (hn : ¬ ∃ t ∈ x.sectors, t.stores = true ∧ m.hasFlagMap = true ∧ m.flagOffset k.cyl k.head t.logical = o) :
    flushByte m k x o read = read := by
  rw [flushByte_other read h, List.find?_eq_none.mpr]
  intro t ht hh
  rw [Bool.and_eq_true, beq_iff_eq] at hh
  exact hn ⟨t, (List.mem_filter.mp ht).1, (List.mem_filter.mp ht).2, hh⟩

/-! ### The end of a flush (R93) -/

/-- R93: the buffer of a flush that ended, in a state and with a dirty-since time. -/
def flushedBuf (x : TrackBuffer) (m : MountRecord) (k : TrackKey) (failed : List Nat) (state : BufferState)
    (since : Option Nat) : TrackBuffer :=
  { x with
    state := state, dirtySince := since, reDirtied := false, evict := false, work := none
    sectors := x.sectors.map (fun t =>
      { t with
        dirty := t.dirty || (t.inFlush
          && failed.any (fun b => m.dataTouches k x.dataLen t b || m.flagTouches k t b))
        inFlush := false }) }

/-- R93: the end of a flush by what its runs and its writers did. -/
theorem endFlush_eq {d : Device} {i : Nat} {k : TrackKey} {m : MountRecord} {w : Work} (hk : (d.buf i).key = some k)
    (hw : (d.buf i).work = some w) (hm : d.images.get k.unit = some m) :
    (w.failed = [] → (d.buf i).reDirtied = false →
      d.endFlush i = d.setBuf i (flushedBuf (d.buf i) m k w.failed .clean none))
    ∧ (w.failed = [] → (d.buf i).reDirtied = true → ∀ e : Device,
      e = d.setBuf i (flushedBuf (d.buf i) m k w.failed .dirty (d.buf i).dirtySince) →
      d.endFlush i = if e.joinsWhenDirty i = true ∨ (e.buf i).expired d.now = true then e.joinQueue i else e)
    ∧ (w.failed ≠ [] → ∀ e : Device,
      e = d.setBuf i (flushedBuf (d.buf i) m k w.failed .dirty (some d.now)) →
      d.endFlush i = if e.flushNames k.unit = true then e.finishCommand .failed .cardError else e) := by
  have he : d.endFlush i = (let d1 := d.setBuf i (((d.buf i).returnDirty m k w.failed).afterFlush d.now (!w.failed.isEmpty))
      let d2 := if !(!w.failed.isEmpty) && (d.buf i).reDirtied && (d1.joinsWhenDirty i || (d1.buf i).expired d.now) then
          d1.joinQueue i else d1
      if (!w.failed.isEmpty) && d2.flushNames k.unit then d2.finishCommand .failed .cardError else d2) := by
    unfold Device.endFlush
    dsimp only
    split
    · next k' w' hk' hw' =>
      obtain rfl : k = k' := Option.some.inj (hk.symm.trans hk')
      obtain rfl : w = w' := Option.some.inj (hw.symm.trans hw')
      rw [hm]
    · next h => exact absurd hw (h k w hk)
  rw [he]
  dsimp only
  refine ⟨fun hf hr => ?_, fun hf hr e hE => ?_, fun hf e hE => ?_⟩
  · have hb : ((d.buf i).returnDirty m k w.failed).afterFlush d.now (!w.failed.isEmpty)
        = flushedBuf (d.buf i) m k w.failed .clean none := by
      rw [hf]
      exact if_neg (show ¬ (d.buf i).reDirtied = true from Bool.eq_false_iff.mp hr)
    rw [hb, hf, hr]
    rfl
  · have hb : ((d.buf i).returnDirty m k w.failed).afterFlush d.now (!w.failed.isEmpty)
        = flushedBuf (d.buf i) m k w.failed .dirty (d.buf i).dirtySince := by
      rw [hf]
      exact if_pos (show (d.buf i).reDirtied = true from hr)
    rw [hb, ← hE, hf, hr]
    exact (if_neg Bool.false_ne_true).trans (if_congr (Bool.or_eq_true_iff ..) rfl rfl)
  · have hb : ((d.buf i).returnDirty m k w.failed).afterFlush d.now (!w.failed.isEmpty)
        = flushedBuf (d.buf i) m k w.failed .dirty (some d.now) := by
      obtain ⟨a, l, hl⟩ := List.exists_cons_of_ne_nil hf
      rw [hl]
      rfl
    rw [hb, ← hE]
    obtain ⟨a, l, hl⟩ := List.exists_cons_of_ne_nil hf
    rw [hl]
    rfl

/-- R93 f: an ended flush has its buffer join the queue where a trigger holds. -/
theorem joinsWhenDirty_iff {d : Device} {i : Nat} {k : TrackKey} (hk : (d.buf i).key = some k) :
    d.joinsWhenDirty i = true ↔ d.bufCurrent i = false ∨ (d.seq.pending.get k.unit).isSome = true
      ∨ d.flushNames k.unit = true := by
  unfold Device.joinsWhenDirty
  rw [hk, Bool.or_eq_true, Bool.not_eq_true']
  exact or_congr_right (Bool.or_eq_true_iff ..)

theorem expired_iff (x : TrackBuffer) (now : Nat) :
    x.expired now = true ↔ ∃ t, x.dirtySince = some t ∧ t + 2000000 ≤ now := by
  unfold TrackBuffer.expired
  cases x.dirtySince with
  | none => exact ⟨nofun, nofun⟩
  | some t =>
    exact (decide_eq_true_iff (p := t + 2000000 ≤ now)).trans
      ⟨fun h => ⟨t, rfl, h⟩, fun ⟨_, h, g⟩ => Option.some.inj h ▸ g⟩

/-- R88: a DIRTY buffer joins the queue, at its tail, unless it stands there. -/
theorem joinQueue_dirty {d : Device} {i : Nat} (hs : (d.buf i).state = .dirty) :
    (i ∉ d.pool.queue → d.joinQueue i = { d with pool := { d.pool with queue := d.pool.queue ++ [i] } })
    ∧ (i ∈ d.pool.queue → d.joinQueue i = d) := by
  unfold Device.joinQueue
  rw [hs]
  refine ⟨fun h => if_pos ?_, fun h => if_neg ?_⟩
  · rw [Bool.eq_false_iff.mpr (mt List.contains_iff_mem.mp h)]
    rfl
  · rw [List.contains_iff_mem.mpr h]
    exact nofun

/-- R177 e: a FLUSH that names the unit ends FAILED. -/
theorem finishCommand_of_flushNames {d : Device} {u : UnitId} (h : d.flushNames u = true) (cls : TermClass)
    (detail : Detail) : d.finishCommand cls detail = { d with port := { d.port with
      engine := .result { cls := cls, detail := detail, code := 0x33, bytes := [] } } } := by
  unfold Device.flushNames at h
  unfold Device.finishCommand
  split at h
  · next he =>
    rw [he]
    rfl
  · exact nomatch h

/-- Settles O30: the parts are `flushReady`, the snapshot, the runs, the blocks and their bytes, and the end. -/
theorem aFlushStarts : Obligations.AFlushStarts := by
  unfold Obligations.AFlushStarts
  refine ⟨fun s u h => Follows.answers ?_ id, fun s u i k m hs hf hk hm hmine => ?_, fun x m k => snapshot_eq x m k,
    fun d i k m w card n hs hk hw hm => ?_, fun m k x b hl => ?_, fun m k size t b => m.touches_iff k size t b,
    fun d i k m w hk hw hm => ?_⟩
  · show s.dev.onFlushStart u = _
    unfold Device.onFlushStart
    rw [flushReady_none h]
  · obtain ⟨he, ho⟩ := flushEntry_eq hmine
    obtain ⟨k', hk', hu⟩ := (ownedBy_iff s.dev i u).mp ho
    obtain rfl : k = k' := Option.some.inj (hk.symm.trans hk')
    refine ⟨hu, Follows.leads ?_⟩
    show s.dev.onFlushStart u = _
    unfold Device.onFlushStart
    rw [flushReady_some hs hf he]
    unfold Device.startFlush
    dsimp only
    rw [hk]
    dsimp only
    rw [hu, hm]
    rfl
  · intro put rest lost
    obtain ⟨h1, h2, h3⟩ := deliver_flushing (card := card) (n := n) hs hk hw hm
    have hlost := loseBlocks_flushing n hs hk hw hm
    exact ⟨fun h => ⟨h1 h, (h3 (.inl h)).trans hlost⟩, fun h => ⟨h2 h, (h3 (.inr h)).trans hlost⟩⟩
  · intro stores isData isFlag carries whole
    have hdata : ∀ o, (∃ t ∈ x.sectors, t.stores = true ∧ m.holds k x.dataLen t o = true)
        ↔ ∃ t ∈ x.sectors, stores t ∧ isData t o := fun o =>
      exists_congr fun t => and_congr_right fun _ => and_congr (stores_iff t) (holds_iff m k x.dataLen t o)
    have hcarries : (∃ t ∈ x.sectors, t.stores = true ∧ m.dataTouches k x.dataLen t b = true) ↔ carries :=
      exists_congr fun t => and_congr_right fun _ => and_congr (stores_iff t) ((dataTouches_iff_byte m k x.dataLen t b).trans
        (exists_congr fun j => and_congr_right fun _ => holds_iff m k x.dataLen t _))
    have hwhole : wholeBlock m k x b = true ↔ whole := (wholeBlock_iff m k x b).trans
      (and_congr_right fun _ => forall_congr' fun j => imp_congr_right fun _ => hdata _)
    have hflags : (∃ t ∈ x.sectors, t.stores = true ∧ m.flagTouches k t b = true)
        ↔ ∃ t ∈ x.sectors, stores t ∧ ∃ j < 512, isFlag t (b * 512 + j) :=
      exists_congr fun t => and_congr_right fun _ => and_congr (stores_iff t) ((flagTouches_iff_byte m k t b).trans
        ⟨fun ⟨h, j, hj, e⟩ => ⟨j, hj, h, e⟩, fun ⟨j, hj, h, e⟩ => ⟨h, j, hj, e⟩⟩)
    obtain ⟨h1, h2⟩ := mem_flushBlocks_iff m k x b hl
    refine ⟨h1.trans (and_congr hcarries hwhole), h2.trans (or_congr (and_congr hcarries (not_congr hwhole)) hflags),
      fun read j hj => ⟨flushBlockBytes_whole m k x b read hj, fun h => ?_, fun h => ⟨fun t ht hs hf nd => ?_, fun hn => ?_⟩⟩⟩
    · rw [flushBlockBytes_partial m k x b read hj, flushByte_data _ ((hdata _).mpr h)]
    · rw [flushBlockBytes_partial m k x b read hj,
        flushByte_flag _ (mt (hdata _).mp h) nd ht ((stores_iff t).mpr hs) hf.1 hf.2]
    · rw [flushBlockBytes_partial m k x b read hj, flushByte_card _ (mt (hdata _).mp h) fun ⟨t, ht, hs, hf⟩ =>
        hn ⟨t, ht, (stores_iff t).mp hs, hf⟩]
  · intro x ended
    obtain ⟨h1, h2, h3⟩ := endFlush_eq hk hw hm
    have hlt := buf_lt_of_key hk
    refine ⟨fun ho hn hf ht hs => ?_, h1, fun hf hr => ?_, fun hf => ?_⟩
    · have hwork : d.workOn i = d.endFlush i := by
        unfold Device.workOn
        rw [hk, hw]
        dsimp only
        rw [ht]
        exact if_neg fun g => hs (beq_iff_eq.mp g)
      unfold Device.micro
      rw [ho, hn]
      dsimp only
      rw [hf, ← hwork]
      rfl
    · intro e joins
      have he : e.buf i = flushedBuf x m k w.failed .dirty x.dirtySince := setBuf_self hlt _
      have hkey : (e.buf i).key = some k := (congrArg TrackBuffer.key he).trans hk
      have hstate : (e.buf i).state = .dirty := congrArg TrackBuffer.state he
      have hj : e.joinsWhenDirty i = true ∨ (e.buf i).expired d.now = true ↔ joins := by
        rw [joinsWhenDirty_iff hkey, expired_iff, he]
        simp only [or_assoc]
        exact Iff.rfl
      obtain ⟨hq1, hq2⟩ := joinQueue_dirty hstate
      have hend := h2 hf hr e rfl
      refine ⟨fun hjo hq => (hend.trans (if_pos (hj.mpr hjo))).trans (hq1 hq), fun h => ?_⟩
      by_cases hjo : joins
      · exact (hend.trans (if_pos (hj.mpr hjo))).trans (hq2 (h.resolve_left (not_not.mpr hjo)))
      · exact hend.trans (if_neg (mt hj.mp hjo))
    · have hend := h3 hf _ rfl
      refine ⟨fun hn => hend.trans (if_neg (Bool.eq_false_iff.mp hn)), fun hn => ?_⟩
      exact (hend.trans (if_pos hn)).trans (finishCommand_of_flushNames (d := d.setBuf i (flushedBuf x m k w.failed .dirty (some d.now)))
        (u := k.unit) hn _ _)

/-- What becomes of the queue alone makes nothing owed. -/
theorem queue_rest (d : Device) (q : List Nat) (h : d.micro = none) :
    Device.micro { d with pool := { d.pool with queue := q } } = none :=
  SameWork.quiet (SameWork.of_bufs (d := d) rfl (fun _ => ⟨rfl, rfl, rfl, rfl⟩) (fun _ => Iff.rfl) rfl rfl rfl rfl rfl
    (fun _ => ⟨rfl, rfl, rfl⟩) rfl h) h

/-- R89: at the expiry time has run, and the buffer joins the queue. -/
theorem onDirtyExpiry_eq {d : Device} {i t : Nat} (h : (d.buf i).dirtySince = some t) :
    d.onDirtyExpiry i = (d.advance (t + 2000000 - d.now)).joinQueue i := by
  unfold Device.onDirtyExpiry
  rw [h]
  rfl

/-- R89: the part that answers an expiry, with the length of the stretch under a name. -/
theorem expiry_answers (s : State) (i : Fin 8) (t : Nat) (ht : (s.dev.buf i).dirtySince = some t) (d : Device)
    (n : Nat) (hn : n = t + 2000000 - s.dev.now) (hd : d = s.dev.advance n) :
    ((s.dev.buf i).state = .dirty → i.val ∉ s.dev.pool.queue →
      Answers (.dirtySinceExpiry i) s { d with pool := { d.pool with queue := d.pool.queue ++ [i.val] } })
    ∧ ((s.dev.buf i).state ≠ .dirty ∨ i.val ∈ s.dev.pool.queue → Answers (.dirtySinceExpiry i) s d) := by
  have he : effect (.dirtySinceExpiry i) s.dev = d.joinQueue i.val := by
    rw [hd, hn]
    exact onDirtyExpiry_eq ht
  have hrest : s.dev.AtRest → d.micro = none := fun h => by
    rw [hd]
    exact adv_rest s.dev n h
  have hb : d.pool = s.dev.pool := by rw [hd, Device.advance_pool]
  have hbuf : d.buf i = s.dev.buf i := congrArg (fun p : Pool => p.buffers.getD i TrackBuffer.free) hb
  rw [← hbuf, ← hb]
  refine ⟨fun hs hq => Follows.answers (he.trans ((joinQueue_dirty hs).1 hq)) fun h => queue_rest d _ (hrest h),
    fun h => Follows.answers (he.trans ?_) hrest⟩
  by_cases hs : (d.buf i).state = .dirty
  · exact (joinQueue_dirty hs).2 (h.resolve_left (not_not.mpr hs))
  · exact if_neg fun g => hs (beq_iff_eq.mp (Bool.and_eq_true_iff.mp g).1)

/-- Settles O31: time runs to the expiry, and a DIRTY buffer joins the queue. -/
theorem anExpiryQueuesItsBuffer : Obligations.AnExpiryQueuesItsBuffer := by
  unfold Obligations.AnExpiryQueuesItsBuffer
  refine ⟨fun s i t ht => expiry_answers s i t ht _ _ rfl rfl, fun s i hn => Follows.answers ?_ id⟩
  show s.dev.onDirtyExpiry i.val = _
  unfold Device.onDirtyExpiry
  rw [hn]

end Sys2Proof.Proofs
end

section
namespace Sys2Proof.Proofs
open Sys2Proof Sys2Proof.Machine

/-! ### A requester withdraws (R137) -/

/-- What the withdrawing of requesters leaves: the card's record, the banks and the news may change, and without a
waiting CARD_RESET only the requests of those requesters are gone. -/
def Withdrawn (gone : Requester → Prop) (d e : Device) : Prop := ∃ k b n, e = { d with card := k, banks := b, news := n }
  ∧ (d.card.resetWaits = false → k.resetWaits = false ∧ n = d.news
    ∧ ∀ q, q ∈ k.requests ↔ q ∈ d.card.requests ∧ ¬ gone q.who)

theorem Withdrawn.refl (d : Device) : Withdrawn (fun _ => False) d d :=
  ⟨d.card, d.banks, d.news, rfl, fun h => ⟨h, rfl, fun _ => (and_iff_left not_false).symm⟩⟩

theorem Withdrawn.trans {g g' : Requester → Prop} {d e f : Device} (h : Withdrawn g d e) (h' : Withdrawn g' e f) :
    Withdrawn (fun w => g w ∨ g' w) d f := by
  obtain ⟨k, b, n, rfl, hk⟩ := h
  obtain ⟨k', b', n', rfl, hk'⟩ := h'
  refine ⟨k', b', n', rfl, fun hr => ?_⟩
  obtain ⟨hw, hn, hq⟩ := hk hr
  obtain ⟨hw', hn', hq'⟩ := hk' hw
  exact ⟨hw', hn'.trans hn, fun q => by rw [hq' q, show q ∈ ({ d with card := k, banks := b, news := n } : Device).card.requests
    ↔ _ from hq q, not_or, and_assoc]⟩

theorem withdrawn_withdraw (d : Device) (w : Requester) : Withdrawn (fun x => x = w) d (d.withdraw w) := by
  have hm : ∀ q, q ∈ d.card.requests.filter (fun r => r.who != w) ↔ q ∈ d.card.requests ∧ ¬ q.who = w := fun q => by
    rw [List.mem_filter, bne_iff_ne]
  unfold Device.withdraw Device.dropRetry
  dsimp only
  split
  · split
    · rw [afterRun_eq]
      split
      · next hr => exact ⟨_, _, _, rfl, fun h => nomatch h.symm.trans hr⟩
      · exact ⟨_, _, _, rfl, fun h => ⟨h, rfl, hm⟩⟩
    · exact ⟨_, _, _, rfl, fun h => ⟨h, rfl, hm⟩⟩
  · exact ⟨_, _, _, rfl, fun h => ⟨h, rfl, hm⟩⟩

theorem withdrawn_foldl : ∀ (is : List Nat) (d : Device),
    Withdrawn (fun x => ∃ i ∈ is, x = .buffer i) d (is.foldl (fun (x : Device) i => x.withdraw (.buffer i)) d)
  | [], d => ⟨d.card, d.banks, d.news, rfl, fun h => ⟨h, rfl, fun _ => (and_iff_left nofun).symm⟩⟩
  | i :: is, d => by
    obtain ⟨k, b, n, he, hk⟩ := (withdrawn_withdraw d (.buffer i)).trans (withdrawn_foldl is (d.withdraw (.buffer i)))
    refine ⟨k, b, n, he, fun hr => ?_⟩
    obtain ⟨hw, hn, hq⟩ := hk hr
    refine ⟨hw, hn, fun q => (hq q).trans (and_congr_right fun _ => not_congr ?_)⟩
    exact ⟨fun h => h.elim (fun e => ⟨i, List.mem_cons_self, e⟩) fun ⟨j, hj, e⟩ => ⟨j, List.mem_cons_of_mem _ hj, e⟩,
      fun ⟨j, hj, e⟩ => (List.mem_cons.mp hj).elim (fun g => .inl (g ▸ e)) fun g => .inr ⟨j, g, e⟩⟩

/-! ### A unit is abandoned (R160 step 1) -/

/-- R160 step 1: the unit's buffers are FREE, and their requests, waits and queue entries are gone. -/
theorem abandonUnit_spec (d : Device) (u : UnitId) : ∃ k b n c p,
    d.abandonUnit u = { d with card := k, banks := b, news := n, freeCount := c, pool := p }
    ∧ (d.card.resetWaits = false → k.resetWaits = false ∧ n = d.news ∧ ∀ q, q ∈ k.requests ↔
      q ∈ d.card.requests ∧ q.who ≠ .window u ∧ ∀ i < 8, d.ownedBy i u = true → q.who ≠ .buffer i)
    ∧ p.waits = d.pool.waits.filter (fun k => k.unit != u)
    ∧ (∀ j, p.buf j = if (j < 8 ∧ d.ownedBy j u = true) ∧ (d.buf j).state ≠ .free then TrackBuffer.free else d.buf j)
    ∧ ∀ j, j ∈ p.queue ↔ j ∈ d.pool.queue ∧ ¬ ((j < 8 ∧ d.ownedBy j u = true) ∧ (d.buf j).state ≠ .free) := by
  obtain ⟨k, b, n, he, hk⟩ := (withdrawn_foldl (bufferIds.filter (fun i => d.ownedBy i u)) d).trans
    (withdrawn_withdraw _ (.window u))
  obtain ⟨c, p, hp, hw, hb, hq⟩ := freeAll_spec { d with card := k, banks := b, news := n }
    (bufferIds.filter (fun i => d.ownedBy i u))
  have hmine : ∀ j, j ∈ bufferIds.filter (fun i => d.ownedBy i u) ↔ j < 8 ∧ d.ownedBy j u = true := fun j => by
    rw [List.mem_filter]
    exact and_congr_left fun _ => List.mem_range
  refine ⟨k, b, n, c, { p with waits := d.pool.waits.filter (fun k => k.unit != u) }, ?_, fun hr => ?_, rfl, fun j => ?_,
    fun j => ?_⟩
  · unfold Device.abandonUnit
    dsimp only
    rw [he, hp]
    exact congrArg (fun ws : List TrackKey => { d with card := k, banks := b, news := n, freeCount := c, pool :=
      { p with waits := ws.filter (fun k => k.unit != u) } }) hw
  · obtain ⟨hw', hn, hq'⟩ := hk hr
    refine ⟨hw', hn, fun q => (hq' q).trans (and_congr_right fun _ => ?_)⟩
    rw [not_or, and_comm]
    refine and_congr_right fun _ => ⟨fun h i hi ho e => h ⟨i, (hmine i).mpr ⟨hi, ho⟩, e⟩, fun h ⟨i, hi, e⟩ => ?_⟩
    exact h i ((hmine i).mp hi).1 ((hmine i).mp hi).2 e
  · exact (hb j).trans (if_congr (and_congr_left fun _ => hmine j) rfl rfl)
  · exact (hq j).trans (and_congr_right fun _ => not_congr (and_congr_left fun _ => hmine j))

/-! ### An application (R160, R161) -/

/-- R160 step 3: protect after the protect part of a change. -/
def protectStep (c : Change) (readOnly p : Bool) : Bool :=
  match c.protect with
  | some v => if v = false ∧ readOnly = true then p else v
  | none => p

/-- R160 step 2: the record that an image part leaves mounted, and the protect that it sets. -/
def partImage : ImagePart → Option MountRecord
  | .mount m _ => some m
  | .eject => none

def partProtect : ImagePart → Bool
  | .mount _ p => p
  | .eject => false

/-- R160 steps 2, 3, 5: the unit's record after an image part. -/
def appliedRecord (r : UnitRecord) (c : Change) (part : ImagePart) : UnitRecord :=
  { r with
    protect := protectStep c ((partImage part).any (fun m => m.readOnly)) (partProtect part)
    latch := true, applied := true }

/-- R160: the part once an image part is applied to a unit whose buffers are abandoned. -/
def appliedTo (x : Device) (u : UnitId) (c : Change) (part : ImagePart) : Device :=
  { x with
    units := x.units.set u (appliedRecord (x.units.get u) c part), images := x.images.set u (partImage part)
    windows := x.windows.set u (ExtentWindow.empty (match partImage part with
      | some m => m.chainStart
      | none => ChainPos.zero)) }

theorem modUnit_modUnit (d : Device) (u : UnitId) (f g : UnitRecord → UnitRecord) :
    (d.modUnit u f).modUnit u g = d.modUnit u (fun r => g (f r)) := by
  unfold Device.modUnit
  cases u <;> rfl

theorem modUnit_modWindow (d : Device) (u : UnitId) (f : UnitRecord → UnitRecord) (g : ExtentWindow → ExtentWindow) :
    (d.modUnit u f).modWindow u g = (d.modWindow u g).modUnit u f := rfl

theorem applyImage_eq (x : Device) (u : UnitId) (part : ImagePart) : x.applyImage u part
    = (x.setImage u (partImage part)).modUnit u (fun r => { r with protect := partProtect part }) := by
  cases part <;> rfl

/-- R160 step 3: a protect part on a unit with the image `m`. -/
theorem applyProtect_eq (d : Device) (u : UnitId) (c : Change) : d.applyProtect u c.protect
    = d.modUnit u (fun r => { r with protect := protectStep c ((d.images.get u).any (fun m => m.readOnly)) r.protect }) := by
  have hr : d.readOnlyImage u = (d.images.get u).any (fun m => m.readOnly) := by
    unfold Device.readOnlyImage
    cases d.images.get u <;> rfl
  have hself : d.modUnit u (fun r => r) = d := modUnit_self rfl
  unfold Device.applyProtect protectStep
  cases c.protect with
  | none => exact hself.symm
  | some v =>
    dsimp only
    rw [hr]
    by_cases h : v = false ∧ (d.images.get u).any (fun m => m.readOnly) = true
    · have hv : (!v && (d.images.get u).any (fun m => m.readOnly)) = true := by rw [h.1, h.2]; rfl
      simp only [if_pos h]
      rw [if_pos hv]
      exact hself.symm
    · have hv : ¬ (!v && (d.images.get u).any (fun m => m.readOnly)) = true := fun g => by
        rw [Bool.and_eq_true, Bool.not_eq_true'] at g
        exact h g
      simp only [if_neg h]
      rw [if_neg hv]

theorem applyStages_eq (x : Device) (u : UnitId) (c : Change) (part : ImagePart) :
    (((((x.applyImage u part).modWindow u (fun _ => ExtentWindow.empty ((x.applyImage u part).chainStart u))).modUnit u
      (fun r => { r with latch := true })).applyProtect u c.protect).modUnit u (fun r => { r with applied := true }))
      = appliedTo x u c part := by
  have hi : (x.applyImage u part).images.get u = partImage part := by
    rw [applyImage_eq]
    exact Device.setImage_get x u _
  rw [applyProtect_eq]
  dsimp only [Device.modUnit_images, Device.modWindow_images]
  rw [hi]
  unfold Device.chainStart
  rw [hi, applyImage_eq]
  rw [modUnit_modWindow, modUnit_modUnit, modUnit_modUnit, modUnit_modUnit]
  rfl

/-- R161: the displacement changes the Loader Port alone, and that just when a sector command waits on the unit. -/
theorem displaceSectors_port (d : Device) (detail : Detail) (acts : TrackKey → Bool) :
    d.displaceSectors detail acts = { d with port := (d.displaceSectors detail acts).port } := by
  unfold Device.displaceSectors Device.finishCommand
  split
  · split
    · split <;> rfl
    · rfl
  · rfl

theorem displaceSectors_sectors {d : Device} {x : SectorCmd} (h : d.port.engine = .executing (.sectors x)) (detail : Detail)
    (acts : TrackKey → Bool) : (d.displaceSectors detail acts).port = if acts x.key = true then { d.port with
      engine := .result ⟨.displaced, detail, Command.code (.sectors x), []⟩ } else d.port := by
  have hk : d.commandKey = some x.key := (commandKey_iff d x.key).mpr ⟨x, h, rfl⟩
  unfold Device.displaceSectors Device.finishCommand
  rw [hk, h]
  dsimp only
  split <;> rfl

theorem displaceSectors_other {d : Device} (h : ∀ x, d.port.engine ≠ .executing (.sectors x)) (detail : Detail)
    (acts : TrackKey → Bool) : d.displaceSectors detail acts = d := by
  unfold Device.displaceSectors
  split
  · next k hk =>
    obtain ⟨x, hx, -⟩ := (commandKey_iff d k).mp hk
    exact absurd hx (h x)
  · rfl

/-- R160: the application of an image part. -/
theorem applyChange_image (d : Device) (u : UnitId) (c : Change) {part : ImagePart} (h : c.image = some part) :
    d.applyChange u c = (Device.withNotice d u true
      (appliedTo ((d.displaceSectors .imageChanged (fun k => k.unit == u)).abandonUnit u) u c part)).setPending u none := by
  rw [← applyStages_eq]
  unfold Device.applyChange Device.applyImageStage
  rw [h]
  rfl

/-- R160 step 3: the application of a protect part alone. -/
theorem applyChange_protect (d : Device) (u : UnitId) (c : Change) (h : c.image = none) : d.applyChange u c = { d with
    units := d.units.set u { d.units.get u with
      protect := protectStep c ((d.images.get u).any (fun m => m.readOnly)) (d.units.get u).protect, applied := true }
    seq := { d.seq with pending := d.seq.pending.set u none } } := by
  unfold Device.applyChange Device.applyImageStage
  rw [h]
  dsimp only
  rw [applyProtect_eq, modUnit_modUnit]
  rfl

/-- R160, R161: what an application of an image part leaves, ahead of its notice. -/
theorem appliedTo_spec (d : Device) (u : UnitId) (c : Change) (part : ImagePart) : ∃ k b n f p,
    appliedTo ((d.displaceSectors .imageChanged (fun k => k.unit == u)).abandonUnit u) u c part = { d with
      card := k, banks := b, news := n, freeCount := f, pool := p
      port := (d.displaceSectors .imageChanged (fun k => k.unit == u)).port
      units := d.units.set u (appliedRecord (d.units.get u) c part), images := d.images.set u (partImage part)
      windows := d.windows.set u (ExtentWindow.empty (match partImage part with
        | some m => m.chainStart
        | none => ChainPos.zero)) }
    ∧ (d.card.resetWaits = false → k.resetWaits = false ∧ n = d.news ∧ ∀ q, q ∈ k.requests ↔
      q ∈ d.card.requests ∧ q.who ≠ .window u ∧ ∀ i < 8, d.ownedBy i u = true → q.who ≠ .buffer i)
    ∧ p.waits = d.pool.waits.filter (fun k => k.unit != u)
    ∧ (∀ j, p.buf j = if (j < 8 ∧ d.ownedBy j u = true) ∧ (d.buf j).state ≠ .free then TrackBuffer.free else d.buf j)
    ∧ ∀ j, j ∈ p.queue ↔ j ∈ d.pool.queue ∧ ¬ ((j < 8 ∧ d.ownedBy j u = true) ∧ (d.buf j).state ≠ .free) := by
  rw [displaceSectors_port]
  generalize (d.displaceSectors .imageChanged (fun k => k.unit == u)).port = o
  obtain ⟨k, b, n, f, p, he, hk, hw, hb, hq⟩ := abandonUnit_spec { d with port := o } u
  exact ⟨k, b, n, f, p, by rw [he]; rfl, hk, hw, hb, hq⟩

/-- R160: the unit records after the application of an image part; the notice changes none. -/
theorem applyChange_units (d : Device) (u : UnitId) (c : Change) {part : ImagePart} (h : c.image = some part) :
    (d.applyChange u c).units = d.units.set u (appliedRecord (d.units.get u) c part) := by
  obtain ⟨k, b, n, f, p, hE, -⟩ := appliedTo_spec d u c part
  rw [applyChange_image d u c h]
  exact (follows_withNotice d u true _).settles.units.trans (by rw [hE])

/-- An application leaves the motor as it was. -/
theorem applyChange_motor (d : Device) (u : UnitId) (c : Change) :
    ((d.applyChange u c).units.get u).motor = (d.units.get u).motor := by
  cases h : c.image with
  | none =>
    rw [applyChange_protect d u c h]
    exact (congrArg UnitRecord.motor (PerUnit.get_set_self d.units u _)).trans rfl
  | some part =>
    rw [applyChange_units d u c h]
    exact (congrArg UnitRecord.motor (PerUnit.get_set_self d.units u _)).trans rfl

theorem onApply_eq {d : Device} {u : UnitId} {c : Change} (hp : d.seq.pending.get u = some c) (hc : d.unitClear u = true)
    (hm : (d.units.get u).applyMoment = true) : d.onApply u
      = (d.applyChange u c).modUnit u (fun x => { x with startUsed := (d.units.get u).motor }) := by
  unfold Device.onApply
  rw [hp]
  dsimp only
  rw [hm, hc, ← applyChange_motor d u c]
  rfl

/-- R160: what stands once an image part has been applied and all that follows it is done. -/
theorem applied_settled (d : Device) (u : UnitId) (c : Change) {part : ImagePart} (hc : c.image = some part) (a x : Device)
    (ha : a = (d.applyChange u c).modUnit u (fun x => { x with startUsed := (d.units.get u).motor })) (hx : x = a.settled) :
    (x.now = d.now ∧ x.lines = d.lines
      ∧ x.units = d.units.set u { appliedRecord (d.units.get u) c part with startUsed := (d.units.get u).motor }
      ∧ (x.images.get u).map MountRecord.core = (partImage part).map MountRecord.core
      ∧ x.mounted u.other = d.mounted u.other
      ∧ (d.port.engine.busy = false → x.port = d.port ∧ x.seq = { d.seq with pending := d.seq.pending.set u none }))
    ∧ (d.AtRest → d.card.resetWaits = false → d.captures.get u = none →
      (∀ c, d.captures.get u.other = some c → c.key.unit = u.other) →
      x.images.get u = partImage part ∧ x.seq = { d.seq with pending := d.seq.pending.set u none }) := by
  obtain ⟨k, b, n, f, p, hE, hk, -⟩ := appliedTo_spec d u c part
  have hunits := applyChange_units d u c hc
  rw [applyChange_image d u c hc] at ha hunits
  generalize appliedTo ((d.displaceSectors .imageChanged (fun k => k.unit == u)).abandonUnit u) u c part = e at *
  have hn := (follows_withNotice d u true e).settles
  have hr := same_withNotice d u true e
  have hs : Settles a x := hx ▸ (follows_settled a).settles
  have hnow : a.now = d.now := by
    rw [ha]
    exact hn.now.trans (by rw [hE])
  have hlines : a.lines = d.lines := by
    rw [ha]
    exact hn.lines.trans (by rw [hE])
  have hau : a.units = d.units.set u { appliedRecord (d.units.get u) c part with startUsed := (d.units.get u).motor } := by
    rw [ha]
    show ((Device.withNotice d u true e).setPending u none).units.set u _ = _
    rw [hunits, PerUnit.get_set_self]
    cases u <;> rfl
  have himages : a.images = d.images.set u (partImage part) := by
    rw [ha]
    exact hr.images.trans (by rw [hE])
  have hseq : a.seq = { d.seq with pending := d.seq.pending.set u none } := by
    rw [ha]
    show ({ (Device.withNotice d u true e).seq with pending := (Device.withNotice d u true e).seq.pending.set u none } : Sequencer) = _
    rw [hr.seq, hE]
  have hcore := hs.images u
  have hother := hs.mounted u.other
  refine ⟨⟨hs.now.trans hnow, hs.lines.trans hlines, hs.units.trans hau, ?_, ?_, fun hb => ?_⟩, fun hrest hw hcap ho => ?_⟩
  · rw [hcore, himages, PerUnit.get_set_self]
  · rw [hother]
    unfold Device.mounted
    rw [himages, PerUnit.get_set_other]
  · have hport : e.port = d.port := by
      rw [hE]
      show (d.displaceSectors .imageChanged (fun k => k.unit == u)).port = d.port
      refine (congrArg Device.port (displaceSectors_other (d := d) (fun y hy => ?_) .imageChanged (fun k => k.unit == u)))
      rw [hy] at hb
      exact nomatch hb
    have hap : a.port = d.port := by
      rw [ha]
      exact (hn.idle (by rw [hport]; exact hb)).1.trans hport
    obtain ⟨h1, h2⟩ := hs.idle (by rw [hap]; exact hb)
    exact ⟨h1.trans hap, h2.trans hseq⟩
  · have hnews : a.news = [] := by
      rw [ha]
      exact hr.news.trans (by rw [hE]; exact ((hk hw).2.1.trans ((micro_none_iff d).mp hrest).1))
    have hcaps : a.captures = d.captures := by
      rw [ha]
      exact hr.captures.trans (by rw [hE])
    have hcalm : Calm u a := ⟨fun q hq => absurd (hnews ▸ hq) List.not_mem_nil, by rw [hcaps]; exact hcap, by rw [hcaps]; exact ho⟩
    obtain ⟨-, h1, h2⟩ := still_settled u a hcalm
    rw [hx]
    exact ⟨h1.trans (by rw [himages, PerUnit.get_set_self]), h2.trans hseq⟩

/-- Settles O32: an application is its stages, the notice and the clearing of the change; the test of R159 applies one too. -/
theorem aPendingChangeApplies : Obligations.APendingChangeApplies := by
  unfold Obligations.APendingChangeApplies
  intro step3 record image
  have hstep : step3 = protectStep := by
    funext c r p
    unfold protectStep
    rfl
  have himage : image = partImage := by
    funext part
    cases part <;> rfl
  have hrecord : record = appliedRecord := by
    funext r c part
    dsimp only [record]
    rw [hstep]
    cases part <;> rfl
  rw [hrecord, himage]
  refine ⟨fun s u h => Follows.answers ?_ id, fun s u c hp hcl hmo => ?_, fun d u c => ?_, fun d u => ⟨fun c hc hm hu => ?_,
    fun h => testUnit_eq d u ?_⟩, fun d => ⟨rfl, fun h => tested_eq d fun u => ?_, unitClear_iff d, fun r => ?_⟩⟩
  · show s.dev.onApply u = _
    unfold Device.onApply
    split
    · next c hc =>
      refine if_neg fun g => ?_
      rw [Bool.and_eq_true] at g
      exact h.elim (fun k => nomatch hc.symm.trans k) fun k => k.elim (fun k => nomatch g.2.symm.trans k)
        fun k => nomatch g.1.symm.trans k
    · rfl
  · intro r applied
    have he : effect (.pendingChangeApply u) s.dev = applied := onApply_eq hp hcl hmo
    refine ⟨Follows.leads he, fun hc => Follows.answers he fun hq => ?_, fun part hc => ?_⟩
    · have ha : applied = Device.modUnit { s.dev with
          units := s.dev.units.set u { s.dev.units.get u with
            protect := protectStep c ((s.dev.images.get u).any (fun m => m.readOnly)) (s.dev.units.get u).protect, applied := true }
          seq := { s.dev.seq with pending := s.dev.seq.pending.set u none } } u (fun x => { x with startUsed := r.motor }) := by
        rw [← applyChange_protect s.dev u c hc]
      rw [ha]
      refine modUnit_rest _ u _ (fun _ => ⟨rfl, rfl, rfl⟩) (rest_engine (d := s.dev) rfl rfl rfl rfl rfl rfl (fun v => ?_) rfl hq)
      exact modUnit_keep s.dev u (fun x => { x with
        protect := protectStep c ((s.dev.images.get u).any (fun m => m.readOnly)) x.protect, applied := true })
        (fun _ => ⟨rfl, rfl, rfl⟩) v
    · obtain ⟨hall, hrest⟩ := applied_settled s.dev u c hc applied applied.settled rfl rfl
      have hcap : s.dev.captures.get u = none := ((unitClear_iff s.dev u).mp hcl).2.1
      exact ⟨_, applied.settled, exec_eq _ s, congrArg (fun e : Device => e.settled.tested) he, hall,
        fun h1 h2 h3 => hrest h1 h2 hcap h3⟩
  · intro r
    refine ⟨fun hc => applyChange_protect d u c hc, fun part hc => ?_⟩
    obtain ⟨k, b, n, f, p, hE, hk, hw, hb, hq⟩ := appliedTo_spec d u c part
    refine ⟨_, applyChange_image d u c hc, ?_⟩
    rw [hE]
    refine ⟨⟨rfl, rfl, rfl, rfl, rfl, rfl, ?_⟩, ⟨fun i hi ho hs => ?_, fun i ho => ?_, hw, fun i hi => ?_⟩, fun hr => (hk hr).2.2, ?_⟩
    · cases part <;> rfl
    · exact (hb i).trans (if_pos ⟨⟨hi, ho⟩, hs⟩)
    · exact (hb i).trans (if_neg fun g => Bool.false_ne_true (ho.symm.trans g.1.2))
    · exact (hq i).trans (and_congr_right fun _ => not_congr (and_congr_left fun _ => and_iff_right hi))
    · show (d.displaceSectors .imageChanged (fun k => k.unit == u)).port = _
      have hother : (∀ x, d.port.engine ≠ .executing (.sectors x)) →
          (d.displaceSectors .imageChanged (fun k => k.unit == u)).port = d.port := fun h =>
        congrArg Device.port (displaceSectors_other h _ _)
      cases hen : d.port.engine with
      | idle => exact hother fun x g => nomatch hen.symm.trans g
      | result q => exact hother fun x g => nomatch hen.symm.trans g
      | executing q =>
        cases q with
        | sectors x => exact (displaceSectors_sectors hen _ _).trans (if_congr beq_iff_eq rfl rfl)
        | _ => exact hother fun x g => nomatch hen.symm.trans g
  · unfold Device.testUnit Device.testDue
    rw [hc, hm, hu]
    rfl
  · exact h.elim (.inr ∘ .inl) (fun g => g.elim .inl (.inr ∘ .inr))
  · exact (h u).elim (.inr ∘ .inl) (fun g => g.elim .inl (.inr ∘ .inr))
  · unfold UnitRecord.applyMoment
    simp only [Bool.or_eq_true, Bool.not_eq_true', Bool.and_eq_true, decide_eq_true_iff, beq_iff_eq, and_assoc]

end Sys2Proof.Proofs
end

section
namespace Sys2Proof.Proofs
open Sys2Proof Sys2Proof.Machine

/-! ### Frames that change the Loader Port alone (R164 to R166, R169, R170) -/

/-- A frame fault makes nothing owed. -/
theorem faulted_rest {d : Device} (later : List Byte) (h : d.AtRest) : (d.faulted later).micro = none :=
  setPort_rest (d := d) rfl h

/-- The result of a command that comes to an IDLE engine and ends at once makes nothing owed. -/
theorem answered_rest {d : Device} (hi : d.port.engine = .idle) (code : Byte) (cls : TermClass) (detail : Detail)
    (bytes : List Byte) (h : d.AtRest) : (d.answered code cls detail bytes).micro = none :=
  rest_idle (d := d) rfl rfl rfl rfl rfl rfl (fun _ => ⟨rfl, rfl, rfl⟩) (by rw [hi]; rfl) rfl h

/-- R166: a command that an IDLE engine ends at once answers its result. -/
theorem answers_at_once {s : State} {i : Instr} {code : Byte} {cls : TermClass} {detail : Detail} {bytes : List Byte}
    (hi : s.dev.port.engine = .idle) (he : effect i s.dev = s.dev.openFrame.finish code cls detail bytes) :
    Answers i s (s.dev.answered code cls detail bytes) :=
  Follows.answers he (answered_rest hi code cls detail bytes)

/-- R166 a: with the engine not IDLE a COMMAND frame is dropped with a frame fault. -/
theorem onCommand_of_not_idle {d : Device} (f : Device → Device) (h : d.port.engine ≠ .idle) :
    d.onCommand f = d.faulted [] := by
  unfold Device.onCommand
  dsimp only
  split
  · next g => exact absurd g h
  all_goals rfl

/-- Settles O34: the cursor takes the value of the two bytes, as far as the window goes. -/
theorem aCursorFrameSetsTheCursor : Obligations.ACursorFrameSetsTheCursor := by
  unfold Obligations.ACursorFrameSetsTheCursor
  refine ⟨fun s hi lo rest => ?_, fun s bs h => Follows.answers ?_ (faulted_rest [])⟩
  · intro v
    refine Follows.answers ?_ (setPort_rest (d := s.dev) rfl)
    show (if 8192 < v then (s.dev.openFrame.setCursor 8192).fault else s.dev.openFrame.setCursor v) = _
    by_cases hv : 8192 < v
    · rw [if_pos hv, Nat.min_eq_right (Nat.le_of_lt hv), decide_eq_true hv]
      rfl
    · rw [if_neg hv, Nat.min_eq_left (Nat.not_lt.mp hv), decide_eq_false hv]
      rfl
  · match bs, h with
    | [], _ => rfl
    | [_], _ => rfl

/-- R170: the cursor passes the bytes that the window takes or gives, and a byte at its end is a frame fault. -/
theorem moveCursor_eq (d : Device) (n : Nat) (hf : d.port.frameFault = false) : d.moveCursor n = { d with port := { d.port with
    cursor := d.port.cursor + min n (8192 - d.port.cursor), frameFault := decide (8192 - d.port.cursor < n) } } := by
  have he : d.moveCursor n = if 8192 - d.port.cursor < n
      then (d.setCursor (d.port.cursor + min n (8192 - d.port.cursor))).fault
      else d.setCursor (d.port.cursor + min n (8192 - d.port.cursor)) := rfl
  rw [he]
  by_cases h : 8192 - d.port.cursor < n
  · rw [if_pos h, decide_eq_true h]
    rfl
  · rw [if_neg h, decide_eq_false h, ← hf]
    rfl

/-- Settles O35: the bytes go into the window from the cursor, and no other byte of it changes. -/
theorem aDataInFrameFillsTheWindow : Obligations.ADataInFrameFillsTheWindow := by
  unfold Obligations.ADataInFrameFillsTheWindow
  refine ⟨fun s bs hb => Follows.answers (if_pos hb) (faulted_rest []), fun s bs hb hc => ?_⟩
  intro n
  have hlen : (bs.take (8192 - s.dev.port.cursor)).length = n := by
    rw [List.length_take, Nat.min_comm]
  refine ⟨s.dev.port.window.write s.dev.port.cursor (bs.take (8192 - s.dev.port.cursor)), Mem.wf_write _ _ _, fun i hi => ?_,
    fun a ha => ?_, Follows.answers ?_ (setPort_rest (d := s.dev) rfl)⟩
  · rw [Mem.read_write_in _ _ _ _ (hlen.symm ▸ hi), List.getD_eq_getElem?_getD, List.getD_eq_getElem?_getD,
      List.getElem?_take_of_lt (Nat.lt_of_lt_of_le hi (Nat.min_le_right _ _))]
  · exact Mem.read_write_out _ _ _ _ (by rw [hlen]; exact ha)
  · refine (if_neg (Bool.eq_false_iff.mp hb)).trans ?_
    exact moveCursor_eq _ _ rfl

/-- R170: the bytes of the window from the cursor, with 00 past its end. -/
theorem windowBytes_eq (w : Mem) (a room n : Nat) : w.readRange a (min n room) ++ List.replicate (n - room) 0
    = (List.range n).map (fun i => if i < room then w.read (a + i) else 0) := by
  refine List.ext_getElem ?_ fun i h1 h2 => ?_
  · rw [List.length_append, List.length_replicate, List.length_map, List.length_range, Mem.readRange, List.length_map,
      List.length_range]
    omega
  · rw [List.length_map, List.length_range] at h2
    rw [List.getElem_map, List.getElem_range, List.getElem_append]
    by_cases hi : i < room
    · have hlt : i < (w.readRange a (min n room)).length := by
        rw [Mem.readRange, List.length_map, List.length_range]
        exact Nat.lt_min.mpr ⟨h2, hi⟩
      rw [dif_pos hlt, if_pos hi]
      exact (List.getElem_map _).trans (congrArg (fun j => w.read (a + j)) (List.getElem_range _))
    · have hlt : ¬ i < (w.readRange a (min n room)).length := fun g => by
        rw [Mem.readRange, List.length_map, List.length_range] at g
        exact hi (Nat.lt_min.mp g).2
      rw [dif_neg hlt, if_neg hi, List.getElem_replicate]

/-- Settles O36: the window's bytes go out from the cursor. -/
theorem aDataOutFrameReadsTheWindow : Obligations.ADataOutFrameReadsTheWindow := by
  unfold Obligations.ADataOutFrameReadsTheWindow
  refine ⟨fun s n hb => Follows.answers (if_pos hb) (faulted_rest _), fun s n hb _ => ?_⟩
  intro room
  refine Follows.answers ((if_neg (Bool.eq_false_iff.mp hb)).trans ?_) (setPort_rest (d := s.dev) rfl)
  rw [← windowBytes_eq]
  exact moveCursor_eq _ _ rfl

/-! ### PORT_RESET (R171) -/

theorem afterRun_setPort (d : Device) (p : LoaderPort) :
    Device.afterRun { d with port := p } = { d.afterRun with port := p } := by
  by_cases h : d.card.resetWaits = true
  · have h1 := (afterRun_eq { d with port := p }).trans (if_pos h)
    have h2 := (afterRun_eq d).trans (if_pos h)
    rw [h1, h2]
  · have h1 := (afterRun_eq { d with port := p }).trans (if_neg h)
    have h2 := (afterRun_eq d).trans (if_neg h)
    rw [h1, h2]

/-- A withdrawal does not look at the Loader Port. -/
theorem withdraw_setPort (d : Device) (p : LoaderPort) (w : Requester) :
    Device.withdraw { d with port := p } w = { d.withdraw w with port := p } := by
  unfold Device.withdraw Device.dropRetry
  dsimp only
  cases hr : d.card.retry with
  | none => rfl
  | some x =>
    obtain ⟨run, c⟩ := x
    dsimp only
    by_cases hw : (run.req.who == w) = true
    · rw [if_pos hw, if_pos hw, ← afterRun_setPort]
      rfl
    · rw [if_neg hw, if_neg hw]

/-- R137, R145 a: the request of one that withdraws leaves the set, and a run of it goes on without it. -/
theorem withdraw_card {d : Device} (h : d.card.resetWaits = false) (w : Requester) :
    (d.withdraw w).card.requests = d.card.requests.filter (fun r => r.who != w)
    ∧ (d.withdraw w).card.run = d.card.run.map (fun r => if r.req.who = w then { r with withdrawn := true } else r) := by
  have hf : (fun (r : Run) => if (r.req.who == w) = true then { r with withdrawn := true } else r)
      = fun r => if r.req.who = w then { r with withdrawn := true } else r :=
    funext fun r => if_congr beq_iff_eq rfl rfl
  unfold Device.withdraw Device.dropRetry
  dsimp only
  rw [hf]
  split
  · split
    · rw [afterRun_eq]
      dsimp only [Device.report_card]
      rw [h]
      exact ⟨rfl, rfl⟩
    · exact ⟨rfl, rfl⟩
  · exact ⟨rfl, rfl⟩

/-- Settles O37: the command is abandoned, the port cleared and the group dropped. -/
theorem aPortResetEndsTheCommand : Obligations.APortResetEndsTheCommand := by
  unfold Obligations.APortResetEndsTheCommand
  intro s runs clear
  have hno : runs = false → effect .portReset s.dev = clear s.dev := fun h => by
    show (s.dev.openFrame.abandonCommand.resetPort).setGroup none = _
    have : s.dev.openFrame.abandonCommand = s.dev.openFrame := by
      unfold Device.abandonCommand
      dsimp only [runs] at h
      dsimp only [Device.openFrame_engine]
      revert h
      cases s.dev.port.engine with
      | idle => exact fun _ => rfl
      | result r => exact fun _ => rfl
      | executing c => cases c <;> intro h <;> first | rfl | exact nomatch h
    rw [this]
    rfl
  have hyes : runs = true → effect .portReset s.dev = clear (s.dev.withdraw .engine) := fun h => by
    show (s.dev.openFrame.abandonCommand.resetPort).setGroup none = _
    have : s.dev.openFrame.abandonCommand = s.dev.openFrame.withdraw .engine := by
      unfold Device.abandonCommand
      dsimp only [runs] at h
      dsimp only [Device.openFrame_engine]
      revert h
      cases s.dev.port.engine with
      | idle => exact nofun
      | result r => exact nofun
      | executing c => cases c <;> intro h <;> first | rfl | exact nomatch h
    rw [this, show s.dev.openFrame.withdraw .engine = _ from withdraw_setPort s.dev _ .engine]
    have hp : (s.dev.withdraw .engine).port = s.dev.port := by
      obtain ⟨k, b, n, he, -⟩ := withdrawn_withdraw s.dev .engine
      rw [he]
    unfold Device.resetPort Device.setGroup
    dsimp only [clear]
    rw [hp]
  refine ⟨fun h hb => Follows.answers (hno h) fun hq => ?_, fun h => Follows.leads (hno h), fun h => Follows.leads (hyes h),
    fun h => withdraw_card h .engine⟩
  exact rest_idle (d := s.dev) rfl rfl rfl rfl rfl rfl (fun _ => ⟨rfl, rfl, rfl⟩) hb rfl hq

/-! ### Frames that are dropped (R164 c, R166) -/

/-- Settles O38: frames of no type, frames cut short and codes of no command. -/
theorem badFramesAreDropped : Obligations.BadFramesAreDropped := by
  unfold Obligations.BadFramesAreDropped
  refine ⟨fun s t n ht => Follows.answers ?_ (faulted_rest _), fun s => Follows.answers rfl (faulted_rest []),
    fun s c hc hi => answers_at_once hi ?_⟩
  · exact if_neg (mt List.contains_iff_mem.mp ht)
  · exact (if_neg (mt List.contains_iff_mem.mp hc)).trans (onCommand_of_idle _ hi)

/-- R164, R166: a frame with the type of a COMMAND frame is judged by its command, or lacks its bytes. -/
theorem effect_of_commandFrame {i : Instr} {bs : List Byte} (hw : i.wf = true) (h : encodeFrame i = some (0xC1 :: bs)) :
    i = .commandFrameDropped ∨ ∃ f, ∀ d, effect i d = d.onCommand f := by
  have hhead : ∀ {t : Byte} {l : List Byte}, some (t :: l) = some (0xC1 :: bs) → t = 0xC1 := fun g =>
    (List.cons.inj (Option.some.inj g)).1
  cases i with
  | commandFrameDropped => exact .inl rfl
  | invalidCommand c =>
    refine .inr ⟨fun x => x.refuse c .invalidCommand, fun d => if_neg ?_⟩
    exact fun g => absurd hw (by rw [show Instr.wf (.invalidCommand c) = !commandCodes.contains c from rfl, g]; decide)
  | unknownFrameType t n =>
    rw [show t = 0xC1 from hhead h] at hw
    exact absurd hw Bool.false_ne_true
  | resultFrame n => exact absurd (hhead h) (by decide)
  | cursorFrame l => exact absurd (hhead h) (by decide)
  | dataInFrame l => exact absurd (hhead h) (by decide)
  | dataOutFrame n => exact absurd (hhead h) (by decide)
  | portReset => exact absurd (hhead h) (by decide)
  | configureUnit u e l m k => exact .inr ⟨fun x => x.judgeConfigure u e l m k, fun _ => rfl⟩
  | setInterruptMask m => exact .inr ⟨fun x => x.judgeMask m, fun _ => rfl⟩
  | mount u b p => exact .inr ⟨fun x => x.judgeMount u b.toNat p, fun _ => rfl⟩
  | eject u => exact .inr ⟨fun x => x.judgeEject u, fun _ => rfl⟩
  | setProtect u v => exact .inr ⟨fun x => x.judgeProtect u v, fun _ => rfl⟩
  | hold => exact .inr ⟨Device.judgeHold, fun _ => rfl⟩
  | release => exact .inr ⟨Device.judgeRelease, fun _ => rfl⟩
  | discard => exact .inr ⟨Device.judgeDiscard, fun _ => rfl⟩
  | readSectors u c e r n => exact .inr ⟨_, fun d => (effect_sectors u c e r n 0 d).1⟩
  | writeSectors u c e r n m => exact .inr ⟨_, fun d => (effect_sectors u c e r n m d).2.1⟩
  | verifySectors u c e r n => exact .inr ⟨_, fun d => (effect_sectors u c e r n 0 d).2.2⟩
  | flush u => exact .inr ⟨fun x => x.judgeFlush u, fun _ => rfl⟩
  | readBlocks b n => exact .inr ⟨fun x => x.judgeReadBlocks b.toNat n, fun _ => rfl⟩
  | writeBlocks b n => exact .inr ⟨fun x => x.judgeWriteBlocks b.toNat n, fun _ => rfl⟩
  | cardReset => exact .inr ⟨Device.judgeCardReset, fun _ => rfl⟩
  | unitStatus u => exact .inr ⟨fun x => x.judgeStatus u, fun _ => rfl⟩
  | readBank b => exact .inr ⟨fun x => x.judgeReadBank b, fun _ => rfl⟩
  | clearBank b => exact .inr ⟨fun x => x.judgeClearBank b, fun _ => rfl⟩
  | setBankEnable b c e => exact .inr ⟨fun x => x.judgeBankEnable b c e, fun _ => rfl⟩
  | resume => exact .inr ⟨fun x => x.resume.done 0x63, fun _ => rfl⟩
  | _ => exact nomatch h

/-- Settles O39: no command is judged while the engine is not IDLE. -/
theorem aBusyEngineDropsCommands : Obligations.ABusyEngineDropsCommands := by
  unfold Obligations.ABusyEngineDropsCommands
  intro s i bs hw hf hn
  refine Follows.answers ?_ (faulted_rest [])
  rcases effect_of_commandFrame hw hf with rfl | ⟨f, he⟩
  · rfl
  · rw [he, onCommand_of_not_idle f hn]

end Sys2Proof.Proofs
end

section
namespace Sys2Proof.Proofs
open Sys2Proof Sys2Proof.Machine

/-! ### Parameter bytes outside their fields (R166 d, R180) -/

/-- A byte above a value is none of those up to it. -/
theorem ne_of_lt_toNat {n : Nat} {b : Byte} (h : n < b.toNat) {k : Byte} (hk : k.toNat ≤ n) : b ≠ k := fun e =>
  absurd hk (Nat.not_le.mpr (e ▸ h))

theorem unitParam_none {b : Byte} (h : 1 < b.toNat) : unitParam b = none := by
  unfold unitParam
  rw [if_neg (ne_of_lt_toNat h (by decide)), if_neg (ne_of_lt_toNat h (by decide))]

theorem flagParam_none {b : Byte} (h : 1 < b.toNat) : flagParam b = none := by
  unfold flagParam
  rw [if_neg (ne_of_lt_toNat h (by decide)), if_neg (ne_of_lt_toNat h (by decide))]

theorem modeParam_none {b : Byte} (h : 1 < b.toNat) : modeParam b = none := by
  unfold modeParam
  rw [if_neg (ne_of_lt_toNat h (by decide)), if_neg (ne_of_lt_toNat h (by decide))]

theorem motorParam_none {b : Byte} (h : 2 < b.toNat) : motorParam b = none := by
  unfold motorParam
  rw [if_neg (ne_of_lt_toNat h (by decide)), if_neg (ne_of_lt_toNat h (by decide)), if_neg (ne_of_lt_toNat h (by decide))]

theorem selectParam_none {b : Byte} (h : 3 < b.toNat) : selectParam b = none := by
  unfold selectParam
  rw [if_neg (ne_of_lt_toNat h (by decide)), if_neg (ne_of_lt_toNat h (by decide)), if_neg (ne_of_lt_toNat h (by decide)),
    if_neg (ne_of_lt_toNat h (by decide))]

theorem bankParam_none {b : Byte} (h : 3 < b.toNat) : bankParam b = none := by
  unfold bankParam
  rw [if_neg (ne_of_lt_toNat h (by decide)), if_neg (ne_of_lt_toNat h (by decide)), if_neg (ne_of_lt_toNat h (by decide)),
    if_neg (ne_of_lt_toNat h (by decide))]

theorem flushParam_none {b : Byte} (h : 1 < b.toNat) (hf : b ≠ 0xFF) : flushParam b = none := by
  unfold flushParam
  rw [if_neg (ne_of_lt_toNat h (by decide)), if_neg (ne_of_lt_toNat h (by decide)), if_neg hf]

theorem bankSelectParam_none {b : Byte} (h : 3 < b.toNat) (hf : b ≠ 0xFF) : bankSelectParam b = none := by
  unfold bankSelectParam
  rw [if_neg hf, bankParam_none h]
  rfl

theorem blockCountParam_none {b : Byte} (h : b.toNat = 0 ∨ 16 < b.toNat) : blockCountParam b = none :=
  if_neg fun g => by omega

/-- R182: the causes of a bank are numbered from 1. -/
theorem causeCode_range (c : Cause) : 1 ≤ c.code ∧ c.code ≤ c.bank.causes := by cases c <;> decide

theorem causeParam_none {i : BankId} {b : Byte} (h : b.toNat = 0 ∨ i.causes < b.toNat) : causeParam i b = none := by
  unfold causeParam
  refine List.find?_eq_none.mpr fun c _ g => ?_
  rw [Bool.and_eq_true, beq_iff_eq, beq_iff_eq] at g
  obtain ⟨h1, h2⟩ := causeCode_range c
  rw [g.1] at h2
  omega

/-- R22 a: a configuration is read just when each of its bytes is. -/
theorem configParams_none {e l m k : Byte} (h : 1 < e.toNat ∨ 3 < l.toNat ∨ 2 < m.toNat ∨ 1 < k.toNat) :
    configParams e l m k = none := by
  unfold configParams
  rcases h with h | h | h | h
  · rw [flagParam_none h]
    rfl
  · rw [selectParam_none h]
    cases flagParam e <;> rfl
  · rw [motorParam_none h]
    cases flagParam e <;> cases selectParam l <;> rfl
  · rw [modeParam_none h]
    cases flagParam e <;> cases selectParam l <;> cases motorParam m <;> rfl

/-- R173: the sector command that parameter bytes in their fields stand for. -/
theorem sectorParams_eq_some {op : SectorOp} {u c h r n : Byte} {x : SectorCmd} (hx : sectorParams op u c h r n = some x) :
    unitParam u = some x.key.unit ∧ c.toNat ≤ 83 ∧ x.key.cyl = c.toNat ∧ h.toNat ≤ 1 ∧ x.key.head = h.toNat
    ∧ 1 ≤ n.toNat ∧ n.toNat ≤ 64 ∧ x.count = n.toNat ∧ x.first = r.toNat ∧ x.op = op := by
  unfold sectorParams at hx
  cases hu : unitParam u with
  | none =>
    rw [hu] at hx
    exact nomatch hx
  | some v =>
    rw [hu] at hx
    by_cases hc : c.toNat ≤ 83
    · rw [show cylinderParam c = some c.toNat from if_pos hc] at hx
      by_cases hh : h.toNat ≤ 1
      · rw [show headParam h = some h.toNat from if_pos hh] at hx
        by_cases hn : 1 ≤ n.toNat ∧ n.toNat ≤ 64
        · rw [show sectorCountParam n = some n.toNat from if_pos hn] at hx
          cases hx
          exact ⟨rfl, hc, rfl, hh, rfl, hn.1, hn.2, rfl, rfl, rfl⟩
        · rw [show sectorCountParam n = none from if_neg hn] at hx
          exact nomatch hx
      · rw [show headParam h = none from if_neg hh] at hx
        exact nomatch hx
    · rw [show cylinderParam c = none from if_neg hc] at hx
      exact nomatch hx

/-- R180: the codes of the banks. -/
theorem bankParam_eq_some {b : Byte} {i : BankId} (h : bankParam b = some i) : b = 0 ∧ i = .drive ∨ b = 1 ∧ i = .track
    ∨ b = 2 ∧ i = .map ∨ b = 3 ∧ i = .card := by
  unfold bankParam at h
  split at h
  · next hb => exact .inl ⟨hb, (Option.some.inj h).symm⟩
  split at h
  · next hb => exact .inr (.inl ⟨hb, (Option.some.inj h).symm⟩)
  split at h
  · next hb => exact .inr (.inr (.inl ⟨hb, (Option.some.inj h).symm⟩))
  split at h
  · next hb => exact .inr (.inr (.inr ⟨hb, (Option.some.inj h).symm⟩))
  · exact nomatch h

/-- R166 d, R173: sector parameters out of range are refused. -/
theorem judgeSectorParams_range {op : SectorOp} {u c h r n : Byte} {code : Byte} (d : Device)
    (hcode : ∀ x : SectorCmd, x.op = op → Command.code (.sectors x) = code)
    (hr : 1 < u.toNat ∨ 83 < c.toNat ∨ 1 < h.toNat ∨ n.toNat = 0 ∨ 64 < n.toNat ∨ 255 < r.toNat + n.toNat - 1) :
    judgeSectorParams code (sectorParams op u c h r n) d = d.refuse code .range := by
  cases hx : sectorParams op u c h r n with
  | none => rfl
  | some x =>
    obtain ⟨hu, hc, -, hh, -, hn1, hn2, hcount, hfirst, hop⟩ := sectorParams_eq_some hx
    have hu1 : ¬ 1 < u.toNat := fun g => nomatch (unitParam_none g).symm.trans hu
    have hlong : 256 ≤ x.first + x.count - 1 := by
      rw [hfirst, hcount]
      omega
    show d.judgeSectors x = _
    unfold Device.judgeSectors
    dsimp only
    rw [if_pos hlong, hcode x hop]

/-- Settles O40: each parameter outside its field is refused ahead of any other test. -/
theorem parametersOutOfRangeAreRefused : Obligations.ParametersOutOfRangeAreRefused := by
  unfold Obligations.ParametersOutOfRangeAreRefused
  intro s hi
  have ans : ∀ (i : Instr) (f : Device → Device) (code : Byte), effect i s.dev = s.dev.onCommand f →
      f s.dev.openFrame = s.dev.openFrame.refuse code .range → Answers i s (s.dev.answered code .refused .range []) :=
    fun i f code he hf => answers_at_once hi (he.trans ((onCommand_of_idle f hi).trans hf))
  have hunit : ∀ {b : Byte}, 1 < b.toNat → unitParam b = none := unitParam_none
  refine ⟨fun u e l m k h => ans _ (fun x => x.judgeConfigure u e l m k) _ rfl ?_,
    fun m h => ans _ (fun x => x.judgeMask m) _ rfl ?_, fun u p b h => ans _ (fun x => x.judgeMount u b.toNat p) _ rfl ?_,
    fun u h => ans _ (fun x => x.judgeEject u) _ rfl ?_, fun u v h => ans _ (fun x => x.judgeProtect u v) _ rfl ?_,
    fun u c h r n m => ⟨fun hr => ⟨?_, ?_⟩, fun hr => ?_⟩, fun u h hf => ans _ (fun x => x.judgeFlush u) _ rfl ?_,
    fun b n h => ⟨ans _ (fun x => x.judgeReadBlocks b.toNat n) _ rfl ?_, ans _ (fun x => x.judgeWriteBlocks b.toNat n) _ rfl ?_⟩,
    fun u h => ans _ (fun x => x.judgeStatus u) _ rfl ?_,
    fun b h => ⟨ans _ (fun x => x.judgeReadBank b) _ rfl ?_, fun hf => ans _ (fun x => x.judgeClearBank b) _ rfl ?_⟩,
    fun b c e h => ans _ (fun x => x.judgeBankEnable b c e) _ rfl ?_⟩
  · unfold Device.judgeConfigure
    rcases h with h | h
    · rw [unitParam_none h]
    · rw [configParams_none h]
      cases unitParam u <;> rfl
  · unfold Device.judgeMask maskParam
    rw [if_neg (Nat.not_lt.mpr h)]
  · unfold Device.judgeMount
    rcases h with h | h
    · rw [unitParam_none h]
    · rw [flagParam_none h]
      cases unitParam u <;> rfl
  · unfold Device.judgeEject
    rw [unitParam_none h]
  · unfold Device.judgeProtect
    rcases h with h | h
    · rw [unitParam_none h]
    · rw [flagParam_none h]
      cases unitParam u <;> rfl
  · exact ans _ _ _ (effect_sectors u c h r n m s.dev).1
      (judgeSectorParams_range _ (fun x hx => by cases x; cases hx; rfl) hr)
  · exact ans _ _ _ (effect_sectors u c h r n m s.dev).2.2
      (judgeSectorParams_range _ (fun x hx => by cases x; cases hx; rfl) hr)
  · refine ans _ _ _ (effect_sectors u c h r n m s.dev).2.1 ?_
    by_cases hm : 1 < m.toNat
    · rw [flagParam_none hm]
      rfl
    · cases hb : flagParam m with
      | none => rfl
      | some b => exact judgeSectorParams_range _ (fun x hx => by cases x; cases hx; rfl) (by omega)
  · unfold Device.judgeFlush
    rw [flushParam_none h hf]
  · unfold Device.judgeReadBlocks
    rw [blockCountParam_none h]
  · unfold Device.judgeWriteBlocks
    rw [blockCountParam_none h]
  · unfold Device.judgeStatus
    rw [unitParam_none h]
  · unfold Device.judgeReadBank
    rw [bankParam_none h]
  · unfold Device.judgeClearBank
    rw [bankSelectParam_none h hf]
  · unfold Device.judgeBankEnable
    by_cases hb : 3 < b.toNat
    · rw [bankParam_none hb]
    · by_cases he : 1 < e.toNat
      · rw [flagParam_none he]
        cases bankParam b <;> rfl
      · have hcause : ∀ i : BankId, bankParam b = some i → causeParam i c = none := fun i hbi => by
          refine causeParam_none ?_
          rcases bankParam_eq_some hbi with ⟨rfl, rfl⟩ | ⟨rfl, rfl⟩ | ⟨rfl, rfl⟩ | ⟨rfl, rfl⟩ <;>
            simpa [hb, he, BankId.causes, ← BitVec.toNat_inj] using h
        cases hbp : bankParam b with
        | none => rfl
        | some i =>
          cases flagParam e with
          | none => rfl
          | some v =>
            dsimp only
            rw [hcause i hbp]

end Sys2Proof.Proofs
end

section
namespace Sys2Proof.Proofs
open Sys2Proof Sys2Proof.Machine

/-! ### CONFIGURE_UNIT (R22, R23) -/

/-- R161: with no sector command in execution an application leaves the Loader Port. -/
theorem applyChange_port {d : Device} (h : d.port.engine.busy = false) (u : UnitId) (c : Change) :
    (d.applyChange u c).port = d.port := by
  cases hc : c.image with
  | none => rw [applyChange_protect d u c hc]
  | some part =>
    obtain ⟨k, b, n, f, p, hE, -⟩ := appliedTo_spec d u c part
    rw [applyChange_image d u c hc]
    generalize appliedTo ((d.displaceSectors .imageChanged (fun k => k.unit == u)).abandonUnit u) u c part = e at *
    have he : e.port = d.port := by
      rw [hE]
      show (d.displaceSectors .imageChanged (fun k => k.unit == u)).port = d.port
      exact congrArg Device.port (displaceSectors_other (d := d) (fun y hy => by rw [hy] at h; exact nomatch h)
        .imageChanged (fun k => k.unit == u))
    exact ((follows_withNotice d u true e).settles.idle (by rw [he]; exact h)).1.trans he

theorem revolutionEvent_port {d : Device} (h : d.port.engine.busy = false) (u : UnitId) :
    (d.revolutionEvent u).port = d.port := by
  have hc : (((d.checkReady u).dropCompletion u).closeSection u).port = d.port := by
    unfold Device.checkReady
    split
    · split <;> rfl
    · rfl
  unfold Device.revolutionEvent
  dsimp only [Device.modUnit_port]
  generalize ((d.checkReady u).dropCompletion u).closeSection u = e at *
  unfold Device.applyAtStart
  split
  · split
    · exact (applyChange_port (by rw [hc]; exact h) u _).trans hc
    · exact hc
  · exact hc

theorem takeStarts_port (u : UnitId) : ∀ (n : Nat) {d : Device}, d.port.engine.busy = false → (takeStarts u n d).port = d.port
  | 0, _, _ => rfl
  | n + 1, d, h => by
    have hr := revolutionEvent_port h u
    exact (takeStarts_port u n (by rw [hr]; exact h)).trans hr

/-- R30: with no command in execution the starts that are handed ahead leave the Loader Port. -/
theorem startsBefore_port {d : Device} (h : d.port.engine.busy = false) (change : Device → Device) :
    (d.startsBefore change).port = d.port := by
  have hhand : ∀ (u : UnitId) {x : Device}, x.port.engine.busy = false → (x.handStarts u).port = x.port := fun u _ hx =>
    takeStarts_port u _ hx
  have h0 : (if d.stopsMotor change .u0 then d.handStarts .u0 else d).port = d.port := by
    split
    · exact hhand .u0 h
    · rfl
  unfold Device.startsBefore
  dsimp only
  generalize (if d.stopsMotor change .u0 then d.handStarts .u0 else d) = d1 at *
  split
  · exact (hhand .u1 (by rw [h0]; exact h)).trans h0
  · exact h0

/-- What settles with one Loader Port that executes nothing settles with another. -/
theorem settles_setPort {e t : Device} (h : Settles e t) (hb : e.port.engine.busy = false) (p : LoaderPort) :
    Settles { e with port := p } { t with port := p } where
  now := h.now
  lines := h.lines
  units := h.units
  readData := h.readData
  cursor := rfl
  frameFault := rfl
  mask := rfl
  frameOut := rfl
  idle _ := ⟨rfl, (h.idle hb).2⟩
  cardState := h.cardState
  capacity := h.capacity
  initTime := h.initTime
  run := h.run
  retry := h.retry
  resetWaits := h.resetWaits
  enables := h.enables
  drive := h.drive
  mounted := h.mounted
  images := h.images
  captures := h.captures

theorem change_isEmpty_iff (c : Change) : c.isEmpty = true ↔ c = Change.empty := by
  obtain ⟨image, protect⟩ := c
  cases image <;> cases protect <;> simp [Change.isEmpty, Change.empty]

/-- R22 b: what makes a unit one that is not configured. -/
theorem occupied_iff (d : Device) (u : UnitId) : d.occupied u = true ↔ d.mounted u = true
    ∨ (d.seq.pending.get u).isSome = true ∨ ∃ g, d.seq.group = some g ∧ g.get u ≠ Change.empty := by
  have hs : (!(d.staged u).isEmpty) = true ↔ ∃ g, d.seq.group = some g ∧ g.get u ≠ Change.empty := by
    unfold Device.staged
    cases d.seq.group with
    | none => exact ⟨nofun, fun ⟨_, h, _⟩ => nomatch h⟩
    | some g =>
      rw [Bool.not_eq_true', Bool.eq_false_iff, Ne, change_isEmpty_iff]
      exact ⟨fun h => ⟨g, rfl, h⟩, fun ⟨_, h, k⟩ => Option.some.inj h ▸ k⟩
  unfold Device.occupied Device.carries
  rw [Bool.or_eq_true, Bool.or_eq_true, hs, or_assoc]

theorem lineTaken_iff (d : Device) (u : UnitId) (c : UnitConfig) : d.lineTaken u c = true ↔ c.enabled = true
    ∧ (d.units.get u.other).enabled = true ∧ (d.units.get u.other).selectLine = c.select := by
  unfold Device.lineTaken
  rw [Bool.and_eq_true, Bool.and_eq_true, beq_iff_eq, and_assoc]

/-- Settles O41: the tests of CONFIGURE_UNIT, and the evaluation of the lines with the fields it sets. -/
theorem aUnitIsConfigured : Obligations.AUnitIsConfigured := by
  unfold Obligations.AUnitIsConfigured
  intro s unit e l m k u c hi hu hc carries taken change b
  have he : effect (.configureUnit unit e l m k) s.dev = s.dev.openFrame.judgeConfigure unit e l m k :=
    onCommand_of_idle (fun x => x.judgeConfigure unit e l m k) hi
  have hj : s.dev.openFrame.judgeConfigure unit e l m k = if s.dev.openFrame.occupied u then s.dev.openFrame.refuse 0x10 .mounted
      else if s.dev.openFrame.lineTaken u c then s.dev.openFrame.refuse 0x10 .range
      else (s.dev.openFrame.configure u c).done 0x10 := by
    unfold Device.judgeConfigure
    rw [hu, hc]
  have ho : s.dev.openFrame.occupied u = true ↔ carries := occupied_iff s.dev.openFrame u
  have ht : s.dev.openFrame.lineTaken u c = true ↔ taken := lineTaken_iff s.dev.openFrame u c
  refine ⟨fun h => answers_at_once hi (he.trans (hj.trans (if_pos (ho.mpr h)))),
    fun h g => answers_at_once hi (he.trans (hj.trans ((if_neg (mt ho.mp h)).trans (if_pos (ht.mpr g))))), fun h g => ?_⟩
  have hbusy : s.dev.openFrame.port.engine.busy = false := by
    rw [Device.openFrame_engine, hi]
    rfl
  have hb : b.port = s.dev.openFrame.port := startsBefore_port hbusy change
  have hset : Settles (b.evaluatedPart (change b)) (b.evaluate (change b)) := settles_evaluate b (change b)
  have hpart : (b.evaluatedPart (change b)).port = b.port := by
    rw [evaluatedPart_eq]
    rfl
  have hpb : (b.evaluatedPart (change b)).port.engine.busy = false := by
    rw [hpart, hb]
    exact hbusy
  have heff : effect (.configureUnit unit e l m k) s.dev
      = { b.evaluate (change b) with port := (s.dev.answered 0x10 .done .none []).port } := by
    refine he.trans (hj.trans ((if_neg (mt ho.mp h)).trans ((if_neg (mt ht.mp g)).trans ?_)))
    show Device.done (b.evaluate (change b)) 0x10 = _
    unfold Device.done Device.finish
    rw [(hset.idle hpb).1, hpart, hb]
    rfl
  refine ⟨Follows.reaches ?_, Follows.leads heff⟩
  rw [heff]
  exact settles_setPort hset hpb _

/-! ### MOUNT (R152, R53) -/

/-- R137: the class of a request by a part whose port executes another command that waits on no track. -/
theorem requestClass_setPort {d : Device} {p : LoaderPort} (h : Device.commandKey { d with port := p } = d.commandKey) (q : Request) :
    Device.requestClass { d with port := p } q = d.requestClass q := by
  have hp : Device.purpose { d with port := p } = d.purpose := by
    funext k
    unfold Device.purpose
    rw [h]
    rfl
  unfold Device.requestClass
  rw [hp]
  rfl

theorem waitsD_setPort {d : Device} {p : LoaderPort} (h : Device.commandKey { d with port := p } = d.commandKey) :
    Device.waitsD { d with port := p } = d.waitsD := by
  unfold Device.waitsD
  simp only [requestClass_setPort h]

theorem commandKey_idle {d : Device} (h : d.port.engine = .idle) : d.commandKey = none := by
  unfold Device.commandKey
  rw [h]

/-- R139 a: a request of the Command Engine joins the set, and starts the count anew when no class D request waited. -/
theorem engineRequest_eq {d : Device} (hi : d.port.engine = .idle) (hs : d.card.state = .ready) {p : LoaderPort}
    (hk : Device.commandKey { d with port := p } = none) (q : Request) (hq : q.who = .engine) :
    Device.request { d with port := p } q = { d with port := p, card := { d.card with
      requests := d.card.requests ++ [{ q with time := d.now }]
      grants := if ∃ q ∈ d.card.requests, d.requestClass q = .d then d.card.grants else 0 } } := by
  have hw : Device.waitsD { d with port := p } = d.waitsD := waitsD_setPort (hk.trans (commandKey_idle hi).symm)
  have hc : Device.requestClass { d with port := p } { q with time := d.now } = .d := by
    unfold Device.requestClass
    rw [show ({ q with time := d.now } : Request).who = .engine from hq]
  rw [request_ready (d := { d with port := p }) hs, hw, hc]
  refine congrArg (fun n : Nat => ({ d with port := p, card := { d.card with
    requests := d.card.requests ++ [{ q with time := d.now }], grants := n } } : Device)) ?_
  by_cases h : ∃ q ∈ d.card.requests, d.requestClass q = .d
  · rw [if_pos h, (waitsD_iff d).mpr h]
    rfl
  · rw [if_neg h, Bool.eq_false_iff.mpr (mt (waitsD_iff d).mp h)]
    rfl

/-- Settles O42: MOUNT is refused by the first test that fails, or asks for its header blocks. -/
theorem aMountIsJudged : Obligations.AMountIsJudged := by
  unfold Obligations.AMountIsJudged
  intro s unit protect h u p hi hu hp refused enabled pending
  have he : effect (.mount unit h protect) s.dev = s.dev.openFrame.judgeMount unit h.toNat protect :=
    onCommand_of_idle (fun x => x.judgeMount unit h.toNat protect) hi
  have hj : s.dev.openFrame.judgeMount unit h.toNat protect =
      if !enabled then s.dev.openFrame.refuse 0x20 .unitDisabled
      else if s.dev.banks.offline then s.dev.openFrame.refuse 0x20 .offline
      else if s.dev.card.state ≠ .ready then s.dev.openFrame.refuse 0x20 .cardState
      else if pending then s.dev.openFrame.refuse 0x20 .pending
      else s.dev.openFrame.startMount u h.toNat p := by
    unfold Device.judgeMount
    rw [hu, hp]
    rfl
  rw [hj] at he
  have href : ∀ x, effect (.mount unit h protect) s.dev = s.dev.openFrame.refuse 0x20 x → refused x := fun x hx =>
    answers_at_once hi hx
  refine ⟨fun h1 => href _ ?_, fun h1 h2 => href _ ?_, fun h1 h2 h3 => href _ ?_, fun h1 h2 h3 h4 => href _ ?_,
    fun h1 h2 h3 h4 => ?_⟩
  · rw [he, h1]
    rfl
  · rw [he, h1, h2]
    rfl
  · rw [he, h1, h2]
    exact if_pos h3
  · rw [he, h1, h2, h3, h4]
    rfl
  · have he' : effect (.mount unit h protect) s.dev = s.dev.openFrame.startMount u h.toNat p := by
      rw [he, h1, h2, h3, h4]
      rfl
    refine ⟨fun hr => href _ (he'.trans (if_pos hr)), fun hr => ?_⟩
    refine Follows.answers (he'.trans ((if_neg (Nat.not_le.mpr hr)).trans ?_)) fun hq => ?_
    · exact engineRequest_eq (d := s.dev) hi h3 rfl _ rfl
    · refine rest_ended (d := s.dev) rfl rfl rfl rfl rfl rfl (fun _ => ⟨rfl, rfl, rfl⟩) ?_ rfl hq
      rw [commandKey_idle hi]
      rfl

end Sys2Proof.Proofs
end

section
namespace Sys2Proof.Proofs
open Sys2Proof Sys2Proof.Machine

/-! ### The placing of a change (R158) -/

/-- R137: a header write is never of class D. -/
theorem requestClass_header (d : Device) {q : Request} {u : UnitId} (hq : q.who = .header u) :
    (d.requestClass q == .d) = false := by
  unfold Device.requestClass Device.writeBackClass
  rw [hq]
  dsimp only
  split <;> rfl

/-- R67: what the Loader Port executes plays no part in the request of a header write. -/
theorem requestHeader_setPort (d : Device) (p : LoaderPort) (u : UnitId) :
    Device.requestHeader { d with port := p } u = { d.requestHeader u with port := p } := by
  unfold Device.requestHeader
  dsimp only
  cases d.images.get u with
  | none => rfl
  | some m =>
    dsimp only
    by_cases hk : (m.headerState == .dirty && !d.asked (.header u)) = true
    · rw [if_pos hk]
      refine (if_pos hk).trans ?_
      by_cases hs : d.card.state = .ready
      · have hn : ∀ e : Device, ∀ q : Request, q.who = .header u →
            (if (e.requestClass q == .d && !e.waitsD) = true then 0 else e.card.grants) = e.card.grants := fun e q hq => by
          rw [requestClass_header e hq]
          rfl
        rw [request_ready hs, request_ready (d := { d with port := p }) hs, hn d _ rfl]
        rw [hn { d with port := p } _ rfl]
      · rw [request_not_ready hs, request_not_ready (d := { d with port := p }) hs]
        rfl
    · rw [if_neg hk]
      exact if_neg hk

theorem requestHeader_pool (d : Device) (u : UnitId) : (d.requestHeader u).pool = d.pool := by
  unfold Device.requestHeader Device.request
  split
  · split
    · split <;> rfl
    · rfl
  · rfl

theorem requestHeader_seq (d : Device) (u : UnitId) : (d.requestHeader u).seq = d.seq := by
  unfold Device.requestHeader Device.request
  split
  · split
    · split <;> rfl
    · rfl
  · rfl

/-- R158: a change that is placed stands in the sequencer, has the unit's DIRTY buffers join the queue, and asks for the
header write; the Loader Port plays no part in it. -/
theorem placeChange_setPort (d : Device) (p : LoaderPort) (u : UnitId) (c : Change) :
    ∃ (n : Nat) (joined : List Nat), joined.Nodup
      ∧ (∀ i, i ∈ joined ↔ i < 8 ∧ d.ownedBy i u = true ∧ (d.buf i).state = .dirty ∧ i ∉ d.pool.queue)
      ∧ { d.placeChange u c with port := p } = Device.requestHeader { d with
          port := p
          freeCount := n
          pool := { d.pool with queue := d.pool.queue ++ joined }
          seq := { d.seq with pending := d.seq.pending.set u (some c) } } u := by
  obtain ⟨n, l, hnd, hl, hj⟩ := Device.joinAll_spec (d.setPending u (some c)) (bufferIds.filter (fun i => d.ownedBy i u))
    (List.nodup_range.filter _)
  refine ⟨n, l, hnd, fun i => ?_, ?_⟩
  · rw [hl, List.mem_filter, bufferIds, List.mem_range, and_assoc]
    exact Iff.rfl
  · have he : d.placeChange u c = Device.requestHeader { d with
        freeCount := n
        pool := { d.pool with queue := d.pool.queue ++ l }
        seq := { d.seq with pending := d.seq.pending.set u (some c) } } u := congrArg (Device.requestHeader · u) hj
    rw [he]
    exact (requestHeader_setPort _ p u).symm

/-- The order of the lists, the queue among them, and the free-choice counter settle. -/
theorem settles_lists (d : Device) (n : Nat) (p : Pool) : Settles d { d with freeCount := n, pool := p } where
  now := rfl
  lines := rfl
  units := rfl
  readData := rfl
  cursor := rfl
  frameFault := rfl
  mask := rfl
  frameOut := rfl
  idle _ := ⟨rfl, rfl⟩
  cardState := rfl
  capacity := rfl
  initTime := rfl
  run := rfl
  retry := rfl
  resetWaits := rfl
  enables _ := rfl
  drive := rfl
  mounted _ := rfl
  images _ := rfl
  captures _ := .inl rfl

/-- What a placing leaves beside the change itself settles. -/
theorem settles_placeChange (d : Device) (p : LoaderPort) (u : UnitId) (c : Change) :
    Settles { d with port := p, seq := { d.seq with pending := d.seq.pending.set u (some c) } }
      { d.placeChange u c with port := p } := by
  obtain ⟨n, l, -, -, he⟩ := placeChange_setPort d p u c
  rw [he]
  exact (settles_lists { d with port := p, seq := { d.seq with pending := d.seq.pending.set u (some c) } } n _).trans
    (follows_requestHeader _ u).settles

/-! ### EJECT (R153) -/

theorem hasPending_iff (d : Device) (u : UnitId) : d.hasPending u = true ↔ d.seq.pending.get u ≠ none :=
  Option.isSome_iff_ne_none

theorem staged_of_open {d : Device} {g : PerUnit Change} (h : d.seq.group = some g) (u : UnitId) : d.staged u = g.get u := by
  unfold Device.staged
  rw [h]

theorem setStaged_of_open {d : Device} {g : PerUnit Change} (h : d.seq.group = some g) (u : UnitId) (c : Change) :
    d.setStaged u c = { d with seq := { d.seq with group := some (g.set u c) } } := by
  unfold Device.setStaged
  rw [h]

theorem mounts_iff (c : Change) : c.mounts = true ↔ ∃ m p, c.image = some (.mount m p) := by
  unfold Change.mounts Change.record?
  cases c.image with
  | none => exact ⟨nofun, fun ⟨_, _, h⟩ => nomatch h⟩
  | some part =>
    cases part with
    | eject => exact ⟨nofun, fun ⟨_, _, h⟩ => nomatch h⟩
    | mount m p => exact ⟨fun _ => ⟨m, p, rfl⟩, fun _ => rfl⟩

/-- A frame that ends its command at once, and changes the sequencer beside it, owes nothing more. -/
theorem answered_seq_rest {d : Device} (hi : d.port.engine = .idle) {code : Byte} {cls : TermClass} {detail : Detail}
    {bytes : List Byte} {q : Sequencer} (h : d.AtRest) :
    Device.micro { d.answered code cls detail bytes with seq := q } = none :=
  rest_ended (d := d) rfl rfl rfl rfl rfl rfl (fun _ => ⟨rfl, rfl, rfl⟩) ((commandKey_idle hi).symm ▸ rfl) rfl h

/-- Settles O44: the tests of EJECT, and the change that it places or stages. -/
theorem anEjectIsJudged : Obligations.AnEjectIsJudged := by
  unfold Obligations.AnEjectIsJudged
  intro s unit u hi hu a
  have he : effect (.eject unit) s.dev = s.dev.openFrame.judgeEject unit :=
    onCommand_of_idle (fun x => x.judgeEject unit) hi
  have hj : s.dev.openFrame.judgeEject unit = if s.dev.openFrame.hasPending u then s.dev.openFrame.refuse 0x21 .pending
      else if s.dev.seq.group.isSome then s.dev.openFrame.stageEject u else s.dev.openFrame.placeEject u := by
    unfold Device.judgeEject
    rw [hu]
    rfl
  rw [hj] at he
  refine ⟨fun hp => answers_at_once hi (he.trans (if_pos ((hasPending_iff s.dev u).mpr hp))), fun hp => ?_⟩
  have he' := he.trans (if_neg (mt (hasPending_iff s.dev u).mp (not_not.mpr hp)))
  refine ⟨fun hg => ?_, fun g hg => ?_⟩
  · have heC : effect (.eject unit) s.dev = s.dev.openFrame.placeEject u := he'.trans (by rw [hg]; rfl)
    have hplaced : s.dev.mounted u = true → effect (.eject unit) s.dev =
        { s.dev.openFrame.placeChange u { image := some .eject, protect := none } with
          port := (a .done .pending []).port } := fun hm => by
      refine heC.trans ((if_pos hm).trans ?_)
      unfold Device.finish
      rw [placeChange_port]
      rfl
    refine ⟨fun hm => answers_at_once hi (heC.trans (if_neg (Bool.eq_false_iff.mp hm))), fun hm => Follows.reaches ?_,
      fun hm => ?_⟩
    · rw [hplaced hm]
      exact settles_placeChange s.dev.openFrame _ u _
    · obtain ⟨n, l, hnd, hl, h⟩ := placeChange_setPort s.dev.openFrame (a .done .pending []).port u
        { image := some .eject, protect := none }
      exact ⟨n, l, hnd, hl, Follows.leads ((hplaced hm).trans h)⟩
  · intro staged
    have heO : effect (.eject unit) s.dev = s.dev.openFrame.stageEject u := he'.trans (by rw [hg]; rfl)
    have hgo : s.dev.openFrame.seq.group = some g := hg
    have hst : s.dev.openFrame.staged u = g.get u := staged_of_open hgo u
    have hset : ∀ c, (s.dev.openFrame.setStaged u c).finish 0x21 .done .staged [] = staged c := fun c => by
      rw [setStaged_of_open hgo]
      rfl
    refine ⟨fun hm => Follows.answers (heO.trans ((if_pos hm).trans ?_)) (answered_seq_rest hi), fun hm => ⟨fun hc => ?_, fun hc => ?_⟩⟩
    · rw [hst]
      exact hset _
    · refine Follows.answers (heO.trans ((if_neg (Bool.eq_false_iff.mp hm)).trans ((if_pos ?_).trans (hset _))))
        (answered_seq_rest hi)
      rw [hst]
      exact (mounts_iff _).mpr hc
    · refine answers_at_once hi (heO.trans ((if_neg (Bool.eq_false_iff.mp hm)).trans (if_neg ?_)))
      rw [hst]
      exact mt (mounts_iff _).mp hc

/-! ### SET_PROTECT (R154) -/

/-- R154: the image that a value is judged against, and what it leads to when it passes. -/
theorem judgeValue_cases (d : Device) (m : Option MountRecord) (v : Bool) (f : Device → Device) :
    (m = none → d.judgeValue m v f = d.refuse 0x22 .notMounted)
    ∧ ∀ x, m = some x → (v = false → x.readOnly = true → d.judgeValue m v f = d.refuse 0x22 .readOnly)
      ∧ (v = true ∨ x.readOnly = false → d.judgeValue m v f = f d) := by
  refine ⟨fun h => by rw [h]; rfl, fun x h => ⟨fun hv hr => ?_, fun hv => ?_⟩⟩
  · rw [h]
    exact if_pos (by rw [hv, hr]; rfl)
  · rw [h]
    refine if_neg ?_
    rcases hv with hv | hv
    · rw [hv]
      exact Bool.false_ne_true
    · rw [hv, Bool.and_false]
      exact Bool.false_ne_true

/-- Settles O45: SET_PROTECT is judged against the image that the group's state decides. -/
theorem protectIsSetOrStaged : Obligations.ProtectIsSetOrStaged := by
  unfold Obligations.ProtectIsSetOrStaged
  intro s unit value u v hi hu hv a judged
  have he : effect (.setProtect unit value) s.dev = s.dev.openFrame.judgeProtect unit value :=
    onCommand_of_idle (fun x => x.judgeProtect unit value) hi
  have hj : s.dev.openFrame.judgeProtect unit value =
      if s.dev.seq.group.isSome then
        s.dev.openFrame.judgeValue (s.dev.openFrame.stagedImage u) v (fun x =>
          (x.setStaged u { x.staged u with protect := some v }).finish 0x22 .done .staged [])
      else s.dev.openFrame.judgeValue (s.dev.images.get u) v (fun x =>
        (x.modUnit u (fun r => { r with protect := v })).done 0x22) := by
    unfold Device.judgeProtect
    rw [hu, hv]
    rfl
  rw [hj] at he
  have hjudged : ∀ (image : Option MountRecord) (f : Device → Device) (e : Device),
      effect (.setProtect unit value) s.dev = s.dev.openFrame.judgeValue image v f → f s.dev.openFrame = e →
      (s.dev.AtRest → e.micro = none) → judged image e := fun image f e hx hf hr => by
    obtain ⟨hnone, hsome⟩ := judgeValue_cases s.dev.openFrame image v f
    refine ⟨fun h => answers_at_once hi (hx.trans (hnone h)), fun m h => ⟨fun h1 h2 => ?_, fun h1 => ?_⟩⟩
    · exact answers_at_once hi (hx.trans ((hsome m h).1 h1 h2))
    · exact Follows.answers (hx.trans (((hsome m h).2 h1).trans hf)) hr
  refine ⟨fun hg => ?_, fun g hg => ?_⟩
  · rw [hg] at he
    refine hjudged _ _ _ (he.trans (if_neg Bool.false_ne_true)) rfl fun h => ?_
    refine rest_ended (d := s.dev) rfl rfl rfl rfl rfl rfl (fun w => ?_) ((commandKey_idle hi).symm ▸ rfl) rfl h
    cases u <;> cases w <;> exact ⟨rfl, rfl, rfl⟩
  · have hgo : s.dev.openFrame.seq.group = some g := hg
    have himage : s.dev.openFrame.stagedImage u = (match (g.get u).image with
        | some (.mount m _) => some m
        | some .eject => none
        | none => s.dev.images.get u) := by
      unfold Device.stagedImage
      rw [staged_of_open hgo]
      rfl
    rw [hg] at he
    refine Eq.mp (congrArg (fun x => judged x _) himage)
      (hjudged _ _ _ (he.trans (if_pos rfl)) ?_ (answered_seq_rest hi))
    dsimp only
    rw [setStaged_of_open hgo, staged_of_open hgo]
    rfl

/-! ### HOLD, RELEASE, DISCARD (R155 to R157) -/

theorem placeStaged_port (d : Device) (g : PerUnit Change) (u : UnitId) : (d.placeStaged g u).port = d.port := by
  unfold Device.placeStaged
  split
  · rfl
  · exact placeChange_port d u _

/-- R156: an empty record places nothing, another one its change. -/
theorem placeStaged_cases (d : Device) (g : PerUnit Change) (u : UnitId) :
    (g.get u = Change.empty → d.placeStaged g u = d)
    ∧ (g.get u ≠ Change.empty → d.placeStaged g u = d.placeChange u (g.get u)) :=
  ⟨fun h => if_pos ((change_isEmpty_iff _).mpr h), fun h => if_neg (mt (change_isEmpty_iff _).mp h)⟩

theorem releaseBlocked_iff (d : Device) (g : PerUnit Change) (u : UnitId) : d.releaseBlocked g u = true ↔
    g.get u ≠ Change.empty ∧ d.seq.pending.get u ≠ none := by
  unfold Device.releaseBlocked
  rw [Bool.and_eq_true, hasPending_iff, Bool.not_eq_true', Bool.eq_false_iff, Ne, change_isEmpty_iff]

theorem placeChange_seq (d : Device) (u : UnitId) (c : Change) :
    (d.placeChange u c).seq = { d.seq with pending := d.seq.pending.set u (some c) } := by
  obtain ⟨n, l, -, -, h⟩ := placeChange_setPort d d.port u c
  calc (d.placeChange u c).seq = ({ d.placeChange u c with port := d.port } : Device).seq := rfl
    _ = _ := by
      rw [h]
      exact requestHeader_seq _ u

/-- R156: the pending change of a unit once its staged record is placed. -/
theorem placeStaged_pending (d : Device) (g : PerUnit Change) (u : UnitId) : (d.placeStaged g u).seq.pending =
    d.seq.pending.set u (if g.get u = ⟨none, none⟩ then d.seq.pending.get u else some (g.get u)) := by
  obtain ⟨hempty, hplaced⟩ := placeStaged_cases d g u
  by_cases hx : g.get u = ⟨none, none⟩
  · rw [hempty hx, if_pos hx]
    cases u <;> rfl
  · rw [hplaced hx, if_neg hx, placeChange_seq]

/-- What a placing on one unit leaves, beside the sequencer, settles. -/
theorem settles_placeStaged (d : Device) (p : LoaderPort) (hp : p.engine.busy = false) (q : Sequencer)
    (g : PerUnit Change) (u : UnitId) : Settles { d with port := p, seq := q } { d.placeStaged g u with port := p, seq := q } := by
  obtain ⟨hempty, hplaced⟩ := placeStaged_cases d g u
  by_cases h : g.get u = Change.empty
  · rw [hempty h]
    exact .refl _
  · rw [hplaced h]
    have hs := settles_placeChange d p u (g.get u)
    exact ⟨hs.now, hs.lines, hs.units, hs.readData, hs.cursor, hs.frameFault, hs.mask, hs.frameOut,
      fun _ => ⟨(hs.idle hp).1, rfl⟩, hs.cardState, hs.capacity, hs.initTime, hs.run, hs.retry, hs.resetWaits,
      hs.enables, hs.drive, hs.mounted, hs.images, hs.captures⟩

/-- Settles O46: HOLD, RELEASE and DISCARD by the state of the group, and the changes that RELEASE places. -/
theorem theGroupIsHeldReleasedOrDiscarded : Obligations.TheGroupIsHeldReleasedOrDiscarded := by
  unfold Obligations.TheGroupIsHeldReleasedOrDiscarded
  intro s hi
  have heH : effect .hold s.dev = s.dev.openFrame.judgeHold := onCommand_of_idle Device.judgeHold hi
  have heR : effect .release s.dev = s.dev.openFrame.judgeRelease := onCommand_of_idle Device.judgeRelease hi
  have heD : effect .discard s.dev = s.dev.openFrame.judgeDiscard := onCommand_of_idle Device.judgeDiscard hi
  have hgroup : s.dev.openFrame.seq.group = s.dev.seq.group := rfl
  unfold Device.judgeHold at heH
  unfold Device.judgeRelease at heR
  unfold Device.judgeDiscard at heD
  refine ⟨fun hg => ?_, fun g hg => ?_⟩
  · rw [hgroup, hg] at heH heR heD
    exact ⟨Follows.answers heH (answered_seq_rest hi), answers_at_once hi heR, answers_at_once hi heD⟩
  · rw [hgroup, hg] at heH heR heD
    dsimp only at heR
    have hblocked : (s.dev.openFrame.releaseBlocked g .u0 || s.dev.openFrame.releaseBlocked g .u1) = true ↔
        ∃ u, g.get u ≠ ⟨none, none⟩ ∧ s.dev.seq.pending.get u ≠ none := by
      rw [Bool.or_eq_true, releaseBlocked_iff, releaseBlocked_iff]
      refine ⟨fun h => h.elim (fun h => ⟨.u0, h⟩) (fun h => ⟨.u1, h⟩), fun ⟨u, h⟩ => ?_⟩
      cases u
      · exact .inl h
      · exact .inr h
    have hfree : (∀ u, g.get u = ⟨none, none⟩ ∨ s.dev.seq.pending.get u = none) →
        effect .release s.dev = (((s.dev.openFrame.placeStaged g .u0).placeStaged g .u1).setGroup none).done 0x24 := fun h => by
      refine heR.trans (if_neg fun hb => ?_)
      obtain ⟨u, h1, h2⟩ := hblocked.mp hb
      exact (h u).elim h1 h2
    have hport : ((s.dev.openFrame.placeStaged g .u0).placeStaged g .u1).port = s.dev.openFrame.port :=
      (placeStaged_port _ g .u1).trans (placeStaged_port _ g .u0)
    have heff : (∀ u, g.get u = ⟨none, none⟩ ∨ s.dev.seq.pending.get u = none) → effect .release s.dev =
        { (s.dev.openFrame.placeStaged g .u0).placeStaged g .u1 with
          port := (s.dev.answered 0x24 .done .none []).port
          seq := { ((s.dev.openFrame.placeStaged g .u0).placeStaged g .u1).seq with group := none } } := fun h => by
      refine (hfree h).trans ?_
      unfold Device.done Device.finish Device.setGroup
      dsimp only
      rw [hport]
      rfl
    refine ⟨answers_at_once hi heH, Follows.answers heD (answered_seq_rest hi), fun h => answers_at_once hi
      (heR.trans (if_pos (hblocked.mpr h))), ?_, ?_⟩
    · intro h place
      refine Follows.reaches ?_
      rw [heff h]
      have hseq : ({ ((s.dev.openFrame.placeStaged g .u0).placeStaged g .u1).seq with group := none } : Sequencer)
          = { pending := ⟨place .u0, place .u1⟩, group := none } := by
        refine congrArg (fun x => ({ pending := x, group := none } : Sequencer)) ?_
        rw [placeStaged_pending, placeStaged_pending]
        rfl
      rw [hseq]
      exact (settles_placeStaged s.dev.openFrame _ rfl _ g .u0).trans (settles_placeStaged _ _ rfl _ g .u1)
    · intro h placed
      have hplaced : ∀ u (d : Device) (p : LoaderPort), placed u { d with port := p } { d.placeStaged g u with port := p } :=
        fun u d p => by
        obtain ⟨hempty, hchange⟩ := placeStaged_cases d g u
        refine ⟨fun hx => by rw [hempty hx], fun hx => ?_⟩
        rw [hchange hx]
        obtain ⟨n, l, hnd, hl, he⟩ := placeChange_setPort d p u (g.get u)
        exact ⟨n, l, hnd, hl, he⟩
      exact ⟨_, _, hplaced .u0 s.dev.openFrame _, hplaced .u1 (s.dev.openFrame.placeStaged g .u0) _, Follows.leads (heff h)⟩

end Sys2Proof.Proofs
end

section
namespace Sys2Proof.Proofs
open Sys2Proof Sys2Proof.Machine

/-! ### The header and the record built of it (R48 to R54, R180) -/

/-- R54 b: the entries of a header, each slot read as one. -/
theorem parseEntries_eq_some (bs : List Byte) : ∀ (n : Nat) (es : List OverrideEntry),
    parseEntries bs n = some es ↔ es.length = n ∧ ∀ i < n, parseEntry bs i = es[i]?
  | 0, es => by
    constructor
    · intro h
      obtain rfl := Option.some.inj h
      exact ⟨rfl, fun i hi => absurd hi (Nat.not_lt_zero i)⟩
    · rintro ⟨h, -⟩
      rw [List.length_eq_zero_iff.mp h]
      rfl
  | n + 1, es => by
    have hstep : parseEntries bs (n + 1) = some es ↔
        ∃ es', parseEntries bs n = some es' ∧ ∃ e, parseEntry bs n = some e ∧ es' ++ [e] = es := by
      simp [parseEntries, Option.bind_eq_some_iff]
    rw [hstep]
    constructor
    · rintro ⟨es', hes, e, he, rfl⟩
      obtain ⟨hlen, hget⟩ := (parseEntries_eq_some bs n es').mp hes
      refine ⟨by rw [List.length_append, hlen]; rfl, fun i hi => ?_⟩
      rcases Nat.lt_succ_iff_lt_or_eq.mp hi with hi | rfl
      · rw [hget i hi, List.getElem?_append_left (hlen ▸ hi)]
      · rw [he, List.getElem?_append_right (Nat.le_of_eq hlen), hlen, Nat.sub_self]
        rfl
    · rintro ⟨hlen, hget⟩
      have hne : es ≠ [] := fun h => by
        rw [h] at hlen
        exact nomatch hlen
      have hes : es.dropLast ++ [es.getLast hne] = es := List.dropLast_append_getLast hne
      have hdl : es.dropLast.length = n := by rw [List.length_dropLast, hlen]; rfl
      refine ⟨es.dropLast, (parseEntries_eq_some bs n _).mpr ⟨hdl, fun i hi => ?_⟩, es.getLast hne, ?_, hes⟩
      · have hil : i < es.dropLast.length := by rw [hdl]; exact hi
        calc parseEntry bs i = (es.dropLast ++ [es.getLast hne])[i]? := by rw [hes]; exact hget i (Nat.lt_succ_of_lt hi)
          _ = es.dropLast[i]? := List.getElem?_append_left hil
      · rw [hget n (Nat.lt_succ_self n)]
        nth_rw 1 [← hes]
        rw [List.getElem?_append_right (Nat.le_of_eq hdl), hdl, Nat.sub_self]
        rfl

theorem fits_iff (f : TrackFormat) (heads : Nat) : f.fits heads = true ↔ ∃ l, layoutOf f 0 0 heads = .fit l := by
  unfold TrackFormat.fits
  rw [Option.isSome_iff_exists]
  exact exists_congr fun l => fitLayout_iff f 0 0 heads l

/-- R54: the geometry of a header is the one its bytes give, with entries and formats that pass. -/
theorem headerGeometry_iff (bs : List Byte) (g : Geometry) : headerGeometry bs = some g ↔
    (1 ≤ g.cylinders ∧ g.cylinders ≤ 84 ∧ 1 ≤ g.heads ∧ g.heads ≤ 2 ∧ g.overrides.length ≤ 16)
    ∧ g.cylinders = (byteAt bs 6).toNat ∧ g.heads = (byteAt bs 7).toNat
    ∧ g.overrides.length = (byteAt bs 13).toNat ∧ g.base = parseFormat bs 16
    ∧ (∀ i < g.overrides.length, parseEntry bs i = g.overrides[i]?)
    ∧ (∀ e ∈ g.overrides, e.firstCyl ≤ e.lastCyl ∧ e.lastCyl ≤ 83)
    ∧ ∀ f, (f = g.base ∨ ∃ e ∈ g.overrides, e.format = f) → ∃ l, layoutOf f 0 0 g.heads = .fit l := by
  have hwf : ∀ e : OverrideEntry, e.wellFormed = true ↔ e.firstCyl ≤ e.lastCyl ∧ e.lastCyl ≤ 83 := fun e => by
    unfold OverrideEntry.wellFormed
    rw [Bool.and_eq_true, decide_eq_true_iff, decide_eq_true_iff]
    rfl
  have hrange : headerGeometry bs = some g ↔
      (1 ≤ (byteAt bs 6).toNat ∧ (byteAt bs 6).toNat ≤ 84 ∧ 1 ≤ (byteAt bs 7).toNat ∧ (byteAt bs 7).toNat ≤ 2
        ∧ (byteAt bs 13).toNat ≤ 16)
      ∧ ∃ es, parseEntries bs (byteAt bs 13).toNat = some es
        ∧ ((es.all OverrideEntry.wellFormed && (parseFormat bs 16).fits (byteAt bs 7).toNat
            && es.all (fun e => e.format.fits (byteAt bs 7).toNat)) = true
          ∧ ({ base := parseFormat bs 16, cylinders := (byteAt bs 6).toNat, heads := (byteAt bs 7).toNat
               overrides := es } : Geometry) = g) := by
    unfold headerGeometry
    dsimp only
    rw [Option.ite_none_right_eq_some, Option.bind_eq_some_iff]
    refine and_congr Iff.rfl (exists_congr fun es => and_congr Iff.rfl ?_)
    rw [Option.ite_none_right_eq_some, Option.some.injEq]
  rw [hrange]
  constructor
  · rintro ⟨hr, es, hes, hall, rfl⟩
    obtain ⟨hlen, hget⟩ := (parseEntries_eq_some bs _ es).mp hes
    rw [Bool.and_eq_true, Bool.and_eq_true, List.all_eq_true, List.all_eq_true] at hall
    obtain ⟨⟨hw, hb⟩, hf⟩ := hall
    refine ⟨hlen.symm ▸ hr, rfl, rfl, hlen, rfl, hlen.symm ▸ hget, fun e he => (hwf e).mp (hw e he), ?_⟩
    rintro f (rfl | ⟨e, he, rfl⟩)
    · exact (fits_iff _ _).mp hb
    · exact (fits_iff _ _).mp (hf e he)
  · obtain ⟨base, cyls, heads, es⟩ := g
    rintro ⟨hr, rfl, rfl, hlen, rfl, hget, hw, hf⟩
    dsimp only at hlen hget hr
    refine ⟨hlen ▸ hr, es, (parseEntries_eq_some bs _ es).mpr ⟨hlen, hlen ▸ hget⟩, ?_, rfl⟩
    rw [Bool.and_eq_true, Bool.and_eq_true, List.all_eq_true, List.all_eq_true]
    exact ⟨⟨fun e he => (hwf e).mpr (hw e he), (fits_iff _ _).mpr (hf _ (.inl rfl))⟩,
      fun e he => (fits_iff _ _).mpr (hf _ (.inr ⟨e, he, rfl⟩))⟩

/-- R50: the sums of the elements before each place. -/
theorem sumsBefore_getElem? : ∀ (l : List Nat) (start t : Nat), t < l.length →
    (sumsBefore start l)[t]? = some (start + (l.take t).sum)
  | [], _, _, h => absurd h (Nat.not_lt_zero _)
  | x :: xs, start, 0, _ => by simp [sumsBefore]
  | x :: xs, start, t + 1, h => by
    rw [sumsBefore, List.getElem?_cons_succ, sumsBefore_getElem? xs (start + x) t (Nat.lt_of_succ_lt_succ h),
      List.take_succ_cons, List.sum_cons, Nat.add_assoc]

theorem total_eq_sum (l : List Nat) : total l = l.sum := List.sum_eq_foldl_nat.symm

/-- R50: the sum before a track position, over a table of one number for each of the 168. -/
theorem sumsBefore_range (f : Nat → Nat) (t : Nat) (h : t < 168) :
    (sumsBefore 0 ((List.range 168).map f))[t]? = some ((List.range t).map f).sum := by
  rw [sumsBefore_getElem? _ 0 t (by rw [List.length_map, List.length_range]; exact h), Nat.zero_add, ← List.map_take,
    List.take_range, Nat.min_eq_left h.le]

theorem dataSizes_eq (g : Geometry) : g.dataSizes =
    (List.range 168).map (fun t => ((g.formatOf (t / 2) (t % 2)).map TrackFormat.dataSize).getD 0) := by
  refine List.map_congr_left fun t _ => ?_
  cases g.formatOf (t / 2) (t % 2) <;> rfl

theorem sectorCounts_eq (g : Geometry) : g.sectorCounts =
    (List.range 168).map (fun t => ((g.formatOf (t / 2) (t % 2)).map TrackFormat.sectors).getD 0) := by
  refine List.map_congr_left fun t _ => ?_
  cases g.formatOf (t / 2) (t % 2) <;> rfl

/-- Bit `i` of a byte as a number. -/
theorem byte_bit (b : Byte) (i : Nat) : b.getLsbD i = true ↔ b.toNat / 2 ^ i % 2 = 1 := by
  rw [← BitVec.testBit_toNat, Nat.testBit_eq_decide_div_mod_eq, decide_eq_true_iff]

theorem fromBytes_four (bs : List Byte) (o : Nat) : fromBytes (bytesAt bs o 4) =
    (((byteAt bs o).toNat * 256 + (byteAt bs (o + 1)).toNat) * 256 + (byteAt bs (o + 2)).toNat) * 256
      + (byteAt bs (o + 3)).toNat := by
  show ((((0 * 256 + (byteAt bs o).toNat) * 256 + (byteAt bs (o + 1)).toNat) * 256 + (byteAt bs (o + 2)).toNat) * 256
      + (byteAt bs (o + 3)).toNat) = _
  rw [Nat.zero_mul, Nat.zero_add]

/-- R180: the codes of encoding and rate. -/
theorem formatCode_enc (n : Nat) : (formatCode n).1 = if n ≤ 1 then .fm else .mfm :=
  match n with
  | 0 | 1 | 2 | 3 => rfl
  | _ + 4 => rfl

/-- R180: the R list of a format, by its length. -/
theorem parseFormat_rList (bs : List Byte) (o : Nat) :
    ((byteAt bs (o + 7)).toNat = 0 → (parseFormat bs o).rList = none)
    ∧ ((byteAt bs (o + 7)).toNat ≠ 0 → (byteAt bs (o + 7)).toNat ≤ 64 → (parseFormat bs o).rList =
      some ((List.range (byteAt bs (o + 7)).toNat).map (fun j => (byteAt bs (o + (8 + j))).toNat)))
    ∧ (64 < (byteAt bs (o + 7)).toNat → (parseFormat bs o).valid = false) := by
  refine ⟨fun h => if_pos h, fun h0 h => (if_neg h0).trans (congrArg some (List.map_congr_left fun j hj => ?_)), fun h => ?_⟩
  · rw [if_pos (Nat.lt_of_lt_of_le (List.mem_range.mp hj) h), Nat.add_assoc]
  · have hl : (parseFormat bs o).rList = some ((List.range (byteAt bs (o + 7)).toNat).map
        (fun i => if i < 64 then (byteAt bs (o + 8 + i)).toNat else 0)) := if_neg (by omega)
    rw [Bool.eq_false_iff]
    intro hv
    unfold TrackFormat.valid at hv
    rw [hl] at hv
    simp only [Bool.and_eq_true, decide_eq_true_iff, beq_iff_eq, List.length_map, List.length_range] at hv
    obtain ⟨⟨⟨⟨⟨⟨-, -⟩, hs⟩, -⟩, -⟩, -⟩, hlen, -⟩ := hv
    omega

/-- R180: the override entry of a slot, by its head selector. -/
theorem parseEntry_cases (bs : List Byte) (j : Nat) :
    (2 < (byteAt bs (88 + j * 76 + 2)).toNat → parseEntry bs j = none)
    ∧ ∀ sel, selectorCode (byteAt bs (88 + j * 76 + 2)) = some sel → parseEntry bs j = some
      { firstCyl := (byteAt bs (88 + j * 76)).toNat, lastCyl := (byteAt bs (88 + j * 76 + 1)).toNat
        heads := sel, format := parseFormat bs (88 + j * 76 + 4) } := by
  have hp : parseEntry bs j = (selectorCode (byteAt bs (88 + j * 76 + 2))).map (fun sel =>
    { firstCyl := (byteAt bs (88 + j * 76)).toNat, lastCyl := (byteAt bs (88 + j * 76 + 1)).toNat, heads := sel
      format := parseFormat bs (88 + j * 76 + 4) }) := rfl
  refine ⟨fun h => ?_, fun sel h => by rw [hp, h]; rfl⟩
  have hc : selectorCode (byteAt bs (88 + j * 76 + 2)) = none := by
    generalize byteAt bs (88 + j * 76 + 2) = b at h
    unfold selectorCode
    have hne : ∀ n : Nat, n ≤ 2 → b ≠ BitVec.ofNat 8 n := fun n hn hb => by
      rw [hb, BitVec.toNat_ofNat, Nat.mod_eq_of_lt (by omega)] at h
      omega
    exact (if_neg (hne 0 (by omega))).trans ((if_neg (hne 1 (by omega))).trans (if_neg (hne 2 (by omega))))
  rw [hp, hc]
  rfl

/-- R180: the head selector of a code up to 2. -/
theorem selectorCode_eq (b : Byte) (h : b.toNat ≤ 2) :
    selectorCode b = some (if b.toNat = 0 then .head0 else if b.toNat = 1 then .head1 else .both) := by
  have hb : b = 0 ∨ b = 1 ∨ b = 2 := by
    rcases (by omega : b.toNat = 0 ∨ b.toNat = 1 ∨ b.toNat = 2) with h | h | h
    · exact .inl (BitVec.eq_of_toNat_eq h)
    · exact .inr (.inl (BitVec.eq_of_toNat_eq h))
    · exact .inr (.inr (BitVec.eq_of_toNat_eq h))
  rcases hb with rfl | rfl | rfl <;> rfl

/-! ### The walk of a MOUNT (R55) -/

/-- How many descriptors a walk can still read from the block it holds. -/
def walkLeft (w : Walk) : Nat :=
  if w.buffer.map Prod.fst = some w.pos.block then (7 - w.pos.group) * 8 + (8 - min w.pos.desc 7) else 0

theorem walkLeft_le (w : Walk) : walkLeft w ≤ 64 := by
  unfold walkLeft
  split <;> omega

/-- R55: how the walk goes on, by the block it holds and the descriptor at its position. -/
theorem goOn_succ (n : Nat) (w : Walk) :
    (w.buffer.map Prod.fst ≠ some w.pos.block → w.goOn (n + 1) = (w, .fetch))
    ∧ ∀ bs, w.buffer = some (w.pos.block, bs) →
      (∀ e, readDescriptor bs w.pos = .data e → w.goOn (n + 1) = (w.takeData e).goOn n)
      ∧ (∀ b g, readDescriptor bs w.pos = .jump b g →
        w.goOn (n + 1) = ({ w with buffer := none, pos := ⟨b, g, 0⟩ }, .fetch))
      ∧ (readDescriptor bs w.pos = .fin → w.goOn (n + 1) = (w, .fin)) := by
  refine ⟨fun h => ?_, fun bs hb => ?_⟩
  · rw [Walk.goOn]
    cases hw : w.buffer with
    | none => rfl
    | some p =>
      obtain ⟨blk, bytes⟩ := p
      exact if_neg fun g => h (by rw [hw, ← g]; rfl)
  · have hg : w.goOn (n + 1) = (match readDescriptor bs w.pos with
        | .data e => (w.takeData e).goOn n
        | .jump block group =>
          ({ w with buffer := none, pos := { block := block, group := group, desc := 0 } }, .fetch)
        | .fin => (w, .fin)) := by
      rw [Walk.goOn, hb]
      exact if_pos rfl
    refine ⟨fun e he => ?_, fun b g he => ?_, fun he => ?_⟩ <;> rw [hg, he]

/-- R52, R55: a DATA leaves one descriptor fewer in the block. -/
theorem walkLeft_takeData (w : Walk) (e : Extent) (bs : List Byte) (hb : w.buffer = some (w.pos.block, bs))
    (he : readDescriptor bs w.pos = .data e) : walkLeft (w.takeData e) < walkLeft w := by
  have hgroup : w.pos.group ≤ 7 := by
    by_contra h
    unfold readDescriptor at he
    dsimp only at he
    rw [if_pos (Nat.lt_of_not_le h)] at he
    exact nomatch he
  have hold : walkLeft w = (7 - w.pos.group) * 8 + (8 - min w.pos.desc 7) := if_pos (by rw [hb]; rfl)
  have hpos : walkLeft (w.takeData e) ≤ (7 - w.pos.after.group) * 8 + (8 - min w.pos.after.desc 7) := by
    unfold walkLeft
    split
    · exact Nat.le_refl _
    · exact Nat.zero_le _
  rw [hold]
  by_cases hd : w.pos.desc < 7
  · rw [show w.pos.after = { w.pos with desc := w.pos.desc + 1 } from if_pos hd] at hpos
    dsimp only at hpos
    omega
  · by_cases hg : w.pos.group < 7
    · rw [show w.pos.after = ⟨w.pos.block, w.pos.group + 1, 0⟩ from (if_neg hd).trans (if_pos hg)] at hpos
      dsimp only at hpos
      omega
    · have hafter : w.pos.after = ⟨w.pos.block + 1, 0, 0⟩ := (if_neg hd).trans (if_neg hg)
      have hnone : walkLeft (w.takeData e) = 0 := if_neg fun h => by
        have h' : some w.pos.block = some w.pos.after.block := (congrArg (Option.map Prod.fst) hb).symm.trans h
        rw [hafter] at h'
        exact absurd (Option.some.inj h') (Nat.ne_of_lt (Nat.lt_succ_self _))
      omega

/-- R55: a walk that can read all that its block holds needs no more readings. -/
theorem goOn_enough : ∀ (n : Nat) (w : Walk), walkLeft w < n → w.goOn n = w.goOn (n + 1)
  | 0, _, h => absurd h (Nat.not_lt_zero _)
  | n + 1, w, h => by
    obtain ⟨hout, hin⟩ := goOn_succ n w
    obtain ⟨hout', hin'⟩ := goOn_succ (n + 1) w
    by_cases hb : w.buffer.map Prod.fst = some w.pos.block
    · obtain ⟨⟨blk, bs⟩, hbuf, hblk⟩ := Option.map_eq_some_iff.mp hb
      obtain rfl : blk = w.pos.block := hblk
      obtain ⟨hd, hj, hf⟩ := hin bs hbuf
      obtain ⟨hd', hj', hf'⟩ := hin' bs hbuf
      cases hr : readDescriptor bs w.pos with
      | data e =>
        have hless := walkLeft_takeData w e bs hbuf hr
        rw [hd e hr, hd' e hr]
        exact goOn_enough n _ (by omega)
      | jump b g => rw [hj b g hr, hj' b g hr]
      | fin => rw [hf hr, hf' hr]
    · rw [hout hb, hout' hb]

/-- R55: the walk goes on by the descriptor at its position. -/
theorem walkOn_cases (d : Device) (c : MountCmd) (w : Walk) :
    (w.buffer.map Prod.fst ≠ some w.pos.block → d.walkOn c w = d.walkFetch c w)
    ∧ ∀ bs, w.buffer = some (w.pos.block, bs) →
      (∀ e, readDescriptor bs w.pos = .data e → d.walkOn c w = d.walkOn c (w.takeData e))
      ∧ (∀ b g, readDescriptor bs w.pos = .jump b g →
        d.walkOn c w = d.walkFetch c { w with buffer := none, pos := ⟨b, g, 0⟩ })
      ∧ (readDescriptor bs w.pos = .fin → ∀ m, w.draft = some m → d.walkOn c w = d.walkDone c w m) := by
  obtain ⟨hout, hin⟩ := goOn_succ 64 w
  refine ⟨fun h => ?_, fun bs hb => ?_⟩
  · unfold Device.walkOn
    rw [hout h]
  · obtain ⟨hd, hj, hf⟩ := hin bs hb
    refine ⟨fun e he => ?_, fun b g he => ?_, fun he m hm => ?_⟩
    · have hless := walkLeft_takeData w e bs hb he
      have hle := walkLeft_le w
      unfold Device.walkOn
      rw [hd e he, goOn_enough 64 _ (by omega)]
    · unfold Device.walkOn
      rw [hj b g he]
    · unfold Device.walkOn
      rw [hf he]
      dsimp only
      rw [hm]

/-- R53 c: signature, version and CRC of a header. -/
theorem headerGood_iff (bs : List Byte) : headerGood bs = true ↔ bytesAt bs 0 4 = [0x44, 0x45, 0x49, 0x31] ∧ byteAt bs 4 = 1
    ∧ bytesAt bs 2046 2 = crcBytes (crc (bytesAt bs 0 2046)) := by
  unfold headerGood
  rw [Bool.and_eq_true, Bool.and_eq_true, beq_iff_eq, beq_iff_eq, beq_iff_eq, and_assoc]
  rfl

/-- R56: the span of a record meets one of the other unit's records. -/
theorem spanTaken_iff (d : Device) (u : UnitId) (m : MountRecord) : d.spanTaken u m = true ↔
    ∃ x ∈ d.recordsOf u.other, x.spanLow ≤ m.spanHigh ∧ m.spanLow ≤ x.spanHigh := by
  unfold Device.spanTaken MountRecord.overlaps
  simp only [List.any_eq_true, Bool.and_eq_true, decide_eq_true_iff]

/-- R152 f: with the group OPEN the record is staged. -/
theorem mountValidated_staged {d : Device} {g : PerUnit Change} (hg : d.seq.group = some g) (c : MountCmd) (m : MountRecord) :
    d.mountValidated c m = { d with
      seq := { d.seq with group := some (g.set c.unit { g.get c.unit with image := some (.mount m (c.protect || m.readOnly)) }) }
      port := { d.port with engine := .result { cls := .done, detail := .staged, code := 0x20, bytes := [] } } } := by
  unfold Device.mountValidated
  rw [hg]
  dsimp only
  rw [setStaged_of_open hg]
  rfl

/-- R152 g: with the group CLOSED the record is placed as a pending change. -/
theorem mountValidated_placed {d : Device} (hg : d.seq.group = none) (c : MountCmd) (m : MountRecord) :
    d.mountValidated c m = { d.placeChange c.unit { image := some (.mount m (c.protect || m.readOnly)), protect := none } with
      port := { d.port with engine := .result { cls := .done, detail := .pending, code := 0x20, bytes := [] } } } := by
  unfold Device.mountValidated
  rw [hg]
  dsimp only
  unfold Device.finish
  rw [placeChange_port]

/-- What a validation makes of the Loader Port and the sequencer, with the MOUNT still in execution or with its result, leaves
nothing owed. -/
theorem mount_rest {d : Device} (hk : d.commandKey = none) {p : LoaderPort} (q : Sequencer)
    (hp : ∀ c, p.engine ≠ .executing (.sectors c)) (hf : ∀ f, p.engine ≠ .executing (.flush f)) (h : d.micro = none) :
    Device.micro { d with port := p, seq := q } = none := by
  refine rest_ended (d := d) rfl rfl rfl rfl rfl rfl (fun _ => ⟨rfl, rfl, rfl⟩) ?_ ?_ h
  · rw [hk]
    unfold Device.commandKey
    dsimp only
    split
    · exact absurd ‹_› (hp _)
    · rfl
  · unfold Device.flushDone
    dsimp only
    split
    · exact absurd ‹_› (hf _)
    · rfl

theorem requestHeader_rest (d : Device) (u : UnitId) (hs : d.card.state = .ready) (h : d.micro = none) :
    (d.requestHeader u).micro = none := by
  unfold Device.requestHeader
  split
  · split
    · rw [request_ready hs]
      exact card_rest d _ d.freeCount h
    · exact h
  · exact h

/-- R55: with nothing else owed and the card READY, a walk that goes on owes nothing more. -/
theorem walkOn_rest {d : Device} (hs : d.card.state = .ready) (hk : d.commandKey = none) (h : d.micro = none) (c : MountCmd)
    (w : Walk) : (d.walkOn c w).micro = none := by
  have hrefuse : ∀ x, (d.refuse 0x20 x).micro = none := fun x => mount_rest hk d.seq nofun nofun h
  have hfetch : ∀ v, (d.walkFetch c v).micro = none := fun v => by
    unfold Device.walkFetch
    dsimp only
    split
    · exact hrefuse _
    · split
      · exact hrefuse _
      · unfold Device.requestMountRead
        rw [request_ready (d := d.execute _) hs]
        exact card_rest (d.execute _) _ d.freeCount (mount_rest hk d.seq nofun nofun h)
  have hdone : ∀ v m, (d.walkDone c v m).micro = none := fun v m => by
    unfold Device.walkDone
    repeat' split
    · exact hrefuse _
    · exact hrefuse _
    · exact hrefuse _
    · cases hg : d.seq.group with
      | some g =>
        rw [mountValidated_staged hg]
        exact mount_rest hk _ nofun nofun h
      | none =>
        rw [mountValidated_placed hg]
        obtain ⟨n, l, -, -, he⟩ := placeChange_setPort d
          { d.port with engine := .result { cls := .done, detail := .pending, code := 0x20, bytes := [] } } c.unit
          { image := some (.mount m (c.protect || m.readOnly)), protect := none }
        rw [he]
        refine requestHeader_rest _ c.unit hs ?_
        have hq := queue_rest d (d.pool.queue ++ l) h
        exact mount_rest (d := { d with freeCount := n, pool := { d.pool with queue := d.pool.queue ++ l } }) hk _ nofun nofun
          (card_rest _ d.card n hq)
  unfold Device.walkOn
  split
  · exact hfetch _
  · split
    · exact hdone _ _
    · exact hrefuse _

/-- A run's news that is the only thing owed is told to its requester, and what it owes nothing after is the end. -/
theorem settled_of_news {d : Device} (n : RunNews) (hn : d.news = []) (ho : d.banks.entryOwed = false)
    (hr : (d.deliver n).micro = none) : Device.settled { d with news := [n] } = d.deliver n := by
  have hd : ({ d with news := [] } : Device) = d := by
    rw [← hn]
  have hm : Device.micro { d with news := [n] } = some (d.deliver n) := by
    unfold Device.micro
    dsimp only
    rw [ho, hd]
    rfl
  unfold Device.settled Config.settleFuel
  rw [show (4096 : Nat) = 4094 + 1 + 1 from rfl, settle, hm]
  show settle (4094 + 1) (d.deliver n) = _
  rw [settle, hr]

/-- R53, R141: a run of a MOUNT that ends well hands its bytes to the validation in the step of the answer. -/
theorem mount_run_done {s : State} {c : MountCmd} {r : Run} {data : List Byte} (hq : s.dev.AtRest)
    (he : s.dev.port.engine = .executing (.mount c)) (hr : s.dev.card.run = some r) (hwho : r.req.who = .engine)
    (hkind : r.req.kind = .read) (hc : r.firstCause = none) (hw : r.withdrawn = false) (hrw : s.dev.card.resetWaits = false)
    (ht : s.dev.now < r.granted + 250000) (hin : r.req.block + r.req.count ≤ s.dev.card.capacity.getD 0) {e : Device}
    (hx : s.dev.dropRun.mountNews c true (bytesAt data 0 (r.req.count * 512)) = e) (hrest : e.micro = none) :
    Answers (.runEnd (.complete data)) s e := by
  obtain ⟨hnews, -, -, -, -, -, howed, -⟩ := (micro_none_iff s.dev).mp hq
  have heff : effect (.runEnd (.complete data)) s.dev = { s.dev.dropRun with
      news := [{ who := .engine, ok := true, data := bytesAt data 0 (r.req.count * 512) }] } := by
    refine ((onRunAnswer_in_time hr ht _).1 data rfl (decide_eq_true hin)).trans ?_
    unfold Device.runDone
    dsimp only
    rw [hc]
    dsimp only
    rw [answerBytes_eq, if_pos hkind, tellRun_def, hw, hwho, afterRun_eq, if_neg]
    · show ({ s.dev.dropRun with news := s.dev.news ++ _ } : Device) = _
      rw [hnews]
      rfl
    · show ¬ s.dev.card.resetWaits = true
      rw [hrw]
      exact Bool.false_ne_true
  have hdel : s.dev.dropRun.deliver { who := .engine, ok := true, data := bytesAt data 0 (r.req.count * 512) } = e := by
    refine Eq.trans ?_ hx
    show s.dev.dropRun.engineNews true _ = _
    unfold Device.engineNews
    rw [show s.dev.dropRun.port.engine = .executing (.mount c) from he]
  have hset : (effect (.runEnd (.complete data)) s.dev).settled = e := by
    rw [heff, ← hdel]
    exact settled_of_news (d := s.dev.dropRun) _ hnews howed (hdel.symm ▸ hrest)
  exact ⟨_, e, exec_eq _ s, rfl, congrArg Device.tested hset, .refl e, fun _ => rfl⟩

/-- R55 a, b: the walk that needs a block is refused, or asks for it. -/
theorem walkFetch_eq {d : Device} (hs : d.card.state = .ready) (c : MountCmd) (v : Walk) : d.walkFetch c v =
    if d.card.capacity.getD 0 ≤ v.pos.block then d.refuse 0x20 .range
    else if 256 < v.fetches + 1 then d.refuse 0x20 .chainLimit
    else
      let e := d.execute (.mount { c with walk := { v with
        fetches := v.fetches + 1, draft := v.draft.map (fun m => m.widen v.pos.block v.pos.block) } })
      { e with card := { d.card with
        requests := d.card.requests ++ [
          { who := .engine, kind := .read, block := v.pos.block, count := 1, time := d.now
            op := .mount, unit := some c.unit, track := none }]
        grants := if e.waitsD = true then d.card.grants else 0 } } := by
  refine if_congr Iff.rfl rfl (if_congr Iff.rfl rfl ?_)
  dsimp only
  generalize hw : ({ v with fetches := v.fetches + 1, draft := v.draft.map (fun m => m.widen v.pos.block v.pos.block) } : Walk) = w
  generalize he : d.execute (.mount { c with walk := w }) = e
  have hc : e.card = d.card := he ▸ rfl
  have hn : e.now = d.now := he ▸ rfl
  unfold Device.requestMountRead
  rw [request_ready (hc.symm ▸ hs), hc, hn]
  have hclass : ∀ q : Request, q.who = .engine → (e.requestClass q == .d) = true := fun q hq => by
    unfold Device.requestClass
    rw [hq]
    rfl
  rw [hclass _ rfl, Bool.true_and]
  cases e.waitsD <;> rfl

/-- Settles O43: the validation of a MOUNT, from the bytes of its header to the end of its walk. -/
theorem aValidatedImageIsStagedOrPending : Obligations.AValidatedImageIsStagedOrPending := by
  unfold Obligations.AValidatedImageIsStagedOrPending
  refine ⟨?_, ?_, headerGeometry_iff, ?_, fun m c h j D => ⟨fun o ho => ?_, fun o ho => ?_⟩, ?_, ?_, ?_, fun d c he => ?_⟩
  · intro d c w m refused overlap part
    have hover : d.spanTaken c.unit m = true ↔ overlap := spanTaken_iff d c.unit m
    refine ⟨fun h => if_pos h, fun h1 h2 => (if_neg (Nat.not_lt.mpr h1)).trans (if_pos h2), fun h1 h2 h3 =>
      (if_neg (Nat.not_lt.mpr h1)).trans ((if_neg (Nat.not_le.mpr h2)).trans (if_pos (hover.mpr h3))), fun h1 h2 h3 => ?_⟩
    have hdone : d.walkDone c w m = d.mountValidated c m :=
      (if_neg (Nat.not_lt.mpr h1)).trans ((if_neg (Nat.not_le.mpr h2)).trans (if_neg (mt hover.mp h3)))
    rw [hdone]
    refine ⟨fun g hg => mountValidated_staged hg c m, fun hg => ?_⟩
    rw [mountValidated_placed hg]
    obtain ⟨n, l, hnd, hl, he⟩ := placeChange_setPort d
      { d.port with engine := .result { cls := .done, detail := .pending, code := 0x20, bytes := [] } } c.unit
      { image := some part, protect := none }
    refine ⟨placeChange_seq d c.unit _, rfl, fun i hi ho hst => ?_, n, l, hnd, hl, he⟩
    refine (congrArg (fun x : Device => i ∈ x.pool.queue) he).mpr ?_
    dsimp only
    rw [requestHeader_pool]
    by_cases hq : i ∈ d.pool.queue
    · exact List.mem_append_left _ hq
    · exact List.mem_append_right _ ((hl i).mpr ⟨hi, ho, hst, hq⟩)
  · intro s c r data hq he hs hr hwho hkind hc hw hrw ht hin d bs leads refused good
    have hkey : s.dev.dropRun.commandKey = none := by
      unfold Device.commandKey
      rw [show s.dev.dropRun.port.engine = .executing (.mount c) from he]
    have hd : s.dev.dropRun.micro = none := card_rest s.dev _ s.dev.freeCount hq
    have hleads : ∀ e, s.dev.dropRun.mountNews c true bs = e → e.micro = none → leads e := fun e =>
      mount_run_done hq he hr hwho hkind hc hw hrw ht hin
    have hgood : headerGood bs = true ↔ good := headerGood_iff bs
    have hrest : ∀ x, (refused x).micro = none := fun x => mount_rest hkey s.dev.seq nofun nofun hd
    refine ⟨fun hn => ?_, fun hn => ?_⟩
    · have hnews : s.dev.dropRun.mountNews c true bs = s.dev.dropRun.headerRead c bs := by
        unfold Device.mountNews
        rw [hn]
        rfl
      refine ⟨fun hb => hleads _ ?_ (hrest _), fun hg hx => hleads _ ?_ (hrest _), fun g hg hx => hleads _ ?_ ?_⟩
      · rw [hnews]
        exact if_pos (by rw [Bool.eq_false_iff.mpr (mt hgood.mp hb)]; rfl)
      · rw [hnews]
        unfold Device.headerRead
        rw [hgood.mpr hg, hx]
        rfl
      · rw [hnews]
        unfold Device.headerRead
        rw [hgood.mpr hg, hx]
        rfl
      · exact walkOn_rest (d := s.dev.dropRun) hs hkey hd c _
    · obtain ⟨m, hm⟩ := Option.ne_none_iff_exists'.mp hn
      refine hleads _ ?_ (walkOn_rest (d := s.dev.dropRun) hs hkey hd c _)
      unfold Device.mountNews
      rw [hm]
      rfl
  · intro header bs g m size count
    have hsize : g.dataSizes = (List.range 168).map size := dataSizes_eq g
    have hcount : g.sectorCounts = (List.range 168).map count := sectorCounts_eq g
    have hdata : m.totalData = ((List.range 168).map size).sum := by
      rw [← hsize, ← total_eq_sum]
      rfl
    have hsectors : m.sectorCount = ((List.range 168).map count).sum := by
      rw [← hcount, ← total_eq_sum]
      rfl
    refine ⟨fun t ht => ⟨?_, ?_⟩, hdata, hsectors, rfl, rfl, rfl, rfl, rfl, rfl, rfl, ?_, ?_, ?_, rfl, rfl, rfl, rfl⟩
    · exact (congrArg (fun l => (sumsBefore 0 l)[t]?) hsize).trans (sumsBefore_range size t ht)
    · exact (congrArg (fun l => (sumsBefore 0 l)[t]?) hcount).trans (sumsBefore_range count t ht)
    · exact (byte_bit _ 0).trans (by rw [Nat.pow_zero, Nat.div_one])
    · exact byte_bit _ 1
    · exact fromBytes_four bs 8
  · have hoff : m.offsetOf c h = o := (List.getD_eq_getElem?_getD ..).trans (congrArg (fun x => Option.getD x 0) ho)
    exact ⟨hoff, congrArg (fun x => x + j * D) hoff⟩
  · have hbase : m.baseOf c h = o := (List.getD_eq_getElem?_getD ..).trans (congrArg (fun x => Option.getD x 0) ho)
    exact congrArg (fun x => m.totalData + x + j) hbase
  · intro bs o f at'
    obtain ⟨hnone, hsome, hlong⟩ := parseFormat_rList bs o
    refine ⟨formatCode_enc _, ?_, rfl, rfl, rfl, rfl, rfl, rfl, hnone, hsome, hlong⟩
    show (formatCode (at' 0)).2 = _
    rcases at' 0 with _ | _ | _ | _ | n <;> rfl
  · intro bs j o
    obtain ⟨hbad, hgood⟩ := parseEntry_cases bs j
    refine ⟨hbad, fun h => ?_⟩
    rw [hgood _ (selectorCode_eq _ h)]
    congr 2
    generalize (byteAt bs (88 + j * 76 + 2)).toNat = n
    rcases n with _ | _ | n <;> rfl
  · intro d c w hs refused fetch
    obtain ⟨hout, hin⟩ := walkOn_cases d c w
    have hfetch : ∀ v, d.walkFetch c v = fetch v := fun v => walkFetch_eq hs c v
    refine ⟨fun h => (hout h).trans (hfetch w), fun bs hb => ⟨fun e he => (hin bs hb).1 e he, fun b g he => ?_,
      (hin bs hb).2.2⟩⟩
    exact ((hin bs hb).2.1 b g he).trans (hfetch _)
  · show d.engineNews false [] = _
    unfold Device.engineNews
    rw [he]
    rfl

end Sys2Proof.Proofs
end

section
namespace Sys2Proof.Proofs
open Sys2Proof Sys2Proof.Machine

/-! ### The judging of a sector command (R173) -/

/-- R180: the code of a sector command. -/
def sectorCode : SectorOp → Byte
  | .read => 0x30
  | .write _ => 0x31
  | .verify => 0x32

theorem code_sectors (c : SectorCmd) : Command.code (.sectors c) = sectorCode c.op := by
  obtain ⟨op, k, f, n⟩ := c
  cases op <;> rfl

/-- R173: a frame with good parameters is judged. -/
theorem effect_sector {d : Device} (hi : d.port.engine = .idle) {ub cb hb r n m : Byte} {c : SectorCmd} :
    (sectorParams .read ub cb hb r n = some c → effect (.readSectors ub cb hb r n) d = d.openFrame.judgeSectors c)
    ∧ (sectorParams .verify ub cb hb r n = some c → effect (.verifySectors ub cb hb r n) d = d.openFrame.judgeSectors c)
    ∧ ∀ del, flagParam m = some del → sectorParams (.write del) ub cb hb r n = some c →
      effect (.writeSectors ub cb hb r n m) d = d.openFrame.judgeSectors c := by
  obtain ⟨hr, hw, hv⟩ := effect_sectors ub cb hb r n m d
  refine ⟨fun h => hr.trans ?_, fun h => hv.trans ?_, fun del hm h => hw.trans ?_⟩
  · rw [h]
    exact onCommand_of_idle _ hi
  · rw [h]
    exact onCommand_of_idle _ hi
  · rw [hm, Option.bind_some, h]
    exact onCommand_of_idle _ hi

/-- R173 b to g: what a sector command meets in order, with its last sector number in range. -/
theorem judgeSectors_cases (d : Device) (c : SectorCmd) (hr : c.first + c.count ≤ 256) :
    (d.banks.offline = true → d.judgeSectors c = d.refuse (sectorCode c.op) .offline)
    ∧ (d.banks.offline = false → d.mounted c.key.unit = false → d.judgeSectors c = d.refuse (sectorCode c.op) .notMounted)
    ∧ (d.banks.offline = false → d.mounted c.key.unit = true →
      ((c.op.writes && d.readOnlyImage c.key.unit) = true → d.judgeSectors c = d.refuse (sectorCode c.op) .readOnly)
      ∧ ((c.op.writes && d.readOnlyImage c.key.unit) = false →
        (d.formatOf c.key = none → d.judgeSectors c = d.finish (sectorCode c.op) .failed .noSector [])
        ∧ ∀ f, d.formatOf c.key = some f →
          (8192 < c.count * sizeLen f.sizeCode → d.judgeSectors c = d.refuse (sectorCode c.op) .range)
          ∧ (c.count * sizeLen f.sizeCode ≤ 8192 → d.judgeSectors c = d.serveSectors c))) := by
  have hj : d.judgeSectors c =
      if d.banks.offline then d.refuse (sectorCode c.op) .offline
      else if !d.mounted c.key.unit then d.refuse (sectorCode c.op) .notMounted
      else if c.op.writes && d.readOnlyImage c.key.unit then d.refuse (sectorCode c.op) .readOnly
      else if d.tooLong c then d.refuse (sectorCode c.op) .range
      else if (d.formatOf c.key).isNone then d.finish (sectorCode c.op) .failed .noSector []
      else d.serveSectors c := by
    unfold Device.judgeSectors
    dsimp only
    rw [code_sectors, if_neg (by omega)]
  have hlong : ∀ f, d.formatOf c.key = some f → (d.tooLong c = true ↔ 8192 < c.count * sizeLen f.sizeCode) := fun f hf => by
    unfold Device.tooLong
    rw [hf]
    exact decide_eq_true_iff
  refine ⟨fun h => ?_, fun h1 h2 => ?_, fun h1 h2 => ⟨fun h3 => ?_, fun h3 => ⟨fun hn => ?_, fun f hf => ⟨fun hl => ?_, fun hl => ?_⟩⟩⟩⟩
  · rw [hj, h]
    rfl
  · rw [hj, h1, h2]
    rfl
  · rw [hj, h1, h2, h3]
    rfl
  · rw [hj, h1, h2, h3, hn, show d.tooLong c = false by unfold Device.tooLong; rw [hn]]
    rfl
  · rw [hj, h1, h2, h3, (hlong f hf).mpr hl]
    rfl
  · rw [hj, h1, h2, h3, hf, Bool.eq_false_iff.mpr (mt (hlong f hf).mp (Nat.not_lt.mpr hl))]
    rfl

/-- R86: on a readable track a sector command that passes is applied in the step of its frame. -/
theorem serveSectors_readable {d : Device} {c : SectorCmd} {i : Nat} (h : d.readableHolder c.key = some i) :
    d.serveSectors c = (d.execute (.sectors c)).applySectors i c := by
  unfold Device.serveSectors
  dsimp only
  rw [show (d.execute (.sectors c)).readableHolder c.key = some i from h]

theorem readableHolder_lt {d : Device} {k : TrackKey} {i : Nat} (h : d.readableHolder k = some i) : i < 8 := by
  unfold Device.readableHolder Device.holder at h
  exact List.mem_range.mp (List.mem_of_find?_eq_some (Option.filter_eq_some_iff.mp h).1)

/-- R73: a buffer that moves to the head of the LRU order, and a result, leave nothing owed. -/
theorem touched_rest {d : Device} {i : Nat} (hi : i < 8) (hl : ∀ j < 8, j ∈ d.pool.lru) (he : d.port.engine = .idle)
    {p : LoaderPort} {x : CmdResult} (hp : p.engine = .result x) (h : d.AtRest) :
    Device.micro { d with pool := { d.pool with lru := i :: d.pool.lru.filter (fun j => j != i) }, port := p } = none := by
  have hmem : ∀ j, j ∈ i :: d.pool.lru.filter (fun j => j != i) ↔ j ∈ d.pool.lru := fun j => by
    rw [List.mem_cons, List.mem_filter, bne_iff_ne]
    by_cases hj : j = i
    · exact ⟨fun _ => hj ▸ hl i hi, fun _ => .inl hj⟩
    · exact ⟨fun g => (g.resolve_left hj).1, fun g => .inr ⟨g, hj⟩⟩
  have ht : Device.micro { d with pool := { d.pool with lru := i :: d.pool.lru.filter (fun j => j != i) } } = none :=
    SameWork.quiet (SameWork.of_bufs (d := d) rfl (fun _ => ⟨rfl, rfl, rfl, rfl⟩) hmem rfl rfl rfl rfl rfl
      (fun _ => ⟨rfl, rfl, rfl⟩) rfl h) h
  refine rest_ended (d := { d with pool := { d.pool with lru := i :: d.pool.lru.filter (fun j => j != i) } })
    rfl rfl rfl rfl rfl rfl (fun _ => ⟨rfl, rfl, rfl⟩) ?_ ?_ ht
  · rw [commandKey_idle (d := { d with pool := { d.pool with lru := i :: d.pool.lru.filter (fun j => j != i) } }) he]
    unfold Device.commandKey
    dsimp only
    rw [hp]
  · unfold Device.flushDone
    dsimp only
    rw [hp]

/-! ### READ_SECTORS (R174) -/

/-- R173 f, g, R174: the application of READ_SECTORS to a buffer. -/
theorem applySectors_read (d : Device) (i : Nat) (c : SectorCmd) (hop : c.op = .read) :
    let x := d.buf i
    let names := (List.range c.count).map (fun j => c.first + j)
    let ends : TermClass → Detail → List Byte → LoaderPort := fun cls detail bytes =>
      { d.port with engine := .result { cls := cls, detail := detail, code := 0x30, bytes := bytes } }
    ((∃ q ∈ names, x.sector? q = none) → d.applySectors i c = { d with port := ends .failed .noSector [] })
    ∧ ((∀ q ∈ names, (x.sector? q).isSome = true) → 8192 < c.count * x.dataLen →
      d.applySectors i c = { d with port := ends .failed .range [] })
    ∧ ∀ ss : List Sector, names.map x.sector? = ss.map some → c.count * x.dataLen ≤ 8192 →
      d.applySectors i c =
        { d with
          pool := { d.pool with lru := i :: d.pool.lru.filter (fun j => j != i) }
          port := { ends .done .none (ss.flatMap (fun t => [BitVec.ofNat 8 t.number, t.flags.reported])) with
            window := d.port.window.write 0 (ss.flatMap (fun t =>
              x.data.readRange (t.logical * x.dataLen) x.dataLen)) } } := by
  intro x names ends
  have hcode : Command.code (.sectors c) = 0x30 := by rw [code_sectors, hop, sectorCode]
  obtain ⟨hno, hbig⟩ := Device.applySectors_refuses d i c
  rw [hcode] at hno hbig
  refine ⟨hno, hbig, fun ss hss hfits => ?_⟩
  rw [Device.applySectors_applies d i c ss hss hfits, hop]
  show d.readSectorsInto i c ss = _
  unfold Device.readSectorsInto
  rw [hcode, List.flatMap_def, List.flatMap_def]
  rfl

/-- Settles O48: READ_SECTORS, at once and after a fill. -/
theorem sectorsAreRead : Obligations.SectorsAreRead := by
  unfold Obligations.SectorsAreRead
  refine ⟨fun s ub cb hb r n c f i hi hl hc hr hoff hm hf hlen hh => ?_, applySectors_read, SectorFlags.reported_toNat⟩
  intro x names
  have hop : c.op = .read := (sectorParams_eq_some hc).2.2.2.2.2.2.2.2.2
  have he : effect (.readSectors ub cb hb r n) s.dev = (s.dev.openFrame.execute (.sectors c)).applySectors i c :=
    ((effect_sector (m := 0) hi).1 hc).trans
      (((((judgeSectors_cases s.dev.openFrame c hr).2.2 hoff hm).2 (by rw [hop]; rfl)).2 f hf |>.2 hlen).trans
        (serveSectors_readable hh))
  obtain ⟨hno, hbig, hread⟩ := applySectors_read (s.dev.openFrame.execute (.sectors c)) i c hop
  refine ⟨fun h => answers_at_once hi (he.trans (hno h)), fun h1 h2 => answers_at_once hi (he.trans (hbig h1 h2)),
    fun ss h1 h2 => Follows.answers (he.trans (hread ss h1 h2)) (touched_rest (readableHolder_lt hh) hl hi rfl)⟩

/-! ### VERIFY_SECTORS (R174) -/

theorem toBytes_two (v : Nat) : toBytes 2 v = [BitVec.ofNat 8 (v / 256), BitVec.ofNat 8 v] := rfl

/-- R173 f, g, R174: the application of VERIFY_SECTORS to a buffer. -/
theorem applySectors_verify (d : Device) (i : Nat) (c : SectorCmd) (hop : c.op = .verify) :
    let x := d.buf i
    let names := (List.range c.count).map (fun j => c.first + j)
    let ends : TermClass → Detail → List Byte → LoaderPort := fun cls detail bytes =>
      { d.port with engine := .result { cls := cls, detail := detail, code := 0x32, bytes := bytes } }
    ((∃ q ∈ names, x.sector? q = none) → d.applySectors i c = { d with port := ends .failed .noSector [] })
    ∧ ((∀ q ∈ names, (x.sector? q).isSome = true) → 8192 < c.count * x.dataLen →
      d.applySectors i c = { d with port := ends .failed .range [] })
    ∧ ∀ ss : List Sector, names.map x.sector? = ss.map some → c.count * x.dataLen ≤ 8192 →
      let same : Nat → Nat → Sector → Prop := fun k j t =>
        d.port.window.read (k * x.dataLen + j) = x.data.read (t.logical * x.dataLen + j)
      let pool := { d.pool with lru := i :: d.pool.lru.filter (fun j => j != i) }
      ((∀ k t, ss[k]? = some t → ∀ j < x.dataLen, same k j t) →
        d.applySectors i c = { d with pool := pool, port := ends .done .equal [] })
      ∧ ∀ k t j, ss[k]? = some t → j < x.dataLen → ¬ same k j t → (∀ j' < j, same k j' t) →
        (∀ k' < k, ∀ t', ss[k']? = some t' → ∀ j' < x.dataLen, same k' j' t') →
        d.applySectors i c =
          { d with
            pool := pool
            port := ends .done .differ [BitVec.ofNat 8 t.number, BitVec.ofNat 8 (j / 256), BitVec.ofNat 8 j] } := by
  intro x names ends
  have hcode : Command.code (.sectors c) = 0x32 := by rw [code_sectors, hop, sectorCode]
  obtain ⟨hno, hbig⟩ := Device.applySectors_refuses d i c
  rw [hcode] at hno hbig
  refine ⟨hno, hbig, ?_⟩
  intro ss hss hfits same pool
  have hv : d.applySectors i c = d.verifySectorsWith i c ss := by
    rw [Device.applySectors_applies d i c ss hss hfits, hop]
  obtain ⟨hequal, hdiffer⟩ := firstDiffer_spec x d.port.window x.dataLen ss 0
  simp only [Nat.zero_add] at hequal hdiffer
  rw [hv]
  unfold Device.verifySectorsWith
  refine ⟨fun h => ?_, fun k t j ht hj hd hlow hbefore => ?_⟩
  · dsimp only
    rw [hequal h, hcode]
    rfl
  · dsimp only
    rw [hdiffer k t j ht hj hd hlow hbefore, hcode]
    rfl

/-- Settles O50: VERIFY_SECTORS, at once and after a fill. -/
theorem sectorsAreVerified : Obligations.SectorsAreVerified := by
  unfold Obligations.SectorsAreVerified
  refine ⟨fun s ub cb hb r n c f i hi hl hc hr hoff hm hf hlen hh => ?_, applySectors_verify⟩
  intro names
  have hop : c.op = .verify := (sectorParams_eq_some hc).2.2.2.2.2.2.2.2.2
  have he : effect (.verifySectors ub cb hb r n) s.dev = (s.dev.openFrame.execute (.sectors c)).applySectors i c :=
    ((effect_sector (m := 0) hi).2.1 hc).trans
      (((((judgeSectors_cases s.dev.openFrame c hr).2.2 hoff hm).2 (by rw [hop]; rfl)).2 f hf |>.2 hlen).trans
        (serveSectors_readable hh))
  obtain ⟨hno, hbig, hverify⟩ := applySectors_verify (s.dev.openFrame.execute (.sectors c)) i c hop
  have hrest : ∀ {p : LoaderPort} {x : CmdResult}, p.engine = .result x → s.dev.AtRest → _ :=
    touched_rest (readableHolder_lt hh) hl hi
  refine ⟨fun h => answers_at_once hi (he.trans (hno h)), fun h1 h2 => answers_at_once hi (he.trans (hbig h1 h2)), ?_⟩
  intro ss h1 h2 x same pool
  obtain ⟨hequal, hdiffer⟩ := hverify ss h1 h2
  exact ⟨fun h => Follows.answers (he.trans (hequal h)) (hrest rfl),
    fun k t j ht hj hd hlow hbefore => Follows.answers (he.trans (hdiffer k t j ht hj hd hlow hbefore)) (hrest rfl)⟩

end Sys2Proof.Proofs
end

section
namespace Sys2Proof.Proofs
open Sys2Proof Sys2Proof.Machine

/-! ### Writes into a buffer (R85) -/

/-- R85, R73: a write puts the changed contents and the buffer at the head of the LRU order, and the state follows. -/
theorem storeWrite_spec (d : Device) (i : Nat) (x : TrackBuffer) (setsDirty : Bool) (hi : i < d.pool.buffers.length) :
    let put : TrackBuffer → Device := fun y =>
      { d with pool := { d.pool with
        buffers := d.pool.buffers.set i y, lru := i :: d.pool.lru.filter (fun j => j != i) } }
    (setsDirty = false ∨ x.state ≠ .clean ∧ x.state ≠ .flushing → d.storeWrite i x setsDirty = put x)
    ∧ (setsDirty = true → x.state = .clean →
      let e := put { x with state := .dirty, dirtySince := some d.now }
      let current := ∃ k, x.key = some k ∧
        (d.currentTrack k.unit = some k ∧ (d.units.get k.unit).motor = true
          ∨ ∃ c, d.captures.get k.unit = some c ∧ c.state = .pending ∧ c.key = k)
      let joins := ¬ current ∨ ∃ k, x.key = some k
        ∧ ((d.seq.pending.get k.unit).isSome = true ∨ d.flushNames k.unit = true)
      (joins → i ∉ d.pool.queue →
        d.storeWrite i x setsDirty = { e with pool := { e.pool with queue := d.pool.queue ++ [i] } })
      ∧ (¬ joins ∨ i ∈ d.pool.queue → d.storeWrite i x setsDirty = e))
    ∧ (setsDirty = true → x.state = .flushing → d.storeWrite i x setsDirty =
      put { x with reDirtied := true, dirtySince := some (x.dirtySince.getD d.now) }) := by
  intro put
  have hput : ∀ y, ((d.setBuf i x).touch i).setBuf i y = put y := fun y => by
    dsimp only [put, Device.setBuf, Device.touch]
    rw [List.set_set]
  refine ⟨fun h => ?_, fun hd hs => ?_, fun hd hs => ?_⟩
  · rcases h with rfl | ⟨hc, hf⟩
    · rfl
    · unfold Device.storeWrite
      cases setsDirty with
      | false => rfl
      | true =>
        dsimp only
        cases hs : x.state with
        | clean => exact absurd hs hc
        | flushing => exact absurd hs hf
        | free => rfl
        | filling => rfl
        | dirty => rfl
  · intro e current joins
    have hbuf : e.buf i = { x with state := .dirty, dirtySince := some d.now } := by
      refine (Pool.buf_set d.pool i i _).trans (if_pos ⟨rfl, hi⟩)
    have hstore : d.storeWrite i x setsDirty = if e.joinsWhenDirty i then e.joinQueue i else e := by
      unfold Device.storeWrite
      rw [hd]
      dsimp only
      rw [hs, hput]
      rfl
    have hcurrent : e.bufCurrent i = true ↔ current := by
      rw [bufCurrent_iff, hbuf]
      refine ⟨fun ⟨_, k, hk, hc⟩ => ⟨k, hk, ?_⟩, fun ⟨k, hk, hc⟩ => ⟨nofun, k, hk, ?_⟩⟩
      · have hc' : d.isCurrent k = true := hc
        unfold Device.isCurrent at hc'
        rw [Bool.or_eq_true, Bool.and_eq_true, beq_iff_eq] at hc'
        refine hc'.imp id fun h => ?_
        cases hcap : d.captures.get k.unit with
        | none =>
          rw [hcap] at h
          exact nomatch h
        | some c =>
          rw [hcap] at h
          dsimp only at h
          rw [Bool.and_eq_true, beq_iff_eq, beq_iff_eq] at h
          exact ⟨c, rfl, h.1, h.2⟩
      · show d.isCurrent k = true
        unfold Device.isCurrent
        rw [Bool.or_eq_true, Bool.and_eq_true, beq_iff_eq]
        refine hc.imp id fun ⟨c, hcap, h1, h2⟩ => ?_
        rw [hcap]
        dsimp only
        rw [h1, h2, Bool.and_eq_true]
        exact ⟨rfl, beq_self_eq_true _⟩
    have hjoins : e.joinsWhenDirty i = true ↔ joins := by
      cases hk : x.key with
      | none =>
        have hnone : e.bufCurrent i = false := Bool.eq_false_iff.mpr fun h => by
          obtain ⟨k, h1, -⟩ := hcurrent.mp h
          exact nomatch hk.symm.trans h1
        refine ⟨fun _ => .inl fun ⟨k, h1, _⟩ => (nomatch hk.symm.trans h1), fun _ => ?_⟩
        unfold Device.joinsWhenDirty
        rw [hnone]
        rfl
      | some k =>
        rw [joinsWhenDirty_iff (k := k) (by rw [hbuf]; exact hk), ← Bool.not_eq_true, hcurrent]
        refine or_congr Iff.rfl ⟨fun h => ⟨k, hk, h⟩, fun ⟨k', hk', h⟩ => ?_⟩
        obtain rfl : k = k' := Option.some.inj (hk.symm.trans hk')
        exact h
    have hdirty : (e.buf i).state = .dirty := by rw [hbuf]
    refine ⟨fun hj hq => ?_, fun h => ?_⟩
    · rw [hstore, if_pos (hjoins.mpr hj)]
      exact (joinQueue_dirty hdirty).1 hq
    · rw [hstore]
      split
      · exact (joinQueue_dirty hdirty).2 (h.resolve_left fun hn => hn (hjoins.mp ‹_›))
      · rfl
  · unfold Device.storeWrite
    rw [hd]
    dsimp only
    rw [hs]
    exact hput _

/-- R88: with no FLUSH in execution in either, what the Loader Port executes plays no part in a write. -/
theorem storeWrite_setPort {d : Device} {p : LoaderPort}
    (hp : ∀ u, Device.flushNames { d with port := p } u = d.flushNames u) (i : Nat) (x : TrackBuffer) (b : Bool) :
    Device.storeWrite { d with port := p } i x b = { d.storeWrite i x b with port := p } := by
  have hj : ∀ e : Device, (∀ u, Device.flushNames { e with port := p } u = e.flushNames u) →
      Device.joinsWhenDirty { e with port := p } i = e.joinsWhenDirty i := fun e he => by
    unfold Device.joinsWhenDirty
    show _ = (!e.bufCurrent i || _)
    refine congrArg (fun z => !e.bufCurrent i || z) ?_
    show (match (e.buf i).key with
      | some k => (e.seq.pending.get k.unit).isSome || Device.flushNames { e with port := p } k.unit
      | none => false) = _
    cases (e.buf i).key with
    | none => rfl
    | some k =>
      dsimp only
      rw [he]
  have hq : ∀ e : Device, Device.joinQueue { e with port := p } i = { e.joinQueue i with port := p } := fun e => by
    unfold Device.joinQueue
    show (if (e.buf i).state == .dirty && !e.pool.queue.contains i then _ else _) = _
    split <;> rfl
  have hset : ∀ (e : Device) y, Device.setBuf { e with port := p } i y = { e.setBuf i y with port := p } := fun _ _ => rfl
  unfold Device.storeWrite
  cases b with
  | false => rfl
  | true =>
    dsimp only
    show (match x.state with
      | .clean =>
        let d2 := Device.setBuf { (d.setBuf i x).touch i with port := p } i { x with state := .dirty, dirtySince := some d.now }
        if d2.joinsWhenDirty i then d2.joinQueue i else d2
      | .flushing => Device.setBuf { (d.setBuf i x).touch i with port := p } i
          { x with reDirtied := true, dirtySince := some (x.dirtySince.getD d.now) }
      | .dirty | .free | .filling => { (d.setBuf i x).touch i with port := p }) = _
    cases x.state with
    | clean =>
      dsimp only
      rw [hset, hj, hq]
      · show (if _ then _ else _) = ({ (if _ then _ else _ : Device) with port := p } : Device)
        split <;> rfl
      · exact hp
    | flushing => rfl
    | free => rfl
    | filling => rfl
    | dirty => rfl

/-! ### WRITE_SECTORS (R86) -/

/-- The flags and the dirty mark that WRITE_SECTORS gives a named sector. -/
theorem loaderWrite_sectors (x : TrackBuffer) (w : Mem) (del : Bool) (names : List Nat) :
    (x.loaderWrite w del names).sectors = x.sectors.map (fun t =>
      if t.number ∈ names then
        { t with
          flags := { deleted := del, dataCrcBad := false, idCrcBad := t.flags.idCrcBad, noData := false
                     unreadable := false }
          dirty := true }
      else t) := by
  refine List.map_congr_left fun t _ => ?_
  exact if_congr List.contains_iff_mem rfl rfl

/-- R86: one sector of the table is laid down from the window when it is named. -/
def loaderStep (w : Mem) (names : List Nat) (n : Nat) (mem : Mem) (s : Sector) : Mem :=
  if names.contains s.number then
    Mem.write mem (s.logical * n) (w.readRange (names.idxOf s.number * n) n)
  else mem

theorem loaderWrite_data (x : TrackBuffer) (w : Mem) (del : Bool) (names : List Nat) :
    (x.loaderWrite w del names).data = x.sectors.foldl (loaderStep w names x.dataLen) x.data := rfl

theorem readRange_length (w : Mem) (a n : Nat) : (w.readRange a n).length = n := by
  unfold Mem.readRange
  rw [List.length_map, List.length_range]

theorem readRange_getD (w : Mem) (a n j : Nat) (hj : j < n) : (w.readRange a n).getD j 0 = w.read (a + j) := by
  unfold Mem.readRange
  rw [List.getD_eq_getElem?_getD, List.getElem?_map, List.getElem?_range hj]
  rfl

theorem loaderStep_read_self {w : Mem} {names : List Nat} {n j : Nat} (hj : j < n) (s : Sector) (mem : Mem) :
    (loaderStep w names n mem s).read (s.logical * n + j) =
      if s.number ∈ names then w.read (names.idxOf s.number * n + j) else mem.read (s.logical * n + j) := by
  unfold loaderStep
  by_cases h : s.number ∈ names
  · rw [if_pos (List.contains_iff_mem.mpr h), if_pos h, Mem.read_write_in _ _ _ _ (by rw [readRange_length]; exact hj),
      readRange_getD _ _ _ _ hj]
  · rw [if_neg (mt List.contains_iff_mem.mp h), if_neg h]

theorem loaderStep_read_other {w : Mem} {names : List Nat} {n j q : Nat} (hj : j < n) {s : Sector} (hq : s.logical ≠ q)
    (mem : Mem) : (loaderStep w names n mem s).read (q * n + j) = mem.read (q * n + j) := by
  unfold loaderStep
  split
  · rw [Mem.read_write_out]
    rw [readRange_length]
    rcases Nat.lt_or_gt_of_ne hq with h | h
    · have := Nat.mul_le_mul_right n (Nat.succ_le_of_lt h)
      rw [Nat.succ_mul] at this
      omega
    · have := Nat.mul_le_mul_right n (Nat.succ_le_of_lt h)
      rw [Nat.succ_mul] at this
      omega
  · rfl

theorem loaderFold_read_other {w : Mem} {names : List Nat} {n j q : Nat} (hj : j < n) : ∀ (ss : List Sector) (mem : Mem),
    (∀ s ∈ ss, s.logical ≠ q) → (ss.foldl (loaderStep w names n) mem).read (q * n + j) = mem.read (q * n + j)
  | [], _, _ => rfl
  | s :: ss, mem, h => by
    rw [List.foldl_cons, loaderFold_read_other hj ss _ fun t ht => h t (List.mem_cons_of_mem _ ht),
      loaderStep_read_other hj (h s List.mem_cons_self)]

/-- R86: of sectors with different logical indices each named one takes its bytes of the window, and no other byte changes. -/
theorem loaderFold_read {w : Mem} {names : List Nat} {n j : Nat} (hj : j < n) : ∀ (ss : List Sector) (mem : Mem),
    (ss.map Sector.logical).Nodup → ∀ t ∈ ss, (ss.foldl (loaderStep w names n) mem).read (t.logical * n + j) =
      if t.number ∈ names then w.read (names.idxOf t.number * n + j) else mem.read (t.logical * n + j)
  | [], _, _, _, ht => absurd ht List.not_mem_nil
  | s :: ss, mem, hnd, t, ht => by
    rw [List.map_cons, List.nodup_cons] at hnd
    obtain ⟨hs, hnd⟩ := hnd
    have hne : ∀ y ∈ ss, y.logical ≠ s.logical := fun y hy h => hs (h ▸ List.mem_map_of_mem hy)
    rw [List.foldl_cons]
    rcases List.mem_cons.mp ht with rfl | ht
    · rw [loaderFold_read_other hj ss _ hne, loaderStep_read_self hj]
    · rw [loaderFold_read hj ss _ hnd t ht, loaderStep_read_other hj (hne t ht).symm]

/-- R131: the flags of a sector before, by its number. -/
theorem oldFlags_of_mem {old : List Sector} (hnd : (old.map Sector.number).Nodup) {t s : Sector} (ht : t ∈ old)
    (hs : s.number = t.number) : oldFlags old s = t.flags := by
  have hfind : old.find? (fun y => y.number == s.number) = some t := by
    induction old with
    | nil => exact absurd ht List.not_mem_nil
    | cons a old ih =>
      rw [List.map_cons, List.nodup_cons] at hnd
      rcases List.mem_cons.mp ht with rfl | ht
      · exact List.find?_cons_of_pos (beq_iff_eq.mpr hs.symm)
      · rw [List.find?_cons_of_neg, ih hnd.2 ht]
        rw [beq_iff_eq, hs]
        exact fun h => hnd.1 (h ▸ List.mem_map_of_mem ht)
  unfold oldFlags
  rw [hfind]

/-- R86, R131: a stored flag changes just where that of a named sector does. -/
theorem loaderWrite_lost (x : TrackBuffer) (w : Mem) (del : Bool) (names : List Nat) (hnd : (x.sectors.map Sector.number).Nodup) :
    (x.loaderWrite w del names).sectors.any (fun s => (oldFlags x.sectors s).storedDiffer s.flags) = true ↔
      ∃ t ∈ x.sectors, t.number ∈ names ∧ t.flags.stored
        ≠ SectorFlags.stored { t.flags with deleted := del, dataCrcBad := false, noData := false } := by
  rw [loaderWrite_sectors, List.any_map, List.any_eq_true]
  refine exists_congr fun t => and_congr_right fun ht => ?_
  dsimp only [Function.comp]
  by_cases hn : t.number ∈ names
  · rw [if_pos hn, oldFlags_of_mem (s := { t with
      flags := { deleted := del, dataCrcBad := false, idCrcBad := t.flags.idCrcBad, noData := false, unreadable := false }
      dirty := true }) hnd ht rfl]
    exact bne_iff_ne.trans ⟨fun h => ⟨hn, h⟩, fun h => h.2⟩
  · rw [if_neg hn, oldFlags_of_mem hnd ht rfl]
    exact bne_iff_ne.trans ⟨fun h => absurd rfl h, fun h => absurd h.1 hn⟩

/-- R173 f, g, R86: the application of WRITE_SECTORS to a buffer. -/
theorem applySectors_write (d : Device) (i : Nat) (c : SectorCmd) (del : Bool) (hop : c.op = .write del) :
    let x := d.buf i
    let names := (List.range c.count).map (fun j => c.first + j)
    let ends : TermClass → Detail → List Byte → LoaderPort := fun cls detail bytes =>
      { d.port with engine := .result { cls := cls, detail := detail, code := 0x31, bytes := bytes } }
    ((∃ q ∈ names, x.sector? q = none) → d.applySectors i c = { d with port := ends .failed .noSector [] })
    ∧ ((∀ q ∈ names, (x.sector? q).isSome = true) → 8192 < c.count * x.dataLen →
      d.applySectors i c = { d with port := ends .failed .range [] })
    ∧ ((∀ q ∈ names, (x.sector? q).isSome = true) → c.count * x.dataLen ≤ 8192 →
      (x.sectors.map Sector.number).Nodup → ∀ q, d.images.get c.key.unit = some q →
      let lost := ∃ t ∈ x.sectors, t.number ∈ names ∧ t.flags.stored
        ≠ SectorFlags.stored { t.flags with deleted := del, dataCrcBad := false, noData := false }
      let stored := d.storeWrite i (x.loaderWrite d.port.window del names) true
      let e := if q.hasFlagMap = false ∧ lost then
          stored.report
            { cls := .corrected, cause := .flagLost, op := .loader, unit := some c.key.unit
              track := some { cyl := c.key.cyl, head := c.key.head, r := none }, block := none }
        else stored
      d.applySectors i c = { e with port := ends .done .none [] }) := by
  intro x names ends
  have hcode : Command.code (.sectors c) = 0x31 := by rw [code_sectors, hop, sectorCode]
  obtain ⟨hno, hbig⟩ := Device.applySectors_refuses d i c
  rw [hcode] at hno hbig
  refine ⟨hno, hbig, ?_⟩
  intro hall hfits hnd q hq lost stored e
  obtain ⟨ss, hss⟩ : ∃ ss, namedSectors x c.numbers = some ss := by
    cases h : namedSectors x c.numbers with
    | some ss => exact ⟨ss, rfl⟩
    | none =>
      obtain ⟨y, hy, hn⟩ := ((namedSectors_spec x c.numbers).2).mp h
      exact nomatch (hn ▸ hall y hy :)
  have hw : d.applySectors i c = d.writeSectorsFrom i c del := by
    rw [Device.applySectors_applies d i c ss (((namedSectors_spec x c.numbers).1 ss).mp hss) hfits, hop]
  have hlost : (!d.hasFlagMap c.key.unit && (x.loaderWrite d.port.window del c.numbers).sectors.any
      (fun s => (oldFlags x.sectors s).storedDiffer s.flags)) = true ↔ q.hasFlagMap = false ∧ lost := by
    have hmap : d.hasFlagMap c.key.unit = q.hasFlagMap := by
      unfold Device.hasFlagMap
      rw [hq]
    rw [Bool.and_eq_true, hmap, Bool.not_eq_true', loaderWrite_lost x _ del _ hnd]
    rfl
  have he : (if (!d.hasFlagMap c.key.unit && (x.loaderWrite d.port.window del c.numbers).sectors.any
      (fun s => (oldFlags x.sectors s).storedDiffer s.flags)) = true then
        stored.report (mkReport .corrected .flagLost .loader (some c.key.unit) (some c.key.loc)) else stored) = e :=
    if_congr hlost rfl rfl
  have hport : e.port = d.port := by
    rw [← he]
    split
    · exact (Device.report_port _ _).trans (storeWrite_port d i _ true)
    · exact storeWrite_port d i _ true
  rw [hw]
  show Device.done (if _ then _ else _) (Command.code (.sectors c)) = _
  rw [hcode]
  refine (congrArg (fun z : Device => z.done 0x31) he).trans ?_
  unfold Device.done Device.finish
  rw [hport]

/-- Settles O49: WRITE_SECTORS, at once and after a fill, what it changes in its buffer, and what a write makes of it. -/
theorem sectorsAreWritten : Obligations.SectorsAreWritten := by
  unfold Obligations.SectorsAreWritten
  refine ⟨fun s ub cb hb r n m del c hi hm hc hr hoff => ?_, applySectors_write, SectorFlags.stored_toNat,
    fun x w del names _ hl => ⟨loaderWrite_sectors x w del names, fun t ht j hj => ?_⟩,
    fun d i x b h => storeWrite_spec d i x b h⟩
  · have hop : c.op = .write del := (sectorParams_eq_some hc).2.2.2.2.2.2.2.2.2
    have hw : c.op.writes = true := by rw [hop]; rfl
    have he0 := (effect_sector hi).2.2 del hm hc
    have hmounted : ∀ q, s.dev.images.get c.key.unit = some q → s.dev.openFrame.mounted c.key.unit = true
        ∧ s.dev.openFrame.readOnlyImage c.key.unit = q.readOnly := fun q hq => by
      refine ⟨?_, ?_⟩
      · show (s.dev.images.get c.key.unit).isSome = true
        rw [hq]
        rfl
      · unfold Device.readOnlyImage
        rw [show s.dev.openFrame.images.get c.key.unit = some q from hq]
    have hjudge := (judgeSectors_cases s.dev.openFrame c hr).2.2 hoff
    refine ⟨fun q hq hro => ?_, fun q f i hq hro hf hlen hh => ?_⟩
    · obtain ⟨hmt, hrd⟩ := hmounted q hq
      have hcode : sectorCode c.op = 0x31 := by rw [hop]; rfl
      exact answers_at_once hi (he0.trans (((hjudge hmt).1 (by rw [hw, hrd, hro]; rfl)).trans (by rw [hcode]; rfl)))
    · intro x names lost
      obtain ⟨hmt, hrd⟩ := hmounted q hq
      have he : effect (.writeSectors ub cb hb r n m) s.dev = (s.dev.openFrame.execute (.sectors c)).applySectors i c :=
        he0.trans (((((hjudge hmt).2 (by rw [hrd, hro, Bool.and_false])).2 f hf).2 hlen).trans (serveSectors_readable hh))
      obtain ⟨hno, hbig, hwrite⟩ := applySectors_write (s.dev.openFrame.execute (.sectors c)) i c del hop
      refine ⟨fun h => answers_at_once hi (he.trans (hno h)), fun h1 h2 => answers_at_once hi (he.trans (hbig h1 h2)), ?_⟩
      intro h1 h2 hnd d e
      refine Follows.leads (he.trans ((hwrite h1 h2 hnd q hq).trans ?_))
      have hstore : (s.dev.openFrame.execute (.sectors c)).storeWrite i (x.loaderWrite s.dev.port.window del names) true =
          { d with port := (s.dev.openFrame.execute (.sectors c)).port } := by
        refine storeWrite_setPort (d := s.dev) (p := (s.dev.openFrame.execute (.sectors c)).port) (fun u => ?_) i _ true
        unfold Device.flushNames
        rw [hi]
        rfl
      have hlost : ∀ y : Device, y = { d with port := (s.dev.openFrame.execute (.sectors c)).port } → ∀ p,
          ({ (if q.hasFlagMap = false ∧ lost then y.report
            { cls := .corrected, cause := .flagLost, op := .loader, unit := some c.key.unit
              track := some { cyl := c.key.cyl, head := c.key.head, r := none }, block := none } else y : Device) with
            port := p } : Device) = { e with port := p } := fun y hy p => by
        rw [hy]
        dsimp only [e]
        split <;> rfl
      exact hlost _ hstore _
  · rw [loaderWrite_data]
    exact loaderFold_read hj x.sectors x.data hl t ht

end Sys2Proof.Proofs
end

section
namespace Sys2Proof.Proofs
open Sys2Proof Sys2Proof.Machine

/-! ### The block commands (R176) -/

/-- R56, R151, R176: the records of a unit. -/
theorem mem_recordsOf (d : Device) (u : UnitId) (m : MountRecord) : m ∈ d.recordsOf u ↔
    d.images.get u = some m
    ∨ (∃ x p, d.seq.pending.get u = some x ∧ x.image = some (.mount m p))
    ∨ ∃ g p, d.seq.group = some g ∧ (g.get u).image = some (.mount m p) := by
  have hrecord : ∀ x : Change, x.record? = some m ↔ ∃ p, x.image = some (.mount m p) := fun x => by
    unfold Change.record?
    cases x.image with
    | none => exact ⟨nofun, fun ⟨_, h⟩ => nomatch h⟩
    | some part =>
      cases part with
      | eject => exact ⟨nofun, fun ⟨_, h⟩ => nomatch h⟩
      | mount n p =>
        refine ⟨fun h => ?_, fun ⟨q, h⟩ => ?_⟩
        · obtain rfl : n = m := Option.some.inj h
          exact ⟨p, rfl⟩
        · cases h
          rfl
  unfold Device.recordsOf
  rw [List.mem_append, List.mem_append, Option.mem_toList, Option.mem_toList, Option.mem_toList, or_assoc]
  refine or_congr Iff.rfl (or_congr ?_ ?_)
  · rw [Option.bind_eq_some_iff]
    exact ⟨fun ⟨x, h, hx⟩ => ((hrecord x).mp hx).elim fun p hp => ⟨x, p, h, hp⟩,
      fun ⟨x, p, h, hp⟩ => ⟨x, h, (hrecord x).mpr ⟨p, hp⟩⟩⟩
  · cases hg : d.seq.group with
    | none =>
      have hs : d.staged u = Change.empty := by
        unfold Device.staged
        rw [hg]
      rw [hs]
      exact ⟨nofun, fun ⟨_, _, h, _⟩ => nomatch h⟩
    | some g =>
      rw [staged_of_open hg, hrecord]
      exact ⟨fun ⟨p, h⟩ => ⟨g, p, rfl, h⟩, fun ⟨g', p, h, h'⟩ => ⟨p, Option.some.inj h ▸ h'⟩⟩

/-- R176 c: a block of the run lies in a span. -/
theorem protectedArea_iff (d : Device) (b n : Nat) : d.protectedArea b n = true ↔
    ∃ u, ∃ m ∈ d.recordsOf u, ∃ i < n, m.spanLow ≤ b + i ∧ b + i ≤ m.spanHigh := by
  unfold Device.protectedArea MountRecord.spans
  simp only [List.any_eq_true, List.mem_append, List.mem_range, Bool.and_eq_true, decide_eq_true_iff]
  refine ⟨fun ⟨m, hm, h⟩ => hm.elim (fun hm => ⟨.u0, m, hm, h⟩) (fun hm => ⟨.u1, m, hm, h⟩), fun ⟨u, m, hm, h⟩ => ?_⟩
  cases u
  · exact ⟨m, .inl hm, h⟩
  · exact ⟨m, .inr hm, h⟩

/-- R176: what the two block commands meet in order. -/
theorem judgeBlocks_cases (d : Device) (b : Nat) {count : Byte} (h1 : 1 ≤ count.toNat) (h2 : count.toNat ≤ 16) :
    (d.card.state ≠ .ready → d.judgeReadBlocks b count = d.refuse 0x40 .cardState
      ∧ d.judgeWriteBlocks b count = d.refuse 0x41 .cardState)
    ∧ (d.card.state = .ready → d.card.capacity.getD 0 ≤ b + count.toNat - 1 →
      d.judgeReadBlocks b count = d.refuse 0x40 .range ∧ d.judgeWriteBlocks b count = d.refuse 0x41 .range)
    ∧ (d.card.state = .ready → b + count.toNat - 1 < d.card.capacity.getD 0 →
      d.judgeReadBlocks b count = (d.execute (.readBlocks b count.toNat)).requestBlocks .read b count.toNat
      ∧ (d.protectedArea b count.toNat = true → d.judgeWriteBlocks b count = d.refuse 0x41 .protectedArea)
      ∧ (d.protectedArea b count.toNat = false → d.judgeWriteBlocks b count =
        (d.execute (.writeBlocks b count.toNat)).requestBlocks .write b count.toNat)) := by
  have hcount : blockCountParam count = some count.toNat := if_pos ⟨h1, h2⟩
  have hread : ∀ r, d.blocksRefusal b count.toNat = some r → d.judgeReadBlocks b count = d.refuse 0x40 r
      ∧ d.judgeWriteBlocks b count = d.refuse 0x41 r := fun r hr => by
    unfold Device.judgeReadBlocks Device.judgeWriteBlocks
    rw [hcount]
    dsimp only
    rw [hr]
    exact ⟨rfl, rfl⟩
  refine ⟨fun h => hread _ (if_pos h), fun h hc => hread _ ((if_neg (not_not.mpr h)).trans (if_pos hc)), fun h hc => ?_⟩
  have hnone : d.blocksRefusal b count.toNat = none :=
    (if_neg (not_not.mpr h)).trans (if_neg (Nat.not_le.mpr hc))
  unfold Device.judgeReadBlocks Device.judgeWriteBlocks
  rw [hcount]
  dsimp only
  rw [hnone]
  exact ⟨rfl, fun hp => if_pos hp, fun hp => if_neg (Bool.eq_false_iff.mp hp)⟩

/-- Settles O51: the block commands by the card, the range and the records, and the end of their run. -/
theorem blockCommandsWaitForOneRun : Obligations.BlockCommandsWaitForOneRun := by
  unfold Obligations.BlockCommandsWaitForOneRun
  refine ⟨?_, ?_, mem_recordsOf⟩
  · intro s b n hi h1 h2 cap guarded waits
    have heR : effect (.readBlocks b n) s.dev = s.dev.openFrame.judgeReadBlocks b.toNat n :=
      onCommand_of_idle (fun x => x.judgeReadBlocks b.toNat n) hi
    have heW : effect (.writeBlocks b n) s.dev = s.dev.openFrame.judgeWriteBlocks b.toNat n :=
      onCommand_of_idle (fun x => x.judgeWriteBlocks b.toNat n) hi
    obtain ⟨hstate, hrange, hpass⟩ := judgeBlocks_cases s.dev.openFrame b.toNat h1 h2
    have hguard : s.dev.openFrame.protectedArea b.toNat n.toNat = true ↔ guarded :=
      protectedArea_iff s.dev.openFrame b.toNat n.toNat
    have hrest : ∀ c kind, (Device.commandKey (s.dev.executing c)) = none → (waits c kind).flushDone = none →
        s.dev.AtRest → (waits c kind).micro = none := fun c kind hk hf hq =>
      rest_ended (d := s.dev) rfl rfl rfl rfl rfl rfl (fun _ => ⟨rfl, rfl, rfl⟩) (hk.trans (commandKey_idle hi).symm) hf hq
    refine ⟨fun h => ?_, fun h hc => ?_, fun h hc => ⟨?_, fun hg => ?_, fun hg => ?_⟩⟩
    · exact ⟨answers_at_once hi (heR.trans (hstate h).1), answers_at_once hi (heW.trans (hstate h).2)⟩
    · exact ⟨answers_at_once hi (heR.trans (hrange h hc).1), answers_at_once hi (heW.trans (hrange h hc).2)⟩
    · exact Follows.answers (heR.trans ((hpass h hc).1.trans (engineRequest_eq (d := s.dev) hi h rfl _ rfl)))
        (hrest (.readBlocks b.toNat n.toNat) .read rfl rfl)
    · exact answers_at_once hi (heW.trans ((hpass h hc).2.1 (hguard.mpr hg)))
    · exact Follows.answers (heW.trans (((hpass h hc).2.2 (Bool.eq_false_iff.mpr (mt hguard.mp hg))).trans
        (engineRequest_eq (d := s.dev) hi h rfl _ rfl))) (hrest (.writeBlocks b.toNat n.toNat) .write rfl rfl)
  · intro d b n data ended
    refine ⟨fun he => ⟨?_, ?_⟩, fun he => ⟨?_, ?_⟩⟩
    all_goals
      unfold Device.engineNews
      rw [he]
      rfl

/-! ### CARD_RESET (R149) -/

/-- R149: an initialization that begins for a CARD_RESET, but for the requests that it tells. -/
theorem settles_news (d : Device) (ns : List RunNews) : Settles d { d with news := ns } where
  now := rfl
  lines := rfl
  units := rfl
  readData := rfl
  cursor := rfl
  frameFault := rfl
  mask := rfl
  frameOut := rfl
  idle _ := ⟨rfl, rfl⟩
  cardState := rfl
  capacity := rfl
  initTime := rfl
  run := rfl
  retry := rfl
  resetWaits := rfl
  enables _ := rfl
  drive := rfl
  mounted _ := rfl
  images _ := rfl
  captures _ := .inl rfl

/-- Settles O54: CARD_RESET is refused, waits for the run, or begins the initialization. -/
theorem aCardResetInitializesAgain : Obligations.ACardResetInitializesAgain := by
  unfold Obligations.ACardResetInitializesAgain
  intro s hi carries idle ready
  have he : effect .cardReset s.dev = s.dev.openFrame.judgeCardReset := onCommand_of_idle Device.judgeCardReset hi
  have hcarries : (s.dev.openFrame.carries .u0 || s.dev.openFrame.carries .u1) = true ↔ carries := by
    rw [Bool.or_eq_true]
    exact (carries_iff s.dev).symm
  have hready : s.dev.card.state = .absent ∨ s.dev.card.state = .initializing ↔ ¬ ready := by
    dsimp only [ready]
    cases s.dev.card.state <;> decide
  have hstart : ¬ carries → ready → effect .cardReset s.dev = s.dev.openFrame.startCardReset := fun h1 h2 =>
    he.trans ((if_neg (mt hcarries.mp h1)).trans (if_neg fun h => hready.mp h h2))
  have hbusy : ((s.dev.openFrame.execute .cardReset).card.run.isSome || (s.dev.openFrame.execute .cardReset).card.retry.isSome)
      = true ↔ ¬ idle := by
    show (s.dev.card.run.isSome || s.dev.card.retry.isSome) = true ↔ ¬ (s.dev.card.run = none ∧ s.dev.card.retry = none)
    cases s.dev.card.run <;> cases s.dev.card.retry <;> simp
  refine ⟨fun h => answers_at_once hi (he.trans (if_pos (hcarries.mpr h))), fun h1 h2 => answers_at_once hi
    (he.trans ((if_neg (mt hcarries.mp h1)).trans (if_pos (hready.mpr h2)))), fun h1 h2 h3 => ?_, ?_⟩
  · refine Follows.answers ((hstart h1 h2).trans (if_pos (hbusy.mpr h3))) fun hq => ?_
    exact rest_ended (d := s.dev) rfl rfl rfl rfl rfl rfl (fun _ => ⟨rfl, rfl, rfl⟩) ((commandKey_idle hi).symm ▸ rfl) rfl hq
  · intro h1 h2 h3 e
    have hb : effect .cardReset s.dev = { e with
        news := s.dev.news ++ s.dev.card.requests.map (fun r => { who := r.who, ok := false, data := [] }) } :=
      (hstart h1 h2).trans ((if_neg (mt hbusy.mp (not_not.mpr h3))).trans (beginInit_eq _))
    refine ⟨Follows.reaches ?_, fun hr => Follows.answers ?_ fun hq => ?_⟩
    · rw [hb]
      exact settles_news e _
    · rw [hb, hr, List.map_nil, List.append_nil]
      rfl
    · exact rest_ended (d := s.dev) rfl rfl rfl rfl rfl rfl (fun _ => ⟨rfl, rfl, rfl⟩) ((commandKey_idle hi).symm ▸ rfl) rfl hq

/-! ### FLUSH (R177) -/

/-- R177 d: the condition of FLUSH for one unit. -/
theorem unitSaved_iff (d : Device) (u : UnitId) : d.unitSaved u = true ↔
    (∀ i < 8, d.ownedBy i u = true → (d.buf i).state ≠ .dirty ∧ (d.buf i).state ≠ .flushing)
    ∧ ∀ m, d.images.get u = some m → m.headerState = .clean := by
  unfold Device.unitSaved
  rw [Bool.and_eq_true, beq_iff_eq, unsavedCount_eq_zero]
  refine and_congr ?_ ?_
  · refine forall_congr' fun i => forall_congr' fun _ => ?_
    rw [ownedBy_iff]
    exact ⟨fun h ⟨k, hk, hu⟩ => h k hk hu, fun h k hk hu => h ⟨k, hk, hu⟩⟩
  · unfold Device.headerDirty
    cases d.images.get u with
    | none => exact ⟨fun _ _ h => (nomatch h), fun _ => rfl⟩
    | some m =>
      dsimp only
      rw [Bool.not_eq_true', bne_eq_false_iff_eq]
      exact ⟨fun h _ g => Option.some.inj g ▸ h, fun h => h m rfl⟩

theorem flushHolds_iff (d : Device) (sel : FlushSel) : d.flushHolds sel = true ↔ ∀ u, sel.names u = true →
    (∀ i < 8, d.ownedBy i u = true → (d.buf i).state ≠ .dirty ∧ (d.buf i).state ≠ .flushing)
    ∧ ∀ m, d.images.get u = some m → m.headerState = .clean := by
  have hone : ∀ u, (!sel.names u || d.unitSaved u) = true ↔ (sel.names u = true → d.unitSaved u = true) := fun u => by
    cases sel.names u <;> simp
  unfold Device.flushHolds
  rw [Bool.and_eq_true, hone, hone]
  refine ⟨fun h u hu => (unitSaved_iff d u).mp ?_, fun h => ⟨fun hu => (unitSaved_iff d _).mpr (h _ hu),
    fun hu => (unitSaved_iff d _).mpr (h _ hu)⟩⟩
  cases u
  · exact h.1 hu
  · exact h.2 hu

/-- R67: when the header write of a unit is requested, and when it is not. -/
theorem requestHeader_cases (d : Device) (u : UnitId) :
    ((∀ m, d.images.get u = some m → m.headerState ≠ .dirty) → d.requestHeader u = d)
    ∧ ∀ m, d.images.get u = some m → m.headerState = .dirty →
      ((∃ q ∈ d.card.requests, q.who = .header u) → d.requestHeader u = d)
      ∧ ((∀ q ∈ d.card.requests, q.who ≠ .header u) → (∀ q ∈ d.news, q.who ≠ .header u) →
        d.card.state = .ready → d.requestHeader u =
          { d with card := { d.card with requests := d.card.requests ++ [
            { who := .header u, kind := .write, block := m.headerBlock, count := 4, time := d.now, op := .flush
              unit := some u, track := none }] } }) := by
  refine ⟨fun h => ?_, fun m hm hs => ⟨fun ⟨q, hq, hw⟩ => ?_, fun hq hn hc => ?_⟩⟩
  · unfold Device.requestHeader
    split
    · exact if_neg fun g => h _ ‹_› (beq_iff_eq.mp (Bool.and_eq_true_iff.mp g).1)
    · rfl
  · have ha : d.asked (.header u) = true := by
      unfold Device.asked
      rw [Bool.or_eq_true, List.any_eq_true]
      exact .inl ⟨q, hq, beq_iff_eq.mpr hw⟩
    unfold Device.requestHeader
    rw [hm]
    dsimp only
    rw [hs, ha]
    rfl
  · have ha : d.asked (.header u) = false := by
      unfold Device.asked
      rw [Bool.or_eq_false_iff, List.any_eq_false, List.any_eq_false]
      exact ⟨fun q h => fun g => hq q h (beq_iff_eq.mp g), fun q h => fun g => hn q h (beq_iff_eq.mp g)⟩
    unfold Device.requestHeader
    rw [hm]
    dsimp only
    rw [hs, ha]
    show d.request _ = _
    rw [request_ready hc, requestClass_header d rfl]
    rfl

/-- R177 c: what FLUSH asks of a unit. -/
theorem flushUnit_cases (d : Device) (sel : FlushSel) (u : UnitId) :
    (sel.names u = false → d.flushUnit sel u = d)
    ∧ (sel.names u = true → d.flushUnit sel u = (d.joinUnit u).requestHeader u) :=
  ⟨fun h => if_neg (Bool.eq_false_iff.mp h), fun h => if_pos h⟩

/-- With the card READY, what FLUSH asks of a unit changes the queue and the set of requests alone. -/
theorem flushUnit_ready (d : Device) (sel : FlushSel) (u : UnitId) (hs : d.card.state = .ready) :
    ∃ n q c, d.flushUnit sel u = { d with freeCount := n, pool := { d.pool with queue := q }, card := c } ∧ c.state = .ready := by
  obtain ⟨hout, hin⟩ := flushUnit_cases d sel u
  cases hn : sel.names u with
  | false => exact ⟨d.freeCount, d.pool.queue, d.card, hout hn, hs⟩
  | true =>
    obtain ⟨-, n, l, hj⟩ := joinUnit_spec d u
    rw [hin hn, hj]
    unfold Device.requestHeader
    split
    · split
      · rw [request_ready (d := { d with freeCount := n, pool := { d.pool with queue := d.pool.queue ++ l } }) hs]
        exact ⟨n, _, _, rfl, hs⟩
      · exact ⟨n, _, d.card, rfl, hs⟩
    · exact ⟨n, _, d.card, rfl, hs⟩

/-- With nothing owed, what FLUSH asks of a unit owes nothing more. -/
theorem flushUnit_rest {d : Device} (sel : FlushSel) (u : UnitId) (hs : d.card.state = .ready) (h : d.micro = none) :
    (d.flushUnit sel u).micro = none ∧ (d.flushUnit sel u).card.state = .ready := by
  obtain ⟨n, q, c, he, hc⟩ := flushUnit_ready d sel u hs
  rw [he]
  exact ⟨card_rest _ c n (queue_rest d q h), hc⟩

/-- Settles O52: FLUSH ends at once, is refused, or waits for its units, and how a header write ends. -/
theorem aFlushWaitsForItsUnits : Obligations.AFlushWaitsForItsUnits := by
  unfold Obligations.AFlushWaitsForItsUnits
  refine ⟨?_, fun d sel u i hn hi ho hs => ?_, fun d sel u => ?_, requestHeader_cases, ?_, ?_⟩
  · intro s b sel hi hb saved
    have he : effect (.flush b) s.dev = s.dev.openFrame.judgeFlush b := onCommand_of_idle (fun x => x.judgeFlush b) hi
    have hj : s.dev.openFrame.judgeFlush b = if s.dev.openFrame.flushHolds sel then s.dev.openFrame.done 0x33
        else if s.dev.openFrame.card.state ≠ .ready then s.dev.openFrame.refuse 0x33 .cardState
        else ((s.dev.openFrame.execute (.flush sel)).flushUnit sel .u0).flushUnit sel .u1 := by
      unfold Device.judgeFlush
      rw [hb]
    have hsaved : s.dev.openFrame.flushHolds sel = true ↔ saved := flushHolds_iff s.dev.openFrame sel
    refine ⟨fun h => answers_at_once hi (he.trans (hj.trans (if_pos (hsaved.mpr h)))), fun h1 h2 => answers_at_once hi
      (he.trans (hj.trans ((if_neg (mt hsaved.mp h1)).trans (if_pos h2)))), fun h1 h2 => ?_⟩
    refine Follows.answers (he.trans (hj.trans ((if_neg (mt hsaved.mp h1)).trans (if_neg (not_not.mpr h2))))) fun hq => ?_
    have h0 : (s.dev.executing (.flush sel)).micro = none := by
      refine rest_ended (d := s.dev) rfl rfl rfl rfl rfl rfl (fun _ => ⟨rfl, rfl, rfl⟩) ((commandKey_idle hi).symm ▸ rfl) ?_ hq
      exact if_neg (mt hsaved.mp h1)
    obtain ⟨h3, h4⟩ := flushUnit_rest (d := s.dev.executing (.flush sel)) sel .u0 h2 h0
    exact (flushUnit_rest sel .u1 h4 h3).1
  · rw [(flushUnit_cases d sel u).2 hn, requestHeader_pool]
    exact ((joinUnit_spec d u).1 i).mpr (.inr ⟨hi, ho, hs⟩)
  · obtain ⟨hout, hin⟩ := flushUnit_cases d sel u
    obtain ⟨-, n, l, hj⟩ := joinUnit_spec d u
    exact ⟨hout, fun h => ⟨n, l, (hin h).trans (congrArg (Device.requestHeader · u) hj)⟩⟩
  · intro d sel he saved next
    have hsaved : d.flushHolds sel = true ↔ saved := flushHolds_iff d sel
    have hdone : d.flushDone = if d.flushHolds sel then some (d.done 0x33) else none := by
      unfold Device.flushDone
      rw [he]
    have hnext : ∀ x, d.flushDone = x → next x := fun x hx => ⟨hx, fun ho hn hw h0 h1 hwaits => by
      have hd : d.dropStaleWaits = none := by
        unfold Device.dropStaleWaits
        rw [hwaits]
        rfl
      have hsw : d.serveWait = none := by
        unfold Device.serveWait Device.firstWait
        rw [hwaits]
        rfl
      unfold Device.micro
      rw [ho, hn, hw, h0, h1, hd, hsw, hx]
      rfl⟩
    exact ⟨fun h => hnext _ (hdone.trans (if_pos (hsaved.mpr h))), fun h => hnext _ (hdone.trans (if_neg (mt hsaved.mp h)))⟩
  · intro d u m data hm e f
    have hnews : ∀ ok, d.headerNews u ok = if ok then e.requestHeader u
        else (if f.flushNames u then f.finishCommand .failed .cardError else f).requestHeader u := fun ok => by
      unfold Device.headerNews
      rw [hm]
      rfl
    have hflush : f.flushNames u = d.flushNames u := rfl
    refine ⟨hnews true, fun h => (hnews false).trans ?_, fun h => (hnews false).trans ?_⟩
    · rw [hflush, h]
      rfl
    · rw [hflush, h, if_neg Bool.false_ne_true, if_pos rfl, finishCommand_of_flushNames (hflush.trans h)]

end Sys2Proof.Proofs
end

section
namespace Sys2Proof.Proofs
open Sys2Proof Sys2Proof.Machine

/-! ### The bank commands (R172, R178, R183, R189, R190) -/

/-- R182: the code of a cause is its place among those of its bank. -/
theorem causeCode_eq (c : Cause) : c.code = (match c.bank with
    | .drive => [Cause.doubleSelect, .stepLimit, .writeNoDisk, .stepDuringWrite, .writeProtected, .writeNoTrack]
    | .track => [.writeCrc, .overlongWrite, .idMismatch, .trackNotReady, .partialWrite, .flagLost, .strayWrite,
        .formatMixed, .formatSize, .formatFit, .formatTableFull]
    | .map => [.chainLimit, .chainShort, .fetchFail, .headerWrite]
    | .card => [.cardCrc, .cardReject, .cardTimeout, .cardRemoved, .initFail]).idxOf c + 1 := by
  cases c <;> rfl

/-- R180: the code of an operation is its place in the list of operations. -/
theorem operationCode_eq (o : Operation) :
    o.code = ([.fill, .flush, .fetch, .capture, .mount, .loader, .init, .drive] : List Operation).idxOf o + 1 := by
  cases o <;> rfl

/-- R180: three bits of a byte from bit 0, and four. -/
theorem threeBits_eq (a b c : Bool) : bitByte 0 a ||| bitByte 1 b ||| bitByte 2 c =
    BitVec.ofNat 8 ((if a then 1 else 0) + (if b then 2 else 0) + (if c then 4 else 0)) := by
  revert a b c
  decide

theorem fourBits_eq (a b c d : Bool) : bitByte 0 a ||| bitByte 1 b ||| bitByte 2 c ||| bitByte 3 d =
    BitVec.ofNat 8 ((if a then 1 else 0) + (if b then 2 else 0) + (if c then 4 else 0) + (if d then 8 else 0)) := by
  revert a b c d
  decide

/-- R189: the fourteen bytes of a bank that holds a record. -/
theorem resultBytes_some {b : Bank} {r : Report} (h : b.record = some r) : b.resultBytes =
    [ BitVec.ofNat 8 (1 + (if b.overflow then 2 else 0) + (if b.enabled r.cause then 4 else 0)),
      BitVec.ofNat 8 r.cls.code, BitVec.ofNat 8 r.cause.code, BitVec.ofNat 8 r.op.code,
      BitVec.ofNat 8 ((if r.unit.isSome then 1 else 0) + (if r.track.isSome then 2 else 0)
        + (if ((r.track.getD { cyl := 0, head := 0, r := none }).r).isSome then 4 else 0)
        + (if r.block.isSome then 8 else 0)),
      (if r.unit = some .u1 then 1 else 0),
      BitVec.ofNat 8 (r.track.getD { cyl := 0, head := 0, r := none }).cyl,
      BitVec.ofNat 8 (r.track.getD { cyl := 0, head := 0, r := none }).head,
      BitVec.ofNat 8 ((r.track.getD { cyl := 0, head := 0, r := none }).r.getD 0),
      BitVec.ofNat 8 (r.block.getD 0 / 16777216), BitVec.ofNat 8 (r.block.getD 0 / 65536),
      BitVec.ofNat 8 (r.block.getD 0 / 256), BitVec.ofNat 8 (r.block.getD 0), BitVec.ofNat 8 b.count ] := by
  have hr : r.sectorR = (r.track.getD { cyl := 0, head := 0, r := none }).r := by
    unfold Report.sectorR
    cases r.track <;> rfl
  have hc : (r.track.map TrackLoc.cyl).getD 0 = (r.track.getD { cyl := 0, head := 0, r := none }).cyl := by
    cases r.track <;> rfl
  have hh : (r.track.map TrackLoc.head).getD 0 = (r.track.getD { cyl := 0, head := 0, r := none }).head := by
    cases r.track <;> rfl
  have hu : BitVec.ofNat 8 ((r.unit.map unitCode).getD 0) = if r.unit = some .u1 then 1 else 0 := by
    cases r.unit with
    | none => rfl
    | some u => cases u <;> rfl
  unfold Bank.resultBytes
  rw [h]
  dsimp only
  rw [hr, hc, hh, hu, threeBits_eq, fourBits_eq, toBytes_four]
  rfl

theorem bankSelectParam_one {b : Byte} {i : BankId} (h : bankParam b = some i) : bankSelectParam b = some [i] := by
  unfold bankSelectParam
  rw [if_neg, h]
  · rfl
  · rintro rfl
    exact nomatch h

/-- R178 c: a cause code names a cause with that code. -/
theorem causeParam_code {i : BankId} {c : Byte} {x : Cause} (h : causeParam i c = some x) : x.code = c.toNat := by
  have hx := List.find?_some h
  rw [Bool.and_eq_true, beq_iff_eq, beq_iff_eq] at hx
  exact hx.2

/-- A frame that ends its command at once, and changes of the banks nothing that an entry to OFFLINE owes, owes nothing
more. -/
theorem answered_banks_rest {d : Device} (hi : d.port.engine = .idle) {code : Byte} {cls : TermClass} {detail : Detail}
    {bytes : List Byte} {b : FaultBanks} (hb : b.entryOwed = d.banks.entryOwed) (h : d.AtRest) :
    Device.micro { d.answered code cls detail bytes with banks := b } = none :=
  rest_ended (d := d) rfl rfl rfl rfl rfl hb (fun _ => ⟨rfl, rfl, rfl⟩) ((commandKey_idle hi).symm ▸ rfl) rfl h

/-- Settles O55: the commands that set the mask and read and change the banks. -/
theorem theBankCommandsActOnTheBanks : Obligations.TheBankCommandsActOnTheBanks := by
  unfold Obligations.TheBankCommandsActOnTheBanks
  intro s hi
  refine ⟨fun m hm => ?_, ?_, fun b i hb => ?_, ?_, fun b c e i x v hb hc hv => ?_, ?_⟩
  · have he : effect (.setInterruptMask m) s.dev = s.dev.openFrame.judgeMask m := onCommand_of_idle (fun x => x.judgeMask m) hi
    have hmask : maskParam m = some { result := m.toNat % 2 == 1, bank := m.toNat / 2 % 2 == 1, unit := m.toNat / 4 == 1 } := by
      have hbit : ∀ i, m.getLsbD i = (m.toNat / 2 ^ i % 2 == 1) := fun i => by
        rw [Bool.eq_iff_iff, byte_bit, beq_iff_eq]
      refine (if_pos hm).trans (congrArg some ?_)
      rw [hbit, hbit, hbit, Nat.pow_zero, Nat.div_one, show m.toNat / 2 ^ 2 % 2 = m.toNat / 4 by omega]
      rfl
    refine Follows.answers (he.trans ?_) fun hq =>
      rest_ended (d := s.dev) rfl rfl rfl rfl rfl rfl (fun _ => ⟨rfl, rfl, rfl⟩) ((commandKey_idle hi).symm ▸ rfl) rfl hq
    unfold Device.judgeMask
    rw [hmask]
    rfl
  · intro b i hb x bit causes
    have he : effect (.readBank b) s.dev = s.dev.openFrame.finish 0x60 .done .none x.resultBytes := by
      refine (onCommand_of_idle (fun x => x.judgeReadBank b) hi).trans ?_
      unfold Device.judgeReadBank
      rw [hb]
      rfl
    refine ⟨fun hr => answers_at_once hi (he.trans (congrArg (s.dev.openFrame.finish 0x60 .done .none) ?_)), ?_⟩
    · unfold Bank.resultBytes
      rw [hr]
      rfl
    · intro r hr block loc
      refine answers_at_once hi (he.trans (congrArg (s.dev.openFrame.finish 0x60 .done .none) ((resultBytes_some hr).trans ?_)))
      have hclass : BitVec.ofNat 8 r.cls.code = (match r.cls with
          | .note => 0
          | .corrected => 1
          | .uncorrected => 2 : Byte) := by
        cases r.cls <;> rfl
      have hcause : r.cause.code = (causes r.cause.bank).idxOf r.cause + 1 := by
        refine (causeCode_eq r.cause).trans ?_
        cases r.cause.bank <;> rfl
      rw [hclass, hcause, operationCode_eq] <;> rfl
  · have he : effect (.clearBank b) s.dev = { s.dev.answered 0x61 .done .none [] with
        banks := s.dev.banks.set i { s.dev.banks.get i with record := none, overflow := false, count := 0 } } := by
      refine (onCommand_of_idle (fun x => x.judgeClearBank b) hi).trans ?_
      unfold Device.judgeClearBank
      rw [bankSelectParam_one hb]
      rfl
    exact Follows.answers he (answered_banks_rest hi (FaultBanks.set_entryOwed _ _ _))
  · exact Follows.answers (onCommand_of_idle (fun x => x.judgeClearBank 0xFF) hi) (answered_banks_rest hi rfl)
  · have he : effect (.setBankEnable b c e) s.dev = { s.dev.answered 0x62 .done .none [] with
        banks := s.dev.banks.set i
          { s.dev.banks.get i with enables := (s.dev.banks.get i).enables.set (c.toNat - 1) v } } := by
      refine (onCommand_of_idle (fun x => x.judgeBankEnable b c e) hi).trans ?_
      unfold Device.judgeBankEnable
      rw [hb, hv]
      dsimp only
      rw [hc, ← causeParam_code hc]
      rfl
    exact Follows.answers he (answered_banks_rest hi (FaultBanks.set_entryOwed _ _ _))
  · refine Follows.answers (onCommand_of_idle (fun x => x.resume.done 0x63) hi) fun hq => ?_
    refine rest_ended (d := s.dev) rfl rfl rfl rfl rfl rfl (fun u => ?_) ((commandKey_idle hi).symm ▸ rfl) rfl hq
    cases u <;> exact ⟨rfl, rfl, rfl⟩

/-! ### A report reaches its bank (R184 to R187) -/

/-- R185: a bank that receives a report of an enabled cause. -/
theorem receive_enabled {b : Bank} {r : Report} (h : b.enabled r.cause = true) :
    (b.record = none → (b.receive r).record = some r ∧ (b.receive r).overflow = b.overflow)
    ∧ ∀ x, b.record = some x → (b.receive r).overflow = true
      ∧ (b.receive r).record = if b.enabled x.cause = false ∨ x.cls.code < r.cls.code then some r else some x := by
  have hr : b.receive r = if b.replaces r then
      { b with count := min Config.countLimit (b.count + 1), record := some r, overflow := b.overflow || b.record.isSome }
      else { b with count := min Config.countLimit (b.count + 1), overflow := true } := by
    unfold Bank.receive
    rw [h]
    rfl
  rw [hr]
  refine ⟨fun hn => ?_, fun x hx => ?_⟩
  · have hp : b.replaces r = true := by
      unfold Bank.replaces
      rw [hn]
    rw [if_pos hp]
    dsimp only
    rw [hn, Option.isSome_none, Bool.or_false]
    exact ⟨rfl, rfl⟩
  · have hp : b.replaces r = true ↔ b.enabled x.cause = false ∨ x.cls.code < r.cls.code := by
      unfold Bank.replaces
      rw [hx]
      dsimp only
      rw [Bool.or_eq_true, Bool.not_eq_true', decide_eq_true_iff]
    by_cases hc : b.enabled x.cause = false ∨ x.cls.code < r.cls.code
    · rw [if_pos (hp.mpr hc), if_pos hc]
      dsimp only
      rw [hx, Option.isSome_some, Bool.or_true]
      exact ⟨rfl, rfl⟩
    · rw [if_neg (mt hp.mp hc), if_neg hc]
      exact ⟨rfl, hx⟩

/-- R186: what an enabled UNCORRECTED report owes. -/
theorem report_entryOwed (d : Device) {r : Report} (h : (d.banks.get r.cause.bank).enabled r.cause = true)
    (hc : r.cls = .uncorrected) :
    (d.report r).banks.entryOwed = (d.banks.entryOwed || (d.banks.fip && !d.banks.offline)) := by
  have hj : (d.banks.judge r).entryOwed = (d.banks.entryOwed || (d.banks.fip && !d.banks.offline)) := by
    unfold FaultBanks.judge
    rw [h, hc]
    cases hf : d.banks.fip with
    | false => exact (Bool.or_false _).symm
    | true =>
      cases ho : d.banks.offline with
      | false => exact (Bool.or_true _).symm
      | true => exact (Bool.or_false _).symm
  exact (FaultBanks.set_entryOwed _ _ _).trans hj

/-- R118: the end of a capture leaves the Loader Port. -/
theorem captureEnd_port (d : Device) (u : UnitId) : (d.captureEnd u).port = d.port := by
  have hlong : ∀ c, (d.reportOverlong c).port = d.port := fun c => by
    unfold Device.reportOverlong
    split
    · exact Device.report_port _ _
    · rfl
  have hfill : ∀ (e : Device) k, (e.requestFill k).port = e.port := fun e k => by
    unfold Device.requestFill Device.startFill
    repeat' split
    all_goals rfl
  unfold Device.captureEnd
  split
  · rfl
  · next c hc =>
    split
    · rfl
    · split
      · rfl
      · dsimp only
        split
        · exact (decode_port _ _ _).trans (hlong c)
        · split
          · exact (decode_port _ _ _).trans (hlong c)
          · exact (hfill _ _).trans (hlong c)

/-- Settles O56: a report in its bank, FIP and OFFLINE, and the entry to OFFLINE. -/
theorem aReportReachesItsBank : Obligations.AReportReachesItsBank := by
  unfold Obligations.AReportReachesItsBank
  refine ⟨?_, ?_⟩
  · intro d r i b b' rank
    have hb : b' = b.receive r := (Device.report_get d r i).trans (if_pos rfl)
    have hrank : ∀ c : ReportClass, c.code = rank c := fun c => by cases c <;> rfl
    refine ⟨by rw [hb, Bank.receive_count], by rw [hb, Bank.receive_enables], fun he => ?_, fun he => ⟨fun hn => ?_,
      fun x hx => ?_, fun hc => ?_, fun hc => ⟨?_, ?_, report_entryOwed d he hc⟩⟩, fun j hj =>
      (Device.report_get d r j).trans (if_neg hj), rfl⟩
    · have hr : b.receive r = { b with count := min Config.countLimit (b.count + 1) } := by
        unfold Bank.receive
        rw [he]
        rfl
      refine ⟨by rw [hb, hr], by rw [hb, hr], ?_, ?_⟩
      · rw [Device.report_fip, show (d.banks.get r.cause.bank).enabled r.cause = false from he, Bool.false_and, Bool.or_false]
      · rw [Device.report_offline, show (d.banks.get r.cause.bank).enabled r.cause = false from he, Bool.false_and,
          Bool.and_false, Bool.or_false]
    · rw [hb]
      exact (receive_enabled he).1 hn
    · rw [hb, ← hrank, ← hrank]
      exact (receive_enabled he).2 x hx
    · have hn : (r.cls == .uncorrected) = false := beq_eq_false_iff_ne.mpr hc
      rw [Device.report_fip, Device.report_offline, hn, Bool.and_false, Bool.and_false, Bool.or_false, Bool.or_false]
      exact ⟨rfl, rfl⟩
    · rw [Device.report_fip, show (d.banks.get r.cause.bank).enabled r.cause = true from he, hc]
      exact Bool.or_true _
    · rw [Device.report_offline, show (d.banks.get r.cause.bank).enabled r.cause = true from he, hc]
      exact congrArg (fun z => d.banks.offline || z) (Bool.and_true _)
  · intro d ho e close f
    have hport : e.port = d.port := (captureEnd_port _ _).trans (captureEnd_port _ _)
    have hm : d.micro = some (f.displaceSectors .offline (fun _ => true)) := by
      unfold Device.micro
      rw [ho]
      rfl
    have hf : f.port = d.port := hport
    refine ⟨hport, fun h => ?_, fun c h => ?_⟩
    · rw [hm, displaceSectors_other (by rw [hf]; exact h)]
    · rw [hm, displaceSectors_port, displaceSectors_sectors (x := c) (by rw [hf]; exact h), hf]
      rfl

end Sys2Proof.Proofs
end

section
namespace Sys2Proof.Proofs
open Sys2Proof Sys2Proof.Machine

/-! ### Bytes put in a list -/

theorem putBytes_length (bs : List Byte) (o : Nat) (xs : List Byte) (h : o + xs.length ≤ bs.length) :
    (putBytes bs o xs).length = bs.length := by
  unfold putBytes
  rw [List.length_append, List.length_append, List.length_take, List.length_take, List.length_drop]
  omega

/-- The bytes that were put stand in their place, and every other byte as it was. -/
theorem byteAt_putBytes (bs : List Byte) (o : Nat) (xs : List Byte) (h : o + xs.length ≤ bs.length) (i : Nat) :
    byteAt (putBytes bs o xs) i = if o ≤ i ∧ i < o + xs.length then byteAt xs (i - o) else byteAt bs i := by
  have htake : xs.take (bs.length - o) = xs := List.take_of_length_le (by omega)
  have hlow : (bs.take o).length = o := by rw [List.length_take]; omega
  unfold byteAt putBytes
  simp only [List.getD_eq_getElem?_getD]
  rw [htake]
  by_cases h1 : i < o
  · rw [if_neg (by omega), List.append_assoc, List.getElem?_append_left (by rw [hlow]; exact h1), List.getElem?_take,
      if_pos h1]
  · by_cases h2 : i < o + xs.length
    · rw [if_pos ⟨by omega, h2⟩, List.append_assoc, List.getElem?_append_right (by omega), hlow,
        List.getElem?_append_left (by omega)]
    · rw [if_neg (by omega), List.getElem?_append_right (by rw [List.length_append, hlow]; omega), List.getElem?_drop,
        List.length_append, hlow]
      congr 2
      omega

theorem bytesAt_congr {as bs : List Byte} {o n : Nat} (h : ∀ k < n, byteAt as (o + k) = byteAt bs (o + k)) :
    bytesAt as o n = bytesAt bs o n :=
  List.map_congr_left fun k hk => h k (List.mem_range.mp hk)

/-- The bytes that were put are read back. -/
theorem bytesAt_putBytes (bs : List Byte) (o : Nat) (xs : List Byte) (h : o + xs.length ≤ bs.length) :
    bytesAt (putBytes bs o xs) o xs.length = xs := by
  refine List.ext_getElem (by rw [bytesAt, List.length_map, List.length_range]) fun i h1 h2 => ?_
  have hx : byteAt (putBytes bs o xs) (o + i) = byteAt xs i := by
    rw [byteAt_putBytes bs o xs h, if_pos ⟨by omega, by omega⟩, Nat.add_sub_cancel_left]
  simp only [bytesAt, List.getElem_map, List.getElem_range, hx]
  unfold byteAt
  rw [List.getD_eq_getElem?_getD, List.getElem?_eq_getElem h2]
  rfl

/-- A byte of lists of one length put one after the other. -/
theorem byteAt_flatten {n : Nat} : ∀ (ss : List (List Byte)), (∀ s ∈ ss, s.length = n) → ∀ (j t : Nat) (s : List Byte),
    ss[j]? = some s → t < n → byteAt ss.flatten (j * n + t) = byteAt s t
  | [], _, _, _, _, hs, _ => nomatch hs
  | x :: ss, hl, 0, t, s, hs, ht => by
    obtain rfl : x = s := Option.some.inj hs
    unfold byteAt
    rw [List.flatten_cons, List.getD_eq_getElem?_getD, List.getD_eq_getElem?_getD, Nat.zero_mul, Nat.zero_add,
      List.getElem?_append_left (by rw [hl x List.mem_cons_self]; exact ht)]
  | x :: ss, hl, j + 1, t, s, hs, ht => by
    have ih := byteAt_flatten ss (fun s hs => hl s (List.mem_cons_of_mem _ hs)) j t s hs ht
    have hx : x.length = n := hl x List.mem_cons_self
    rw [← ih]
    unfold byteAt
    rw [List.flatten_cons, List.getD_eq_getElem?_getD, List.getD_eq_getElem?_getD,
      List.getElem?_append_right (by rw [hx, Nat.succ_mul]; omega), hx]
    congr 2
    rw [Nat.succ_mul]
    omega

theorem flatten_length {n : Nat} : ∀ (ss : List (List Byte)), (∀ s ∈ ss, s.length = n) → ss.flatten.length = ss.length * n
  | [], _ => (Nat.zero_mul n).symm
  | x :: ss, hl => by
    rw [List.flatten_cons, List.length_append, flatten_length ss (fun s hs => hl s (List.mem_cons_of_mem _ hs)),
      hl x List.mem_cons_self, List.length_cons, Nat.succ_mul, Nat.add_comm]

/-! ### The header that is written (R67) -/

theorem crcBytes_length (c : BitVec 16) : (crcBytes c).length = 2 := rfl

/-- R67: the header copy with the override count and 00 in the slots after the entries. -/
def clearedHeader (m : MountRecord) : List Byte :=
  putBytes (putBytes m.headerCopy 13 [BitVec.ofNat 8 m.geometry.overrides.length])
    (88 + m.geometry.overrides.length * 76) (List.replicate ((16 - m.geometry.overrides.length) * 76) 0)

theorem headerBytes_eq (m : MountRecord) :
    m.headerBytes = putBytes (clearedHeader m) 2046 (crcBytes (crc (bytesAt (clearedHeader m) 0 2046))) := rfl

/-- R67: the bytes before the CRC. -/
theorem clearedHeader_spec (m : MountRecord) (hl : m.headerCopy.length = 2048) (hn : m.geometry.overrides.length ≤ 16) :
    (clearedHeader m).length = 2048 ∧ ∀ i, byteAt (clearedHeader m) i =
      if 88 + m.geometry.overrides.length * 76 ≤ i ∧ i < 1304 then 0
      else if i = 13 then BitVec.ofNat 8 m.geometry.overrides.length else byteAt m.headerCopy i := by
  have h1 : (putBytes m.headerCopy 13 [BitVec.ofNat 8 m.geometry.overrides.length]).length = 2048 :=
    (putBytes_length _ _ _ (by rw [hl, List.length_singleton]; omega)).trans hl
  have h2 : 88 + m.geometry.overrides.length * 76
      + (List.replicate ((16 - m.geometry.overrides.length) * 76) (0 : Byte)).length = 1304 := by
    rw [List.length_replicate]
    omega
  refine ⟨(putBytes_length _ _ _ (by rw [h1, h2]; omega)).trans h1, fun i => ?_⟩
  rw [clearedHeader, byteAt_putBytes _ _ _ (by rw [h1, h2]; omega), h2]
  refine if_ctx_congr Iff.rfl (fun h => ?_) fun _ => ?_
  · unfold byteAt
    rw [List.getD_replicate (h := by omega)]
  · rw [byteAt_putBytes _ _ _ (by rw [hl, List.length_singleton]; omega), List.length_singleton]
    by_cases h : i = 13
    · rw [if_pos (by omega), if_pos h, h]
      rfl
    · rw [if_neg (by omega), if_neg h]

/-! ### The header copy after an override change (R66) -/

/-- The places of the elements that a test keeps, and the elements themselves, in their order. -/
theorem filter_zipIdx {α : Type} (p : α → Bool) (l : List α) :
    (l.zipIdx.filter (fun x => p x.1)).map Prod.fst = l.filter p
    ∧ (l.zipIdx.filter (fun x => p x.1)).map Prod.snd = (List.range l.length).filter (fun i => (l[i]?).map p = some true)
    ∧ ∀ x ∈ l.zipIdx.filter (fun x => p x.1), l[x.2]? = some x.1 := by
  have hmem : ∀ x ∈ l.zipIdx, l[x.2]? = some x.1 := fun x hx => by
    obtain ⟨a, i⟩ := x
    exact List.mk_mem_zipIdx_iff_getElem?.mp hx
  refine ⟨?_, ?_, fun x hx => hmem x (List.mem_filter.mp hx).1⟩
  · have h : l.filter p = (l.zipIdx.map Prod.fst).filter p := by rw [List.zipIdx_map_fst]
    rw [h, List.filter_map]
    rfl
  · have h : List.range l.length = l.zipIdx.map Prod.snd := by rw [List.zipIdx_map_snd, List.range_eq_range']
    rw [h, List.filter_map]
    refine congrArg (List.map Prod.snd) (List.filter_congr fun x hx => ?_)
    dsimp only [Function.comp]
    rw [hmem x hx, Bool.eq_iff_iff, decide_eq_true_iff, Option.map_some, Option.some.injEq]

/-- The bytes of a format, 72 of them. -/
theorem encodeEntry_length (e : OverrideEntry) : (encodeEntry e).length = 76 := by
  simp [encodeEntry, encodeFormat]

/-- R66: an override change, from the table and the copy before. -/
theorem changeOverride_copy {m m1 : MountRecord} {c h : Nat} {new : Option TrackFormat} (hc : m.changeOverride c h new = .changed m1) :
    m1.headerCopy = changedCopy m.headerCopy m.geometry.overrides c h new
    ∧ m1.geometry.overrides = changedTable m.geometry.overrides c h new := by
  refine ⟨?_, ((changeOverride_spec m m1 c h new).2 hc).1⟩
  unfold MountRecord.changeOverride at hc
  dsimp only at hc
  split at hc
  · exact nomatch hc
  · split at hc
    · split at hc
      · cases hc
        unfold MountRecord.markHeader
        dsimp only
        split <;> rfl
      · exact nomatch hc
    · exact nomatch hc

/-- R180: the code of an encoding and rate. -/
theorem codeOfFormat_eq (e : Encoding) (rate : Nat) : codeOfFormat e rate = (match e with
    | .fm => if rate = 125000 then 0 else 1
    | .mfm => if rate = 500000 then 3 else 2) := by
  cases e <;> rfl

/-- R2, R180: the code of an allowed encoding and rate reads back. -/
theorem formatCode_codeOfFormat {e : Encoding} {rate : Nat} (h : rateAllowed e rate = true) :
    codeOfFormat e rate < 256 ∧ formatCode (codeOfFormat e rate) = (e, rate) := by
  unfold rateAllowed at h
  cases e with
  | fm =>
    rw [Bool.or_eq_true, beq_iff_eq, beq_iff_eq] at h
    rcases h with rfl | rfl <;> exact ⟨by decide, rfl⟩
  | mfm =>
    rw [Bool.or_eq_true, beq_iff_eq, beq_iff_eq] at h
    rcases h with rfl | rfl <;> exact ⟨by decide, rfl⟩

theorem byteAt_bytesAt (bs : List Byte) (o n j : Nat) (h : j < n) : byteAt (bytesAt bs o n) j = byteAt bs (o + j) := by
  unfold bytesAt
  show ((List.range n).map _).getD j 0 = _
  rw [List.getD_eq_getElem?_getD, List.getElem?_map, List.getElem?_range h]
  rfl

theorem ofNat_toNat_of_lt {n : Nat} (h : n < 256) : (BitVec.ofNat 8 n).toNat = n := by
  rw [BitVec.toNat_ofNat]
  exact Nat.mod_eq_of_lt h

/-- R66, R180: an entry of one track with a format that R2 allows, whose numbers are bytes, reads back from its slot. -/
theorem parseEntry_encodeEntry {bs : List Byte} {j c h : Nat} {f : TrackFormat}
    (hslot : bytesAt bs (88 + j * 76) 76 = encodeEntry (singleEntry c h f)) (hv : f.valid = true) (hc : c < 256)
    (h1 : f.firstR < 256) (h2 : f.interleave < 256) (h3 : f.skew < 256) (h4 : ∀ r ∈ f.rList.getD [], r < 256) :
    parseEntry bs j = some (singleEntry c h f) := by
  have hbyte : ∀ t < 76, byteAt bs (88 + j * 76 + t) = byteAt (encodeEntry (singleEntry c h f)) t := fun t ht => by
    rw [← hslot, byteAt_bytesAt _ _ _ _ ht]
  unfold TrackFormat.valid at hv
  simp only [Bool.and_eq_true, decide_eq_true_iff] at hv
  obtain ⟨⟨⟨⟨⟨⟨hrate, hs1⟩, hs64⟩, hn⟩, -⟩, hg⟩, hlist⟩ := hv
  obtain ⟨hcode, hread⟩ := formatCode_codeOfFormat hrate
  have hlen : (f.rList.getD []).length ≤ 64 ∧ ∀ l, f.rList = some l → l.length = f.sectors := by
    cases hr : f.rList with
    | none => exact ⟨Nat.zero_le _, nofun⟩
    | some l =>
      rw [hr] at hlist
      dsimp only at hlist
      rw [Bool.and_eq_true, beq_iff_eq] at hlist
      exact ⟨hlist.1 ▸ hs64, fun l' h' => Option.some.inj h' ▸ hlist.1⟩
  have hsel : selectorCode (byteAt bs (88 + j * 76 + 2)) = some (HeadSelector.single h) := by
    rw [hbyte 2 (by omega)]
    show selectorCode (codeOfSelector (HeadSelector.single h)) = _
    unfold HeadSelector.single
    split <;> rfl
  rw [(parseEntry_cases bs j).2 _ hsel]
  have hfirst : (byteAt bs (88 + j * 76)).toNat = c := by
    rw [show 88 + j * 76 = 88 + j * 76 + 0 from rfl, hbyte 0 (by omega)]
    exact ofNat_toNat_of_lt hc
  have hlast : (byteAt bs (88 + j * 76 + 1)).toNat = c := by
    rw [hbyte 1 (by omega)]
    exact ofNat_toNat_of_lt hc
  have hfield : ∀ k v, k < 72 → byteAt (encodeFormat f) k = BitVec.ofNat 8 v → v < 256 →
      (byteAt bs (88 + j * 76 + 4 + k)).toNat = v := fun k v hk hb hv => by
    rw [Nat.add_assoc, hbyte (4 + k) (by omega)]
    have he : byteAt (encodeEntry (singleEntry c h f)) (4 + k) = byteAt (encodeFormat f) k := by
      unfold byteAt encodeEntry
      rw [List.getD_eq_getElem?_getD, List.getD_eq_getElem?_getD, List.getElem?_append_right (by simp), List.length_cons]
      simp [singleEntry]
    rw [he, hb]
    exact ofNat_toNat_of_lt hv
  have hrcode := hfield 0 _ (by omega) rfl hcode
  have hrlen := hfield 7 _ (by omega) rfl (Nat.lt_of_le_of_lt hlen.1 (by omega))
  have hitem : ∀ t < 64, (byteAt bs (88 + j * 76 + 4 + (8 + t))).toNat = (f.rList.getD []).getD t 0 := fun t ht => by
    refine hfield (8 + t) _ (by omega) ?_ ?_
    · unfold byteAt encodeFormat
      rw [List.getD_eq_getElem?_getD, List.getElem?_append_right (by simp)]
      simp [ht]
    · rw [List.getD_eq_getElem?_getD]
      cases hx : (f.rList.getD [])[t]? with
      | none => exact (by omega : 0 < 256)
      | some r => exact h4 r (List.mem_of_getElem? hx)
  have hrl : (parseFormat bs (88 + j * 76 + 4)).rList = f.rList := by
    obtain ⟨hnone, hsome, -⟩ := parseFormat_rList bs (88 + j * 76 + 4)
    rw [hrlen] at hnone hsome
    cases hr : f.rList with
    | none =>
      rw [hr] at hnone
      exact hnone rfl
    | some l =>
      have hll := hlen.2 l hr
      rw [hr] at hsome
      refine (hsome (by rw [Option.getD_some, hll]; omega) (by rw [Option.getD_some, hll]; exact hs64)).trans ?_
      refine congrArg some (List.ext_getElem (by simp) fun t g1 g2 => ?_)
      rw [List.getElem_map, List.getElem_range, hitem t (by omega), hr, Option.getD_some, List.getD_eq_getElem?_getD,
        List.getElem?_eq_getElem g2]
      rfl
  have hformat : parseFormat bs (88 + j * 76 + 4) = f := by
    have hparse : parseFormat bs (88 + j * 76 + 4) =
        { enc := (formatCode (byteAt bs (88 + j * 76 + 4)).toNat).1
          rate := (formatCode (byteAt bs (88 + j * 76 + 4)).toNat).2
          sectors := (byteAt bs (88 + j * 76 + 4 + 1)).toNat
          sizeCode := (byteAt bs (88 + j * 76 + 4 + 2)).toNat
          firstR := (byteAt bs (88 + j * 76 + 4 + 3)).toNat
          gap3 := (byteAt bs (88 + j * 76 + 4 + 4)).toNat
          interleave := (byteAt bs (88 + j * 76 + 4 + 5)).toNat
          skew := (byteAt bs (88 + j * 76 + 4 + 6)).toNat
          rList := (parseFormat bs (88 + j * 76 + 4)).rList } := rfl
    rw [hparse, hrl, hfield 1 _ (by omega) rfl (Nat.lt_of_le_of_lt hs64 (by omega)),
      hfield 2 _ (by omega) rfl (Nat.lt_of_le_of_lt hn (by omega)), hfield 3 _ (by omega) rfl h1,
      hfield 4 _ (by omega) rfl (Nat.lt_of_le_of_lt hg (by omega)), hfield 5 _ (by omega) rfl h2,
      hfield 6 _ (by omega) rfl h3]
    rw [show (byteAt bs (88 + j * 76 + 4)).toNat = codeOfFormat f.enc f.rate from hrcode, hread]
  rw [hfirst, hlast, hformat]
  rfl

/-- R66: the slots of the header copy after an override change, the kept ones first. -/
def changedSlots (bs : List Byte) (table : List OverrideEntry) (c h : Nat) (new : Option TrackFormat) : List (List Byte) :=
  (table.zipIdx.filter (fun x => !x.1.isSingle c h)).map (fun x => slotBytes bs x.2)
    ++ (new.map (fun f => encodeEntry (singleEntry c h f))).toList

theorem slotBytes_length (bs : List Byte) (i : Nat) : (slotBytes bs i).length = 76 := by
  unfold slotBytes bytesAt
  rw [List.length_map, List.length_range]
  rfl

/-- R66: the header copy after an override change, slot by slot. -/
theorem changedCopy_spec (bs : List Byte) (table : List OverrideEntry) (c h : Nat) (new : Option TrackFormat)
    (hl : bs.length = 2048) (hn : (changedSlots bs table c h new).length ≤ 16) :
    (changedCopy bs table c h new).length = 2048
    ∧ byteAt (changedCopy bs table c h new) 13 = BitVec.ofNat 8 (changedSlots bs table c h new).length
    ∧ (∀ (j : Nat) s, (changedSlots bs table c h new)[j]? = some s →
      bytesAt (changedCopy bs table c h new) (88 + j * 76) 76 = s)
    ∧ ∀ i, i ≠ 13 → i < 88 ∨ 88 + (changedSlots bs table c h new).length * 76 ≤ i →
      byteAt (changedCopy bs table c h new) i = byteAt bs i := by
  have hcopy : changedCopy bs table c h new = putBytes
      (putBytes bs 13 [BitVec.ofNat 8 (changedSlots bs table c h new).length]) 88 (changedSlots bs table c h new).flatten := rfl
  have hslots : ∀ s ∈ changedSlots bs table c h new, s.length = 76 := fun s hs => by
    unfold changedSlots at hs
    rcases List.mem_append.mp hs with hs | hs
    · obtain ⟨x, -, rfl⟩ := List.mem_map.mp hs
      exact slotBytes_length bs x.2
    · obtain ⟨f, -, rfl⟩ := Option.map_eq_some_iff.mp (Option.mem_toList.mp hs)
      exact encodeEntry_length _
  rw [hcopy]
  generalize changedSlots bs table c h new = ss at *
  have hflat := flatten_length ss hslots
  have h1 : (putBytes bs 13 [BitVec.ofNat 8 ss.length]).length = 2048 :=
    (putBytes_length _ _ _ (by rw [hl, List.length_singleton]; omega)).trans hl
  have hfit : 88 + ss.flatten.length ≤ (putBytes bs 13 [BitVec.ofNat 8 ss.length]).length := by
    rw [h1, hflat]
    omega
  have hone : ∀ i, byteAt (putBytes bs 13 [BitVec.ofNat 8 ss.length]) i =
      if i = 13 then BitVec.ofNat 8 ss.length else byteAt bs i := fun i => by
    rw [byteAt_putBytes _ _ _ (by rw [hl, List.length_singleton]; omega), List.length_singleton]
    by_cases h : i = 13
    · rw [if_pos (by omega), if_pos h, h]
      rfl
    · rw [if_neg (by omega), if_neg h]
  refine ⟨(putBytes_length _ _ _ hfit).trans h1, ?_, fun j s hs => ?_, fun i hi ho => ?_⟩
  · rw [byteAt_putBytes _ _ _ hfit, if_neg (by omega), hone, if_pos rfl]
  · have hj : j < ss.length := (List.getElem?_eq_some_iff.mp hs).1
    have hsl : s.length = 76 := hslots s (List.mem_of_getElem? hs)
    refine List.ext_getElem (by rw [bytesAt, List.length_map, List.length_range, hsl]) fun t g1 g2 => ?_
    have ht : t < 76 := hsl ▸ g2
    have hj76 : j * 76 + 76 ≤ ss.length * 76 := by
      have := Nat.mul_le_mul_right 76 (Nat.succ_le_of_lt hj)
      rw [Nat.succ_mul] at this
      exact this
    have hx : byteAt (putBytes (putBytes bs 13 [BitVec.ofNat 8 ss.length]) 88 ss.flatten) (88 + j * 76 + t) = byteAt s t := by
      rw [byteAt_putBytes _ _ _ hfit, if_pos ⟨by omega, by rw [hflat]; omega⟩,
        show 88 + j * 76 + t - 88 = j * 76 + t by omega, byteAt_flatten ss hslots j t s hs ht]
    simp only [bytesAt, List.getElem_map, List.getElem_range, hx]
    unfold byteAt
    rw [List.getD_eq_getElem?_getD, List.getElem?_eq_getElem g2]
    rfl
  · rw [byteAt_putBytes _ _ _ hfit, if_neg (by rw [hflat]; omega), hone, if_neg hi]

/-- Settles O60: the bytes of a header write, and of the header copy after an override change. -/
theorem aWrittenHeaderIsGood : Obligations.AWrittenHeaderIsGood := by
  unfold Obligations.AWrittenHeaderIsGood
  refine ⟨?_, ?_⟩
  · intro m hl hn n bs
    obtain ⟨hlen, hbyte⟩ := clearedHeader_spec m hl hn
    have hfit : 2046 + (crcBytes (crc (bytesAt (clearedHeader m) 0 2046))).length ≤ (clearedHeader m).length := by
      rw [hlen, crcBytes_length]
    have hlow : ∀ i < 2046, byteAt bs i = byteAt (clearedHeader m) i := fun i hi => by
      dsimp only [bs]
      rw [headerBytes_eq, byteAt_putBytes _ _ _ hfit, if_neg (by omega)]
    refine ⟨(putBytes_length _ _ _ hfit).trans hlen, ?_, ?_, fun i h1 h2 => ?_, fun i h1 h2 h3 => ?_⟩
    · have hbefore : bytesAt bs 0 2046 = bytesAt (clearedHeader m) 0 2046 := bytesAt_congr fun k hk => by
        rw [Nat.zero_add]
        exact hlow k hk
      have hread := bytesAt_putBytes (clearedHeader m) 2046 _ hfit
      rw [← headerBytes_eq, crcBytes_length] at hread
      rw [hbefore]
      exact hread
    · rw [hlow 13 (by omega), hbyte, if_neg (by omega), if_pos rfl]
    · rw [hlow i (by omega), hbyte, if_pos ⟨h1, h2⟩]
    · rw [hlow i h1, hbyte, if_neg (by omega), if_neg h2]
  · intro m m1 c h new hl hn hc slot single kept num
    obtain ⟨hcopy, htable⟩ := changeOverride_copy hc
    have hsingle : ∀ e, (!OverrideEntry.isSingle e c h) = true ↔ single e = false := fun e => by
      rw [isSingle_eq, Bool.not_eq_true']
    obtain ⟨hfst, hsnd, hget⟩ := filter_zipIdx (fun e => !OverrideEntry.isSingle e c h) m.geometry.overrides
    generalize hz : m.geometry.overrides.zipIdx.filter (fun x => !x.1.isSingle c h) = z at hfst hsnd hget
    have hkept : kept = z.map Prod.snd := by
      rw [hsnd]
      refine List.filter_congr fun i _ => ?_
      rw [decide_eq_decide]
      cases m.geometry.overrides[i]? with
      | none => exact ⟨nofun, nofun⟩
      | some e =>
        rw [Option.map_some, Option.map_some, Option.some.injEq, Option.some.injEq, hsingle]
    have hklen : kept.length = z.length := by rw [hkept, List.length_map]
    have hslots : changedSlots m.headerCopy m.geometry.overrides c h new =
        z.map (fun x => slotBytes m.headerCopy x.2) ++ (new.map (fun f => encodeEntry (singleEntry c h f))).toList := by
      rw [changedSlots, hz]
    have hover : m1.geometry.overrides = z.map Prod.fst ++ (new.map (singleEntry c h)).toList := by
      rw [htable, hfst]
      rfl
    have hcount : (changedSlots m.headerCopy m.geometry.overrides c h new).length = m1.geometry.overrides.length := by
      rw [hslots, hover]
      cases new <;> simp
    have hzlen : z.length ≤ m.geometry.overrides.length := by
      rw [← List.length_map (as := z) Prod.fst, hfst]
      exact List.length_filter_le _ _
    have hroom : m1.geometry.overrides.length ≤ 16 := by
      rw [hover]
      cases hnew : new with
      | none =>
        rw [List.length_append, List.length_map]
        exact Nat.le_trans hzlen hn
      | some f =>
        have hfull : ¬ 16 ≤ (m.geometry.overrides.filter (fun e => !e.isSingle c h)).length := fun hf => by
          have := ((changeOverride_spec m m1 c h new).1).mpr ⟨by rw [hnew]; rfl, hf⟩
          exact nomatch this.symm.trans hc
        rw [← hfst, List.length_map] at hfull
        rw [List.length_append, List.length_map]
        show z.length + 1 ≤ 16
        omega
    obtain ⟨hlen, h13, hslot, hother⟩ := changedCopy_spec m.headerCopy m.geometry.overrides c h new hl (hcount ▸ hroom)
    rw [← hcopy] at hlen h13 hslot hother
    rw [hcount] at h13 hother
    refine ⟨hlen, h13, fun j i hji => ?_, fun i _ h2 h3 => hother i h2 h3, fun hnew => ?_, fun f hnew => ?_⟩
    · rw [hkept, List.getElem?_map, Option.map_eq_some_iff] at hji
      obtain ⟨x, hx, rfl⟩ := hji
      have hj : j < z.length := (List.getElem?_eq_some_iff.mp hx).1
      refine ⟨hslot j _ ?_, ?_⟩
      · rw [hslots, List.getElem?_append_left (by rw [List.length_map]; exact hj), List.getElem?_map, hx]
        rfl
      · rw [hover, List.getElem?_append_left (by rw [List.length_map]; exact hj), List.getElem?_map, hx,
          hget x (List.mem_of_getElem? hx)]
        rfl
    · rw [hover, hnew, hklen, List.length_append, List.length_map]
      rfl
    · have hlast : bytesAt m1.headerCopy (88 + kept.length * 76) 76 = encodeEntry (singleEntry c h f) := by
        refine hslot kept.length _ ?_
        rw [hslots, hnew, hklen, List.getElem?_append_right (by rw [List.length_map]), List.length_map, Nat.sub_self]
        rfl
      refine ⟨?_, ?_, fun hv h0 h1 h2 h3 h4 => ?_⟩
      · rw [hover, hnew, hklen, List.length_append, List.length_map]
        rfl
      · refine hlast.trans ?_
        have hcode : codeOfSelector (HeadSelector.single h) = if h = 0 then 0 else 1 := by
          unfold HeadSelector.single
          by_cases h0 : h = 0
          · rw [if_pos (beq_iff_eq.mpr h0), if_pos h0]
            rfl
          · rw [if_neg (mt beq_iff_eq.mp h0), if_neg h0]
            rfl
        unfold encodeEntry encodeFormat
        rw [show (singleEntry c h f).heads = HeadSelector.single h from rfl, hcode, codeOfFormat_eq]
        rfl
      · have hh : HeadSelector.single h = if h = 0 then .head0 else .head1 := if_congr beq_iff_eq rfl rfl
        refine (parseEntry_encodeEntry hlast hv h0 h1 h2 h3 h4).trans ?_
        unfold singleEntry
        rw [hh]

end Sys2Proof.Proofs
end

section
namespace Sys2Proof.Proofs
open Sys2Proof Sys2Proof.Machine

/-! ### A covered block (R60) -/

/-- R60: an answer is a card block of one extent, and a length that stays within it. -/
theorem locate_some : ∀ (es : List Extent) (base b card n : Nat), base ≤ b → locate es base b = some (card, n) →
    ∃ (before : List Extent) (e : Extent) (after : List Extent), es = before ++ e :: after
      ∧ base + (before.map Extent.count).sum ≤ b
      ∧ b < base + (before.map Extent.count).sum + e.count
      ∧ card = e.start + (b - (base + (before.map Extent.count).sum))
      ∧ card + n = e.start + e.count
  | [], _, _, _, _, _, h => nomatch h
  | e :: rest, base, b, card, n, hb, h => by
    rw [locate] at h
    by_cases hc : b < base + e.count
    · rw [if_pos hc, Option.some.injEq, Prod.mk.injEq] at h
      obtain ⟨rfl, rfl⟩ := h
      refine ⟨[], e, rest, rfl, hb, hc, rfl, ?_⟩
      omega
    · rw [if_neg hc] at h
      obtain ⟨before, x, after, rfl, h1, h2, h3, h4⟩ := locate_some rest (base + e.count) b card n (Nat.not_lt.mp hc) h
      refine ⟨e :: before, x, after, rfl, ?_, ?_, ?_, h4⟩
      · rw [List.map_cons, List.sum_cons, ← Nat.add_assoc]
        exact h1
      · rw [List.map_cons, List.sum_cons, ← Nat.add_assoc]
        exact h2
      · rw [List.map_cons, List.sum_cons, ← Nat.add_assoc]
        exact h3

/-- R60: a covered block is answered. -/
theorem locate_of_covered : ∀ (es : List Extent) (base b : Nat), base ≤ b → b < base + (es.map Extent.count).sum →
    ∃ card n, 1 ≤ n ∧ locate es base b = some (card, n)
  | [], base, b, h1, h2 => absurd h2 (Nat.not_lt.mpr h1)
  | e :: rest, base, b, h1, h2 => by
    rw [locate]
    by_cases hc : b < base + e.count
    · exact ⟨_, _, by omega, if_pos hc⟩
    · rw [List.map_cons, List.sum_cons, ← Nat.add_assoc] at h2
      obtain ⟨card, n, hn, hl⟩ := locate_of_covered rest (base + e.count) b (Nat.not_lt.mp hc) h2
      exact ⟨card, n, hn, (if_neg hc).trans hl⟩

theorem covers_iff (w : ExtentWindow) (b : Nat) :
    w.covers b = true ↔ w.base ≤ b ∧ b < w.base + (w.entries.map Extent.count).sum := by
  unfold ExtentWindow.covers ExtentWindow.length
  rw [Bool.and_eq_true, decide_eq_true_iff, decide_eq_true_iff, total_eq_sum]

/-! ### The slide (R61, R62) -/

/-- R61, R62: one step of a slide. -/
theorem slide_succ (fuel : Nat) (w : ExtentWindow) (b : Nat) :
    (w.covers b = true → slide (fuel + 1) w b = (w, .covered))
    ∧ (w.covers b = false → w.endSeen = true → slide (fuel + 1) w b = (w, .short))
    ∧ (w.covers b = false → w.endSeen = false → w.groupBuf.map Prod.fst ≠ some w.next.block →
      slide (fuel + 1) w b = (w, .fetch))
    ∧ ∀ bs, w.covers b = false → w.endSeen = false → w.groupBuf = some (w.next.block, bs) →
      (∀ e, readDescriptor bs w.next = .data e → slide (fuel + 1) w b = slide fuel (w.append e) b)
      ∧ (∀ blk g, readDescriptor bs w.next = .jump blk g →
        slide (fuel + 1) w b = slide fuel { w with next := ⟨blk, g, 0⟩ } b)
      ∧ (readDescriptor bs w.next = .fin → slide (fuel + 1) w b = ({ w with endSeen := true }, .short)) := by
  refine ⟨fun h => ?_, fun h1 h2 => ?_, fun h1 h2 h3 => ?_, fun bs h1 h2 h3 => ⟨fun e he => ?_, fun blk g he => ?_, fun he => ?_⟩⟩
  · rw [slide, if_pos h]
  · rw [slide, if_neg (Bool.eq_false_iff.mp h1), if_pos h2]
  · rw [slide, if_neg (Bool.eq_false_iff.mp h1), if_neg (Bool.eq_false_iff.mp h2)]
    cases hg : w.groupBuf with
    | none => rfl
    | some p =>
      obtain ⟨blk, bytes⟩ := p
      refine if_neg fun g => h3 ?_
      rw [hg, ← g]
      rfl
  all_goals
    rw [slide, if_neg (Bool.eq_false_iff.mp h1), if_neg (Bool.eq_false_iff.mp h2), h3]
    refine (if_pos rfl).trans ?_
    rw [he]

/-- R62 b: a DATA descriptor is appended; a full window drops its first entry. -/
theorem append_cases (w : ExtentWindow) (e : Extent) :
    (w.entries.length < 4 → w.append e = { w with entries := w.entries ++ [e], next := w.next.after })
    ∧ ∀ x xs, w.entries = x :: xs → 3 ≤ xs.length →
      w.append e = { w with entries := xs ++ [e], base := w.base + x.count, next := w.next.after } := by
  refine ⟨fun h => ?_, fun x xs hx hl => ?_⟩
  · unfold ExtentWindow.append
    cases hw : w.entries with
    | nil =>
      dsimp only
      rw [hw]
    | cons x xs =>
      rw [hw, List.length_cons] at h
      dsimp only
      rw [if_pos (by omega), hw]
  · unfold ExtentWindow.append
    rw [hx]
    dsimp only
    rw [if_neg (Nat.not_lt.mpr hl)]

theorem append_lookups (w : ExtentWindow) (e : Extent) : (w.append e).lookups = w.lookups := by
  unfold ExtentWindow.append
  dsimp only
  split
  · split <;> rfl
  · rfl

/-- R61: a slide keeps the lookups, and one that comes to rest covered covers the block. -/
theorem slide_keeps : ∀ (fuel : Nat) (w : ExtentWindow) (b : Nat), (slide fuel w b).1.lookups = w.lookups
    ∧ ((slide fuel w b).2 = .covered → (slide fuel w b).1.covers b = true)
  | 0, w, b => ⟨rfl, nofun⟩
  | fuel + 1, w, b => by
    obtain ⟨hcov, hend, hfetch, hin⟩ := slide_succ fuel w b
    cases hc : w.covers b with
    | true =>
      rw [hcov hc]
      exact ⟨rfl, fun _ => hc⟩
    | false =>
      cases he : w.endSeen with
      | true =>
        rw [hend hc he]
        exact ⟨rfl, nofun⟩
      | false =>
        by_cases hg : w.groupBuf.map Prod.fst = some w.next.block
        · obtain ⟨⟨blk, bs⟩, hbuf, hblk⟩ := Option.map_eq_some_iff.mp hg
          obtain rfl : blk = w.next.block := hblk
          obtain ⟨hd, hj, hf⟩ := hin bs hc he hbuf
          cases hr : readDescriptor bs w.next with
          | data e =>
            obtain ⟨h1, h2⟩ := slide_keeps fuel (w.append e) b
            rw [hd e hr]
            exact ⟨h1.trans (append_lookups w e), h2⟩
          | jump blk g =>
            rw [hj blk g hr]
            exact slide_keeps fuel { w with next := ⟨blk, g, 0⟩ } b
          | fin =>
            rw [hf hr]
            exact ⟨rfl, nofun⟩
        · rw [hfetch hc he hg]
          exact ⟨rfl, nofun⟩

/-! ### Descriptors (R52, R180) -/

theorem fromBytes_two (bs : List Byte) (o : Nat) :
    fromBytes (bytesAt bs o 2) = (byteAt bs o).toNat * 256 + (byteAt bs (o + 1)).toNat := by
  show (0 * 256 + (byteAt bs o).toNat) * 256 + (byteAt bs (o + 1)).toNat = _
  rw [Nat.zero_mul, Nat.zero_add]

/-- R52, R180: what a descriptor reads as. -/
theorem readDescriptor_spec (bs : List Byte) (p : ChainPos) :
    let o := p.group * 64 + p.desc * 8
    let byte : Nat → Nat := fun j => (byteAt bs (o + j)).toNat
    let count := byte 2 * 256 + byte 3
    let block := ((byte 4 * 256 + byte 5) * 256 + byte 6) * 256 + byte 7
    (p.group ≤ 7 → byte 0 = 1 → count ≠ 0 → readDescriptor bs p = .data { start := block, count := count })
    ∧ (p.group ≤ 7 → byte 0 = 2 → byte 1 ≤ 7 → readDescriptor bs p = .jump block (byte 1))
    ∧ (7 < p.group ∨ byte 0 ≠ 1 ∧ byte 0 ≠ 2 ∨ byte 0 = 1 ∧ count = 0 ∨ byte 0 = 2 ∧ 7 < byte 1 →
      readDescriptor bs p = .fin) := by
  intro o byte count block
  have hcount : fromBytes (bytesAt bs (o + 2) 2) = count := fromBytes_two bs (o + 2)
  have hblock : fromBytes (bytesAt bs (o + 4) 4) = block := fromBytes_four bs (o + 4)
  have hkind : ∀ v : Nat, v < 256 → (byteAt bs o = BitVec.ofNat 8 v ↔ byte 0 = v) := fun v hv => by
    rw [← BitVec.toNat_inj, ofNat_toNat_of_lt hv]
    exact Iff.rfl
  have hr : readDescriptor bs p = if 7 < p.group then .fin
      else if byteAt bs o = BitVec.ofNat 8 1 then if count = 0 then .fin else .data { start := block, count := count }
      else if byteAt bs o = BitVec.ofNat 8 2 then if byte 1 ≤ 7 then .jump block (byte 1) else .fin
      else .fin := by
    rw [← hcount, ← hblock]
    rfl
  have h1 := hkind 1 (by omega)
  have h2 := hkind 2 (by omega)
  rw [hr]
  refine ⟨fun hg hb hc => ?_, fun hg hb hc => ?_, fun h => ?_⟩
  · rw [if_neg (Nat.not_lt.mpr hg), if_pos (h1.mpr hb), if_neg hc]
  · rw [if_neg (Nat.not_lt.mpr hg), if_neg (fun g => by have := h1.mp g; omega), if_pos (h2.mpr hb), if_pos hc]
  · by_cases hg : 7 < p.group
    · exact if_pos hg
    · rw [if_neg hg]
      by_cases hb : byte 0 = 1
      · rw [if_pos (h1.mpr hb), if_pos (by omega)]
      · rw [if_neg (mt h1.mp hb)]
        by_cases hb2 : byte 0 = 2
        · rw [if_pos (h2.mpr hb2), if_neg (by omega)]
        · rw [if_neg (mt h2.mp hb2)]

/-! ### The requester of a lookup (R60, R78, R79, R91, R93) -/

theorem workOp_eq (d : Device) (i : Nat) : d.workOp i = if (d.buf i).state = .filling then .fill else .flush :=
  if_congr beq_iff_eq rfl rfl

/-- R60, R78, R91: an answered lookup has its buffer request a run. -/
theorem lookupAnswered_eq {d : Device} {i card n : Nat} {k : TrackKey} {w : Work} {b : WorkBlock} {rest : List WorkBlock}
    (hk : (d.buf i).key = some k) (hw : (d.buf i).work = some w) (ht : w.todo = b :: rest) : d.lookupAnswered i card n =
      if b.kind = .whole then (d.setWork i { w with stage := .writing card n }).requestRun i k .write card n
      else (d.setWork i { w with stage := .reading card n }).requestRun i k .read card n := by
  unfold Device.lookupAnswered
  split
  · next k' w' hk' hw' =>
    obtain rfl : k = k' := Option.some.inj (hk.symm.trans hk')
    obtain rfl : w = w' := Option.some.inj (hw.symm.trans hw')
    rw [ht]
  · next h => exact absurd hw (h k w hk)

/-- R79, R93: what the loss of blocks does to a fill and to a flush. -/
theorem loseBlocks_eq {d : Device} {i n : Nat} {k : TrackKey} {w : Work} {m : MountRecord}
    (hk : (d.buf i).key = some k) (hw : (d.buf i).work = some w) (hm : d.images.get k.unit = some m) :
    let lost := (w.todo.take n).map WorkBlock.image
    let left : Work := { w with todo := w.todo.drop n, stage := .next, taken := [] }
    ((d.buf i).state = .filling → d.loseBlocks i n = d.setBuf i { (d.buf i).degrade m k lost with work := some left })
    ∧ ((d.buf i).state ≠ .filling →
      d.loseBlocks i n = d.setBuf i { d.buf i with work := some { left with failed := w.failed ++ lost } }) := by
  intro lost left
  have hl : d.loseBlocks i n = if (d.buf i).state == .filling then
        d.setBuf i { (d.buf i).degrade m k lost with work := some left }
      else d.setBuf i { d.buf i with work := some { left with failed := w.failed ++ lost } } := by
    unfold Device.loseBlocks
    dsimp only
    split
    · next k' w' hk' hw' =>
      obtain rfl : k = k' := Option.some.inj (hk.symm.trans hk')
      obtain rfl : w = w' := Option.some.inj (hw.symm.trans hw')
      rw [hm]
    · next h => exact absurd hw (h k w hk)
  exact ⟨fun h => hl.trans (if_pos (beq_iff_eq.mpr h)), fun h => hl.trans (if_neg (mt beq_iff_eq.mp h))⟩

/-! ### The first lookup of a unit (R61 to R64) -/

/-- R64: the first lookup of a window fails, with its one report. -/
theorem failLookup_eq (d : Device) (u : UnitId) (x : ExtentWindow) {l : Lookup} {rest : List Lookup} (hx : x.lookups = l :: rest)
    (cause : Cause) (block : Option Nat) : (d.modWindow u (fun _ => x)).failLookup u cause block =
      Device.loseBlocks
        (Device.report { d with windows := d.windows.set u { x with lookups := rest } }
          { cls := .uncorrected, cause := cause
            op := if (d.buf l.buffer).state = .filling then .fill else .flush
            unit := some u, track := (d.buf l.buffer).key.map TrackKey.loc, block := block })
        l.buffer l.count := by
  have hget : ((d.modWindow u (fun _ => x)).windows.get u).lookups = l :: rest := by
    rw [← hx]
    cases u <;> rfl
  have hbuf : (d.modWindow u (fun _ => x)).buf l.buffer = d.buf l.buffer := rfl
  unfold Device.failLookup
  rw [hget]
  dsimp only
  rw [workOp_eq, hbuf]
  refine congrArg (Device.loseBlocks · l.buffer l.count) ?_
  cases u <;> rfl

/-- R61 to R64: what the slide of the first lookup leads to. -/
theorem serveLookup_spec {d : Device} {u : UnitId} {l : Lookup} {rest : List Lookup} (hl : (d.windows.get u).lookups = l :: rest)
    (hf : (d.windows.get u).fetching = false) (w2 : ExtentWindow) :
    let w := d.windows.get u
    let w1 := if l.block < w.base then w.rewind (d.chainStart u) else w
    (slide (slideFuel l.block) w1 l.block = (w2, .covered) →
      ∃ card n, locate w2.entries w2.base l.block = some (card, n) ∧ d.serveLookup u = some
        ((d.modWindow u (fun _ => { w2 with lookups := rest })).lookupAnswered l.buffer card (min l.count n)))
    ∧ (slide (slideFuel l.block) w1 l.block = (w2, .fetch) →
      (l.fetches < 256 → d.serveLookup u = some ((d.modWindow u (fun _ =>
          { w2 with lookups := { l with fetches := l.fetches + 1 } :: rest, fetching := true })).request
          { who := .window u, kind := .read, block := w2.next.block, count := 1, time := 0
            op := .fetch, unit := some u, track := d.lookupLoc l.buffer }))
      ∧ (256 ≤ l.fetches → d.serveLookup u = some ((d.modWindow u (fun _ => w2)).failLookup u .chainLimit none)))
    ∧ (slide (slideFuel l.block) w1 l.block = (w2, .short) →
      d.serveLookup u = some ((d.modWindow u (fun _ => w2)).failLookup u .chainShort none))
    ∧ (slide (slideFuel l.block) w1 l.block = (w2, .endless) → d.serveLookup u = none) := by
  intro w w1
  have hserve : d.serveLookup u =
      match slide (slideFuel l.block) w1 l.block with
      | (w2, .covered) =>
        match locate w2.entries w2.base l.block with
        | some (card, n) =>
          some ((d.modWindow u (fun _ => { w2 with lookups := rest })).lookupAnswered l.buffer card
            (min l.count n))
        | none => none
      | (w2, .fetch) =>
        if Config.fetchLimit < l.fetches + 1 then
          some ((d.modWindow u (fun _ => w2)).failLookup u .chainLimit none)
        else
          some ((d.modWindow u (fun _ =>
              { w2 with lookups := { l with fetches := l.fetches + 1 } :: rest, fetching := true })).request
            { who := .window u, kind := .read, block := w2.next.block, count := 1, time := 0
              op := .fetch, unit := some u, track := d.lookupLoc l.buffer })
      | (w2, .short) => some ((d.modWindow u (fun _ => w2)).failLookup u .chainShort none)
      | (_, .endless) => none := by
    unfold Device.serveLookup
    dsimp only
    rw [hl]
    dsimp only
    refine (if_neg (Bool.eq_false_iff.mp hf)).trans ?_
    rfl
  refine ⟨fun h => ?_, fun h => ⟨fun hb => ?_, fun hb => ?_⟩, fun h => ?_, fun h => ?_⟩
  · have hcov : w2.covers l.block = true := by
      have := (slide_keeps (slideFuel l.block) w1 l.block).2
      rw [h] at this
      exact this rfl
    obtain ⟨h1, h2⟩ := (covers_iff w2 l.block).mp hcov
    obtain ⟨card, n, -, hloc⟩ := locate_of_covered w2.entries w2.base l.block h1 h2
    refine ⟨card, n, hloc, ?_⟩
    rw [hserve, h]
    dsimp only
    rw [hloc]
  · rw [hserve, h]
    exact if_neg (show ¬ 256 < l.fetches + 1 by omega)
  · rw [hserve, h]
    exact if_pos (show 256 < l.fetches + 1 by omega)
  · rw [hserve, h]
  · rw [hserve, h]

/-- Settles O59: a lookup is asked for, slides its window, and is answered within one extent or fails. -/
theorem aLookupStaysInItsExtent : Obligations.ALookupStaysInItsExtent := by
  unfold Obligations.ALookupStaysInItsExtent
  refine ⟨locate_some, locate_of_covered, fun d i k w b rest ho hn hi hk hw ht => ?_, fun d ho hn hi => ⟨fun e he => ?_,
    fun e h0 h1 => ?_⟩, fun fuel w b => ?_, readDescriptor_spec, fun d i k w hk hw => ?_, fun d u => ?_⟩
  · intro n x
    have hm : d.micro = some (d.workOn i) := by
      unfold Device.micro
      rw [ho, hn, hi]
      rfl
    have hon : d.workOn i = d.askLookup i k w b := by
      unfold Device.workOn
      split
      · next k' w' hk' hw' =>
        obtain rfl : k = k' := Option.some.inj (hk.symm.trans hk')
        obtain rfl : w = w' := Option.some.inj (hw.symm.trans hw')
        rw [ht]
      · next h => exact absurd hw (h k w hk)
    rw [hm, hon]
    rfl
  · unfold Device.micro
    rw [ho, hn, hi, he]
    rfl
  · unfold Device.micro
    rw [ho, hn, hi, h0, h1]
    rfl
  · intro covered
    have hc : w.covers b = true ↔ covered := covers_iff w b
    have hc' : ¬ covered → w.covers b = false := fun h => Bool.eq_false_iff.mpr (mt hc.mp h)
    obtain ⟨hcov, hend, hfetch, hin⟩ := slide_succ fuel w b
    refine ⟨fun h => hcov (hc.mpr h), fun h1 h2 => hend (hc' h1) h2, fun h1 h2 h3 => hfetch (hc' h1) h2 h3,
      fun bs h1 h2 h3 => ?_⟩
    obtain ⟨hd, hj, hf⟩ := hin bs (hc' h1) h2 h3
    refine ⟨?_, hj, hf⟩
    intro e he next
    obtain ⟨hroom, hfull⟩ := append_cases w e
    exact ⟨fun hl => (hd e he).trans (congrArg (slide fuel · b) (hroom hl)),
      fun x xs hx hl => (hd e he).trans (congrArg (slide fuel · b) (hfull x xs hx hl))⟩
  · intro x put
    have hlt := buf_lt_of_key hk
    refine ⟨?_, ?_⟩
    · intro b rest card n ht run
      have hrun : ∀ kind stage, (d.setWork i { w with stage := stage }).requestRun i k kind card n = run kind stage :=
        fun kind stage => by
        have hstate : ((d.setWork i { w with stage := stage }).buf i).state = x.state :=
          (congrArg TrackBuffer.state (setBuf_self hlt { d.buf i with work := some { w with stage := stage } })).trans rfl
        unfold Device.requestRun
        rw [workOp_eq, hstate]
        rfl
      have ha := lookupAnswered_eq (card := card) (n := n) hk hw ht
      exact ⟨fun hb => ha.trans ((if_pos hb).trans (hrun _ _)), fun hb => ha.trans ((if_neg hb).trans (hrun _ _))⟩
    · intro m n hm lost rest
      exact loseBlocks_eq hk hw hm
  · intro w slid lost
    refine ⟨?_, fun hf => ⟨fun data => ?_, fun l rest hl => ?_⟩⟩
    · intro l rest hl hf w1 w2
      obtain ⟨hcov, hfetch, hshort, hendless⟩ := serveLookup_spec hl hf w2
      have hkeep : ∀ {r : SlideEnd}, slide (slideFuel l.block) w1 l.block = (w2, r) → w2.lookups = l :: rest := fun {r} h => by
        have h1 : w1.lookups = l :: rest := by
          dsimp only [w1]
          split <;> exact hl
        have h2 := (slide_keeps (slideFuel l.block) w1 l.block).1
        rw [h] at h2
        exact h2.trans h1
      refine ⟨hcov, fun h => ⟨fun hb => (hfetch h).1 hb, fun hb => ((hfetch h).2 hb).trans ?_⟩, fun h => (hshort h).trans ?_, hendless⟩
      · exact congrArg some (failLookup_eq d u w2 (hkeep h) _ _)
      · exact congrArg some (failLookup_eq d u w2 (hkeep h) _ _)
    · show d.windowNews u true data = _
      unfold Device.windowNews
      dsimp only
      rw [show (d.windows.get u).fetching = true from hf]
      rfl
    · show d.windowNews u false [] = _
      unfold Device.windowNews
      dsimp only
      rw [show (d.windows.get u).fetching = true from hf]
      exact failLookup_eq d u { w with fetching := false, groupBuf := none } hl _ _

end Sys2Proof.Proofs
end

section
namespace Sys2Proof.Proofs
open Sys2Proof Sys2Proof.Machine

/-! ### Which formats fit (R2, R13 to R16) -/

theorem allDistinct_iff : ∀ l : List Nat, allDistinct l = true ↔ l.Nodup
  | [] => ⟨fun _ => List.nodup_nil, fun _ => rfl⟩
  | x :: xs => by
    rw [allDistinct, Bool.and_eq_true, Bool.not_eq_true', allDistinct_iff xs, List.nodup_cons, ← Bool.not_eq_true,
      List.contains_iff_mem]

/-- R2: the format is not INVALID. -/
theorem valid_iff (f : TrackFormat) : f.valid = true ↔
    rateAllowed f.enc f.rate = true ∧ 1 ≤ f.sectors ∧ f.sectors ≤ 64 ∧ f.sizeCode ≤ 6 ∧ 1 ≤ f.gap3 ∧ f.gap3 ≤ 255
    ∧ (f.rList = none → f.firstR + f.sectors ≤ 256 ∧ 1 ≤ f.interleave ∧ f.interleave ≤ f.sectors ∧ f.skew + 1 ≤ f.sectors)
    ∧ ∀ list, f.rList = some list → list.length = f.sectors ∧ list.Nodup := by
  unfold TrackFormat.valid
  cases hr : f.rList with
  | none =>
    simp only [Bool.and_eq_true, decide_eq_true_iff, and_assoc]
    exact ⟨fun ⟨h1, h2, h3, h4, h5, h6, h⟩ => ⟨h1, h2, h3, h4, h5, h6, fun _ => h, nofun⟩,
      fun ⟨h1, h2, h3, h4, h5, h6, h, _⟩ => ⟨h1, h2, h3, h4, h5, h6, h trivial⟩⟩
  | some l =>
    simp only [Bool.and_eq_true, decide_eq_true_iff, and_assoc, beq_iff_eq, allDistinct_iff]
    refine ⟨fun ⟨h1, h2, h3, h4, h5, h6, h⟩ => ⟨h1, h2, h3, h4, h5, h6, nofun, fun x hx => ?_⟩,
      fun ⟨h1, h2, h3, h4, h5, h6, _, h⟩ => ⟨h1, h2, h3, h4, h5, h6, h l rfl⟩⟩
    cases hx
    exact h

/-- R14: the gap 3 in effect is the one requested where it has room, and the shrunk one, not below its minimum, elsewhere. -/
theorem gapInEffect_iff (f : TrackFormat) (g : Nat) : f.gapInEffect = some g ↔
    (preamble f.enc + f.sectors * (overhead f.enc + f.dataLen + f.gap3) + minGap4b f.enc ≤ slotsPerRev f.rate ∧ g = f.gap3)
    ∨ (¬ preamble f.enc + f.sectors * (overhead f.enc + f.dataLen + f.gap3) + minGap4b f.enc ≤ slotsPerRev f.rate
      ∧ (minGap3 f.enc : Int) ≤ f.shrunkGap ∧ (g : Int) = f.shrunkGap) := by
  unfold TrackFormat.gapInEffect
  dsimp only
  by_cases hr : preamble f.enc + f.sectors * (overhead f.enc + f.dataLen + f.gap3) + minGap4b f.enc ≤ slotsPerRev f.rate
  · rw [if_pos hr, Option.some.injEq]
    exact ⟨fun h => .inl ⟨hr, h.symm⟩, fun h => h.elim (fun h => h.2.symm) (fun h => absurd hr h.1)⟩
  · rw [if_neg hr, Option.ite_none_right_eq_some, Option.some.injEq]
    refine ⟨fun ⟨h1, h2⟩ => .inr ⟨hr, h1, ?_⟩, fun h => h.elim (fun h => absurd h.1 hr) fun ⟨_, h1, h2⟩ => ⟨h1, ?_⟩⟩
    · rw [← h2, Int.toNat_of_nonneg (Int.le_trans (Int.natCast_nonneg _) h1)]
    · rw [← h2, Int.toNat_natCast]

/-- R13 to R16: a layout that fits is that of a valid format, with its gap 3 in effect, within the capacity. -/
theorem layoutOf_fit_iff (f : TrackFormat) (c h heads : Nat) (l : Layout) : layoutOf f c h heads = .fit l ↔
    f.valid = true ∧ f.gapInEffect = some l.gap3 ∧ f.withinCapacity = true ∧ l =
      { enc := f.enc, rate := f.rate, sectors := f.sectors, sizeCode := f.sizeCode, gap3 := l.gap3
        gap4b := slotsPerRev f.rate - preamble f.enc - f.sectors * (overhead f.enc + f.dataLen + l.gap3)
        table := (List.range f.sectors).map (layoutSector f.enc f.dataLen l.gap3 (f.order c h heads)) } := by
  unfold layoutOf
  cases hv : f.valid with
  | false => exact ⟨nofun, fun h => nomatch h.1⟩
  | true =>
    rw [Bool.not_true, if_neg Bool.false_ne_true]
    cases hg : f.gapInEffect with
    | none => exact ⟨nofun, fun h => nomatch h.2.1⟩
    | some g =>
      dsimp only
      cases hw : f.withinCapacity with
      | false => exact ⟨nofun, fun h => nomatch h.2.2.1⟩
      | true =>
        rw [Bool.not_true, if_neg Bool.false_ne_true, LayoutResult.fit.injEq]
        refine ⟨fun h => ?_, fun ⟨_, h1, _, h2⟩ => ?_⟩
        · subst h
          exact ⟨rfl, rfl, rfl, rfl⟩
        · obtain rfl : g = l.gap3 := Option.some.inj h1
          exact h2.symm

theorem layoutOf_invalid_iff (f : TrackFormat) (c h heads : Nat) : layoutOf f c h heads = .invalid ↔ ¬ f.valid = true := by
  unfold layoutOf
  cases hv : f.valid with
  | false => exact ⟨fun _ => Bool.false_ne_true, fun _ => rfl⟩
  | true =>
    refine ⟨fun h => ?_, fun h => absurd rfl h⟩
    rw [Bool.not_true, if_neg Bool.false_ne_true] at h
    split at h
    · exact nomatch h
    · split at h <;> exact nomatch h

/-- R14, R15: which formats fit. -/
theorem fits_exists (f : TrackFormat) (c h heads : Nat) : (∃ l, layoutOf f c h heads = .fit l) ↔
    f.valid = true ∧ (preamble f.enc + f.sectors * (overhead f.enc + f.dataLen + f.gap3) + minGap4b f.enc ≤ slotsPerRev f.rate
      ∨ (minGap3 f.enc : Int) ≤ f.shrunkGap) ∧ f.dataSize ≤ 12288 := by
  have hcap : f.withinCapacity = true ↔ f.dataSize ≤ 12288 := decide_eq_true_iff
  constructor
  · rintro ⟨l, hl⟩
    obtain ⟨hv, hg, hw, -⟩ := (layoutOf_fit_iff f c h heads l).mp hl
    exact ⟨hv, ((gapInEffect_iff f _).mp hg).imp (fun h => h.1) (fun h => h.2.1), hcap.mp hw⟩
  · rintro ⟨hv, hg, hw⟩
    have hgap : ∃ g, f.gapInEffect = some g := by
      by_cases hr : preamble f.enc + f.sectors * (overhead f.enc + f.dataLen + f.gap3) + minGap4b f.enc ≤ slotsPerRev f.rate
      · exact ⟨f.gap3, (gapInEffect_iff f _).mpr (.inl ⟨hr, rfl⟩)⟩
      · have hs := hg.resolve_left hr
        exact ⟨f.shrunkGap.toNat, (gapInEffect_iff f _).mpr (.inr ⟨hr, hs,
          Int.toNat_of_nonneg (Int.le_trans (Int.natCast_nonneg _) hs)⟩)⟩
    obtain ⟨g, hg⟩ := hgap
    exact ⟨_, (layoutOf_fit_iff f c h heads
      { enc := f.enc, rate := f.rate, sectors := f.sectors, sizeCode := f.sizeCode, gap3 := g
        gap4b := slotsPerRev f.rate - preamble f.enc - f.sectors * (overhead f.enc + f.dataLen + g)
        table := (List.range f.sectors).map (layoutSector f.enc f.dataLen g (f.order c h heads)) }).mpr
      ⟨hv, hg, hcap.mpr hw, rfl⟩⟩

/-- R14: with the gap 3 in effect the revolution has room for the minimum gap 4b, and that gap 3 is no more than the one
requested. -/
theorem gapInEffect_room {f : TrackFormat} {g : Nat} (hs : 1 ≤ f.sectors) (hg : f.gapInEffect = some g) :
    preamble f.enc + f.sectors * (overhead f.enc + f.dataLen + g) + minGap4b f.enc ≤ slotsPerRev f.rate ∧ g ≤ f.gap3 := by
  rcases (gapInEffect_iff f g).mp hg with ⟨hr, rfl⟩ | ⟨hr, -, hgs⟩
  · exact ⟨hr, Nat.le_refl _⟩
  · have hpos : (0 : Int) < f.sectors := by exact_mod_cast hs
    have hfloor : (g : Int) * f.sectors ≤ (slotsPerRev f.rate : Int) - minGap4b f.enc - preamble f.enc
        - f.sectors * (overhead f.enc + f.dataLen) := by
      rw [hgs]
      exact Int.ediv_mul_le _ (Int.ne_of_gt hpos)
    have hroom : preamble f.enc + f.sectors * (overhead f.enc + f.dataLen + g) + minGap4b f.enc ≤ slotsPerRev f.rate := by
      zify
      linarith [hfloor]
    refine ⟨hroom, Nat.le_of_not_lt fun hlt => hr ?_⟩
    have hmul : f.sectors * (overhead f.enc + f.dataLen + f.gap3) ≤ f.sectors * (overhead f.enc + f.dataLen + g) :=
      Nat.mul_le_mul_left _ (by omega)
    omega

/-! ### The order of the sectors (R5, R18 to R20) -/

/-- R18: the first free position at or after a candidate, where one of the positions tried is free. -/
theorem firstFree_spec (taken : List Nat) (s : Nat) : ∀ (fuel cand : Nat), cand < s → (∃ e < fuel, (cand + e) % s ∉ taken) →
    ∃ e, firstFree taken s cand fuel = (cand + e) % s ∧ (cand + e) % s ∉ taken ∧ ∀ e' < e, (cand + e') % s ∈ taken
  | 0, _, _, ⟨_, h, _⟩ => absurd h (Nat.not_lt_zero _)
  | fuel + 1, cand, hc, ⟨e, he, hn⟩ => by
    rw [firstFree]
    have hcand : (cand + 0) % s = cand := by rw [Nat.add_zero, Nat.mod_eq_of_lt hc]
    by_cases ht : cand ∈ taken
    · rw [if_pos (List.contains_iff_mem.mpr ht)]
      have hstep : ∀ n, ((cand + 1) % s + n) % s = (cand + (n + 1)) % s := fun n => by
        rw [Nat.mod_add_mod, Nat.add_assoc, Nat.add_comm 1 n]
      have he0 : e ≠ 0 := fun h => by
        rw [h, hcand] at hn
        exact hn ht
      obtain ⟨n, rfl⟩ : ∃ n, e = n + 1 := ⟨e - 1, by omega⟩
      obtain ⟨x, h1, h2, h3⟩ := firstFree_spec taken s fuel ((cand + 1) % s) (Nat.mod_lt _ (by omega))
        ⟨n, by omega, by rw [hstep]; exact hn⟩
      refine ⟨x + 1, by rw [h1, hstep], by rw [← hstep]; exact h2, fun e' h' => ?_⟩
      cases e' with
      | zero => rw [hcand]; exact ht
      | succ y => rw [← hstep]; exact h3 y (by omega)
    · rw [if_neg (mt List.contains_iff_mem.mp ht)]
      exact ⟨0, hcand.symm, by rw [hcand]; exact ht, fun e' h' => absurd h' (Nat.not_lt_zero _)⟩

/-- R18: fewer than `s` positions do not take up all of them, from any candidate on. -/
theorem exists_free {taken : List Nat} {s cand : Nat} (hs : 0 < s) (hl : taken.length < s) :
    ∃ e < s, (cand + e) % s ∉ taken := by
  by_contra hall
  have hall' : ∀ e < s, (cand + e) % s ∈ taken := fun e he => by
    by_contra hn
    exact hall ⟨e, he, hn⟩
  have hsub : List.range s ⊆ taken := fun p hp => by
    have hp' : p < s := List.mem_range.mp hp
    have hm := hall' ((p + (s - cand % s)) % s) (Nat.mod_lt _ hs)
    have hcm : cand % s < s := Nat.mod_lt _ hs
    have heq : (cand + (p + (s - cand % s)) % s) % s = p := by
      have hsum : cand + (p + (s - cand % s)) = p + s * (cand / s + 1) := by
        have hdiv := Nat.div_add_mod cand s
        rw [Nat.mul_add, Nat.mul_one]
        omega
      rw [Nat.add_mod_mod, hsum, Nat.add_mul_mod_self_left, Nat.mod_eq_of_lt hp']
    rwa [heq] at hm
  have hle := (List.nodup_range (n := s)).subperm hsub |>.length_le
  rw [List.length_range] at hle
  omega

/-- R18: the positions of the first `n` logical sectors. -/
def placedUpTo (s i n : Nat) : List Nat :=
  (List.range n).foldl (fun taken j => taken ++ [firstFree taken s ((j * i) % s) s]) []

theorem placedUpTo_succ (s i n : Nat) :
    placedUpTo s i (n + 1) = placedUpTo s i n ++ [firstFree (placedUpTo s i n) s ((n * i) % s) s] := by
  unfold placedUpTo
  rw [List.range_succ, List.foldl_append]
  rfl

/-- R18: the positions are different ones of the track, each the first free one from where the interleave puts its sector. -/
theorem placedUpTo_spec {s : Nat} (i : Nat) (hs : 0 < s) : ∀ n ≤ s, (placedUpTo s i n).length = n ∧ (placedUpTo s i n).Nodup
    ∧ (∀ p ∈ placedUpTo s i n, p < s)
    ∧ ∀ j p, (placedUpTo s i n)[j]? = some p → ∃ e, p = (j * i + e) % s ∧ p ∉ (placedUpTo s i n).take j
      ∧ ∀ e' < e, (j * i + e') % s ∈ (placedUpTo s i n).take j
  | 0, _ => ⟨rfl, List.nodup_nil, fun _ h => absurd h List.not_mem_nil, fun _ _ h => nomatch h⟩
  | n + 1, hn => by
    obtain ⟨hlen, hnd, hlt, hpos⟩ := placedUpTo_spec i hs n (by omega)
    obtain ⟨e, he, hfree, hbefore⟩ := firstFree_spec (placedUpTo s i n) s s ((n * i) % s) (Nat.mod_lt _ hs)
      (exists_free hs (by omega))
    simp only [Nat.mod_add_mod] at he hfree hbefore
    rw [placedUpTo_succ, he]
    refine ⟨by rw [List.length_append, hlen]; rfl, ?_, fun p hp => ?_, fun j p hj => ?_⟩
    · exact List.nodup_append.mpr ⟨hnd, List.nodup_singleton _, fun a ha b hb hab => hfree (by
        rw [List.mem_singleton] at hb
        rw [← hb, ← hab]
        exact ha)⟩
    · rcases List.mem_append.mp hp with hp | hp
      · exact hlt p hp
      · rw [List.mem_singleton.mp hp]
        exact Nat.mod_lt _ hs
    · by_cases hjn : j < n
      · rw [List.getElem?_append_left (by rw [hlen]; exact hjn)] at hj
        rw [List.take_append_of_le_length (by rw [hlen]; omega)]
        exact hpos j p hj
      · have hjl : j < n + 1 := by
          have := (List.getElem?_eq_some_iff.mp hj).1
          rw [List.length_append, hlen] at this
          exact this
        obtain rfl : j = n := by omega
        rw [List.getElem?_append_right (by rw [hlen]), hlen, Nat.sub_self] at hj
        obtain rfl : (j * i + e) % s = p := Option.some.inj hj
        rw [List.take_append_of_le_length (by rw [hlen]), List.take_of_length_le (by rw [hlen])]
        exact ⟨e, rfl, hfree, hbefore⟩

theorem placement_eq (s i : Nat) : placement s i = placedUpTo s i s := rfl

/-- R19: the positions turned by the skew are different ones of the track. -/
theorem turned_nodup {s r : Nat} {place : List Nat} (hnd : place.Nodup) (hlt : ∀ p ∈ place, p < s) :
    (place.map (fun p => (p + r) % s)).Nodup := by
  refine hnd.map_on fun p hp q hq h => ?_
  have hm : p % s = q % s := Nat.ModEq.add_right_cancel' r h
  rwa [Nat.mod_eq_of_lt (hlt p hp), Nat.mod_eq_of_lt (hlt q hq)] at hm

theorem filter_lt_range {j s : Nat} (h : j ≤ s) : ((List.range s).filter (fun x => x < j)).length = j := by
  obtain ⟨n, rfl⟩ := Nat.exists_eq_add_of_le h
  rw [List.range_add, List.filter_append, List.filter_eq_self.mpr, List.filter_eq_nil_iff.mpr, List.append_nil,
    List.length_range]
  · intro x hx
    obtain ⟨y, -, rfl⟩ := List.mem_map.mp hx
    rw [decide_eq_true_iff]
    omega
  · intro x hx
    exact decide_eq_true (List.mem_range.mp hx)

/-- R5, R18 to R20: the numbers of a track without an R list: the sector that the interleave puts at a position carries its
number there, turned by the skew, and the numbers are those from R0 on. -/
theorem order_placed {f : TrackFormat} (hr : f.rList = none) (hs : 0 < f.sectors) (c h heads : Nat) :
    (∀ j p, (placement f.sectors f.interleave)[j]? = some p →
      (f.order c h heads)[(p + (c * heads + h) * f.skew) % f.sectors]? = some (f.firstR + j))
    ∧ (f.order c h heads).Perm ((List.range f.sectors).map (fun j => f.firstR + j)) := by
  obtain ⟨hlen, hnd, hlt, -⟩ := placedUpTo_spec f.interleave hs f.sectors (Nat.le_refl _)
  rw [← placement_eq] at hlen hnd hlt
  generalize hpl : placement f.sectors f.interleave = place at hlen hnd hlt
  have horder : f.order c h heads = (List.range f.sectors).map
      (fun k => f.firstR + (place.map (fun p => (p + skewRotation f c h heads) % f.sectors)).idxOf k) := by
    unfold TrackFormat.order
    rw [hr, hpl]
  have hpos := turned_nodup (r := skewRotation f c h heads) hnd hlt
  generalize hturn : place.map (fun p => (p + skewRotation f c h heads) % f.sectors) = turned at hpos horder
  have htlen : turned.length = f.sectors := by rw [← hturn, List.length_map, hlen]
  have hmem : ∀ k, k ∈ turned ↔ k ∈ List.range f.sectors := by
    have hsub : turned ⊆ List.range f.sectors := fun k hk => by
      rw [← hturn] at hk
      obtain ⟨p, -, rfl⟩ := List.mem_map.mp hk
      exact List.mem_range.mpr (Nat.mod_lt _ hs)
    have hperm := (hpos.subperm hsub).perm_of_length_le (by rw [List.length_range, htlen])
    exact fun k => hperm.mem_iff
  refine ⟨fun j p hj => ?_, ?_⟩
  · have hk : turned[j]? = some ((p + (c * heads + h) * f.skew) % f.sectors) := by
      rw [← hturn, List.getElem?_map, hj, Option.map_some, skewRotation, Nat.add_mod_mod]
    obtain ⟨hjl, hjk⟩ := List.getElem?_eq_some_iff.mp hk
    rw [horder, List.getElem?_map, List.getElem?_range (Nat.mod_lt _ hs), Option.map_some, ← hjk,
      hpos.idxOf_getElem j hjl]
  · rw [horder]
    refine List.Subperm.perm_of_length_le (List.Nodup.subperm ?_ fun x hx => ?_) (by simp)
    · refine List.nodup_range.map_on fun a ha b hb hab => ?_
      exact (List.idxOf_inj ((hmem a).mpr ha)).mp (Nat.add_left_cancel hab)
    · obtain ⟨k, hk, rfl⟩ := List.mem_map.mp hx
      refine List.mem_map.mpr ⟨_, List.mem_range.mpr ?_, rfl⟩
      rw [← htlen]
      exact List.idxOf_lt_length_iff.mpr ((hmem k).mpr hk)

/-- R5: the numbers of a valid format are different, one for each sector. -/
theorem order_nodup {f : TrackFormat} (hv : f.valid = true) (c h heads : Nat) :
    (f.order c h heads).length = f.sectors ∧ (f.order c h heads).Nodup := by
  obtain ⟨-, hs, -, -, -, -, -, hlist⟩ := (valid_iff f).mp hv
  cases hr : f.rList with
  | some l =>
    have ho : f.order c h heads = l := by
      unfold TrackFormat.order
      rw [hr]
    rw [ho]
    exact hlist l hr
  | none =>
    have hp := (order_placed hr hs c h heads).2
    refine ⟨by rw [hp.length_eq, List.length_map, List.length_range], hp.nodup_iff.mpr ?_⟩
    exact List.nodup_range.map_on fun a _ b _ hab => Nat.add_left_cancel hab

/-! ### The table of a layout (R13, R16) -/

theorem table_numbers {n : Nat} (e : Encoding) (d g : Nat) (numbers : List Nat) (hl : numbers.length = n) :
    ((List.range n).map (layoutSector e d g numbers)).map LayoutSector.number = numbers := by
  refine List.ext_getElem (by simp [hl]) fun k h1 h2 => ?_
  simp only [List.getElem_map, List.getElem_range]
  show numbers.getD k 0 = _
  rw [List.getD_eq_getElem?_getD, List.getElem?_eq_getElem h2]
  rfl

/-- R5: the logical index of a sector is the rank of its number in the table. -/
theorem table_logical {n : Nat} (e : Encoding) (d g : Nat) (numbers : List Nat) (hl : numbers.length = n) :
    ∀ t ∈ (List.range n).map (layoutSector e d g numbers), t.logical =
      (((List.range n).map (layoutSector e d g numbers)).filter (fun y => y.number < t.number)).length := fun t ht => by
  have hrank : t.logical = (numbers.filter (fun x => x < t.number)).length := by
    obtain ⟨k, -, rfl⟩ := List.mem_map.mp ht
    rfl
  rw [hrank, ← List.length_map (f := LayoutSector.number)
    (as := ((List.range n).map (layoutSector e d g numbers)).filter (fun y => y.number < t.number))]
  conv_lhs => rw [← table_numbers e d g numbers hl, List.filter_map]
  rfl

/-! ### The format of a track (R4) -/

theorem matchesTrack_iff (e : OverrideEntry) (c h : Nat) : e.matchesTrack c h = true ↔ e.firstCyl ≤ c ∧ c ≤ e.lastCyl
    ∧ (e.heads = .both ∨ e.heads = .head0 ∧ h = 0 ∨ e.heads = .head1 ∧ h = 1) := by
  have hh : e.heads.covers h = true ↔ e.heads = .both ∨ e.heads = .head0 ∧ h = 0 ∨ e.heads = .head1 ∧ h = 1 := by
    cases e.heads <;> simp [HeadSelector.covers]
  unfold OverrideEntry.matchesTrack
  rw [Bool.and_eq_true, Bool.and_eq_true, decide_eq_true_iff, decide_eq_true_iff, hh, and_assoc]

/-- R4: the last override entry that matches gives the format, else the base. -/
theorem overrideFormat_cases (base : TrackFormat) (es : List OverrideEntry) (c h : Nat) :
    (∀ a e b, es = a ++ e :: b → e.matchesTrack c h = true → (∀ y ∈ b, ¬ y.matchesTrack c h = true) →
      overrideFormat base es c h = e.format)
    ∧ ((∀ e ∈ es, ¬ e.matchesTrack c h = true) → overrideFormat base es c h = base) := by
  refine ⟨fun a e b hes he hb => ?_, fun hn => ?_⟩
  · have hlast : (es.filter (fun e => e.matchesTrack c h)).getLast? = some e := by
      rw [hes, List.filter_append, List.filter_cons_of_pos (p := fun y : OverrideEntry => y.matchesTrack c h) he,
        List.filter_eq_nil_iff.mpr hb, List.getLast?_concat]
    unfold overrideFormat
    rw [hlast]
  · have hnone : es.filter (fun e => e.matchesTrack c h) = [] := List.filter_eq_nil_iff.mpr hn
    unfold overrideFormat
    rw [hnone]
    rfl

/-- Settles O57: the formats that fit, the slots and the numbers of their sectors, and the format of a track. -/
theorem aLayoutFillsItsRevolution : Obligations.ALayoutFillsItsRevolution := by
  unfold Obligations.ALayoutFillsItsRevolution
  refine ⟨?_, ?_, fun f c h heads l hl t ht => ?_, fun f c h heads l hl => ?_, fun g c h => ⟨fun hout => ?_, ?_⟩⟩
  · intro f c h heads l hl O P M D
    have hO : overhead f.enc = O := by dsimp only [O]; cases f.enc <;> rfl
    have hP : preamble f.enc = P := by dsimp only [P]; cases f.enc <;> rfl
    have hM : minGap4b f.enc = M := by dsimp only [M]; cases f.enc <;> rfl
    obtain ⟨hv, hg, hw, he⟩ := (layoutOf_fit_iff f c h heads l).mp hl
    obtain ⟨-, hs, -⟩ := (valid_iff f).mp hv
    obtain ⟨hroom, hle⟩ := gapInEffect_room hs hg
    have hstart : ∀ k, sectorStart f.enc f.dataLen l.gap3 k = P + k * (O + D + l.gap3) := fun k => by
      unfold sectorStart
      rw [hO, hP]
      rfl
    have htable : l.table = (List.range f.sectors).map (layoutSector f.enc f.dataLen l.gap3 (f.order c h heads)) :=
      congrArg Layout.table he
    have hgap : l.gap4b = slotsPerRev f.rate - preamble f.enc - f.sectors * (overhead f.enc + f.dataLen + l.gap3) :=
      congrArg Layout.gap4b he
    rw [hO, hP, hM] at hroom
    rw [hO, hP] at hgap
    have hD : f.dataLen = D := rfl
    have hB : slotsPerRev f.rate = f.rate / 40 := rfl
    rw [hD, hB] at hroom hgap
    refine ⟨congrArg Layout.enc he, congrArg Layout.rate he, congrArg Layout.sectors he, congrArg Layout.sizeCode he,
      by omega, by omega, hle, decide_eq_true_iff.mp hw, ?_, fun k t hk => ?_, fun k => ?_⟩
    · rw [htable, List.length_map, List.length_range]
    · rw [htable, List.getElem?_map, Option.map_eq_some_iff] at hk
      obtain ⟨k', hk', rfl⟩ := hk
      obtain ⟨hlt, hkk⟩ := List.getElem?_eq_some_iff.mp hk'
      rw [List.getElem_range] at hkk
      rw [hkk]
      exact hstart k'
    · rw [← hstart k]
      show sectorStart l.enc (sizeLen l.sizeCode) l.gap3 k = _
      rw [show l.enc = f.enc from congrArg Layout.enc he, show l.sizeCode = f.sizeCode from congrArg Layout.sizeCode he]
      rfl
  · intro f c h heads S O P M G D valid room shrunk
    have hO : overhead f.enc = O := by dsimp only [O]; cases f.enc <;> rfl
    have hP : preamble f.enc = P := by dsimp only [P]; cases f.enc <;> rfl
    have hM : minGap4b f.enc = M := by dsimp only [M]; cases f.enc <;> rfl
    have hG : minGap3 f.enc = G := by dsimp only [G]; cases f.enc <;> rfl
    have hvalid : f.valid = true ↔ valid := by
      refine (valid_iff f).trans (and_congr ?_ Iff.rfl)
      cases f.enc <;> exact (Bool.or_eq_true _ _).to_iff.trans (or_congr beq_iff_eq beq_iff_eq)
    have hroom : preamble f.enc + f.sectors * (overhead f.enc + f.dataLen + f.gap3) + minGap4b f.enc ≤ slotsPerRev f.rate ↔ room := by
      rw [hO, hP, hM]
      exact Iff.rfl
    have hshrunk : f.shrunkGap = shrunk := by
      unfold TrackFormat.shrunkGap
      rw [hO, hP, hM]
      rfl
    refine ⟨(layoutOf_invalid_iff f c h heads).trans (not_congr hvalid), ?_, fun l hl => ?_⟩
    · rw [fits_exists, hvalid, hroom, hshrunk, hG]
      exact Iff.rfl
    · obtain ⟨-, hg, -⟩ := (layoutOf_fit_iff f c h heads l).mp hl
      rw [gapInEffect_iff, hroom, hshrunk] at hg
      exact ⟨fun hr => hg.elim (fun x => x.2) (fun x => absurd hr x.1), fun hr => hg.elim (fun x => absurd x.1 hr) (fun x => x.2.2)⟩
  · obtain ⟨-, -, -, he⟩ := (layoutOf_fit_iff f c h heads l).mp hl
    rw [show l.table = _ from congrArg Layout.table he] at ht
    obtain ⟨k, -, rfl⟩ := List.mem_map.mp ht
    cases hf : f.enc <;> exact ⟨rfl, rfl, rfl, rfl, rfl⟩
  · obtain ⟨hv, -, -, he⟩ := (layoutOf_fit_iff f c h heads l).mp hl
    obtain ⟨-, hs, -, -, -, -, hnone, -⟩ := (valid_iff f).mp hv
    obtain ⟨hlen, hnd⟩ := order_nodup hv c h heads
    have htable : l.table = (List.range f.sectors).map (layoutSector f.enc f.dataLen l.gap3 (f.order c h heads)) :=
      congrArg Layout.table he
    have hnumbers : l.table.map LayoutSector.number = f.order c h heads := by
      rw [htable]
      exact table_numbers _ _ _ _ hlen
    refine ⟨?_, by rw [hnumbers]; exact hnd, fun list hr => ?_, fun hr => ?_⟩
    · rw [htable]
      exact table_logical _ _ _ _ hlen
    · rw [hnumbers]
      unfold TrackFormat.order
      rw [hr]
    · obtain ⟨hplen, hpnd, hplt, hpos⟩ := placedUpTo_spec f.interleave hs f.sectors (Nat.le_refl _)
      obtain ⟨hat, hperm⟩ := order_placed hr hs c h heads
      refine ⟨placement f.sectors f.interleave, hplen, hpnd, fun j p hj => ⟨hpos j p hj, ?_⟩⟩
      have hjs : j ≤ f.sectors := by
        have := (List.getElem?_eq_some_iff.mp hj).1
        rw [placement_eq, hplen] at this
        exact Nat.le_of_lt this
      have hk : (p + (c * heads + h) * f.skew) % f.sectors < f.sectors := Nat.mod_lt _ hs
      have hnum : (f.order c h heads).getD ((p + (c * heads + h) * f.skew) % f.sectors) 0 = f.firstR + j := by
        rw [List.getD_eq_getElem?_getD, hat j p hj]
        rfl
      refine ⟨layoutSector f.enc f.dataLen l.gap3 (f.order c h heads) ((p + (c * heads + h) * f.skew) % f.sectors), ?_, hnum, ?_⟩
      · rw [htable, List.getElem?_map, List.getElem?_range hk]
        rfl
      · show rank (f.order c h heads) ((f.order c h heads).getD _ 0) = j
        rw [hnum]
        unfold rank
        rw [(hperm.filter _).length_eq, List.filter_map, List.length_map]
        refine Eq.trans (congrArg List.length (List.filter_congr fun x _ => ?_)) (filter_lt_range hjs)
        exact decide_eq_decide.mpr Nat.add_lt_add_iff_left
  · refine if_neg ?_
    omega
  · intro hc hh hits
    have hformat : g.formatOf c h = some (overrideFormat g.base g.overrides c h) := if_pos ⟨hc, hh⟩
    have hhit : ∀ e : OverrideEntry, e.matchesTrack c h = true ↔ hits e := fun e => matchesTrack_iff e c h
    obtain ⟨hlast, hbase⟩ := overrideFormat_cases g.base g.overrides c h
    rw [hformat]
    exact ⟨fun a e b hes he hb => congrArg some (hlast a e b hes ((hhit e).mpr he) fun y hy => mt (hhit y).mp (hb y hy)),
      fun hn => congrArg some (hbase fun e he => mt (hhit e).mp (hn e he))⟩

end Sys2Proof.Proofs
end

section
namespace Sys2Proof.Proofs
open Sys2Proof Sys2Proof.Machine

/-! ### Which fills are requested, and the buffer that one is given (R72 to R77) -/

theorem holder_isSome_iff (d : Device) (k : TrackKey) : (d.holder k).isSome = true ↔
    ∃ i < 8, (d.buf i).state ≠ .free ∧ (d.buf i).key = some k := by
  unfold Device.holder
  rw [List.find?_isSome]
  refine exists_congr fun i => and_congr List.mem_range ?_
  rw [Bool.and_eq_true, bne_iff_ne, beq_iff_eq]

/-- R72, R74 d, R77: which fills are requested, and what becomes of the request. -/
theorem requestFill_cases (d : Device) (k : TrackKey) :
    let goes := d.layoutFor k ≠ none ∧ (∀ i < 8, (d.buf i).state ≠ .free → (d.buf i).key ≠ some k) ∧ k ∉ d.pool.waits
    (¬ goes → d.requestFill k = d)
    ∧ (goes → d.purpose k ≠ .prefetch → d.requestFill k = { d with pool := { d.pool with waits := d.pool.waits ++ [k] } })
    ∧ (goes → d.purpose k = .prefetch → (∀ i, d.allocatable = some i → d.requestFill k = d.startFill i k)
      ∧ (d.allocatable = none → d.requestFill k = d)) := by
  intro goes
  have hstay : ((d.layoutFor k).isNone || (d.holder k).isSome || d.pool.waits.contains k) = true ↔ ¬ goes := by
    rw [Bool.or_eq_true, Bool.or_eq_true, Option.isNone_iff_eq_none, holder_isSome_iff, List.contains_iff_mem]
    refine ⟨?_, fun h => ?_⟩
    · rintro ((h | ⟨i, hi, h1, h2⟩) | h) ⟨g1, g2, g3⟩
      · exact g1 h
      · exact g2 i hi h1 h2
      · exact g3 h
    · by_contra hn
      refine h ⟨fun g => hn (.inl (.inl g)), fun i hi h1 h2 => hn (.inl (.inr ⟨i, hi, h1, h2⟩)), fun g => hn (.inr g)⟩
  refine ⟨fun h => if_pos (hstay.mpr h), fun h hp => ?_, fun h hp => ⟨fun i hi => ?_, fun hi => ?_⟩⟩
  · refine (if_neg fun g => hstay.mp g h).trans ?_
    cases hq : d.purpose k with
    | prefetch => exact absurd hq hp
    | current => rfl
    | loader => rfl
  · refine (if_neg fun g => hstay.mp g h).trans ?_
    rw [hp]
    dsimp only
    rw [hi]
  · refine (if_neg fun g => hstay.mp g h).trans ?_
    rw [hp]
    dsimp only
    rw [hi]

/-- The last element of a list that passes a test. -/
theorem find?_reverse_eq_some {α : Type} {p : α → Bool} {l a b : List α} {x : α} (hl : l = a ++ x :: b) (hx : p x = true)
    (hb : ∀ y ∈ b, p y = false) : l.reverse.find? p = some x := by
  have hnone : b.reverse.find? p = none := List.find?_eq_none.mpr fun y hy => Bool.eq_false_iff.mp (hb y (List.mem_reverse.mp hy))
  rw [hl, List.reverse_append, List.reverse_cons, List.append_assoc, List.find?_append, hnone, Option.none_or,
    List.singleton_append, List.find?_cons_of_pos hx]

theorem find?_reverse_eq_none {α : Type} {p : α → Bool} {l : List α} (h : ∀ y ∈ l, p y = false) : l.reverse.find? p = none :=
  List.find?_eq_none.mpr fun y hy => Bool.eq_false_iff.mp (h y (List.mem_reverse.mp hy))

/-- R76: the buffer that a fill can be given: the latest FREE one, else the latest CLEAN one that is not current. -/
theorem allocatable_spec (d : Device) :
    let spare : Nat → Prop := fun j => (d.buf j).state = .clean ∧ d.bufCurrent j = false
    (∀ a i b, d.pool.lru = a ++ i :: b →
      ((d.buf i).state = .free → (∀ j ∈ b, (d.buf j).state ≠ .free) → d.allocatable = some i)
      ∧ ((∀ j ∈ d.pool.lru, (d.buf j).state ≠ .free) → spare i → (∀ j ∈ b, ¬ spare j) → d.allocatable = some i))
    ∧ ((∀ j ∈ d.pool.lru, (d.buf j).state ≠ .free ∧ ¬ spare j) → d.allocatable = none) := by
  intro spare
  have hfree : ∀ j, (d.buf j).state ≠ .free → ((d.buf j).state == .free) = false := fun j h => beq_eq_false_iff_ne.mpr h
  have hspare : ∀ j, ((d.buf j).state == .clean && !d.bufCurrent j) = true ↔ spare j := fun j => by
    rw [Bool.and_eq_true, beq_iff_eq, Bool.not_eq_true']
  have hnot : ∀ j, ¬ spare j → ((d.buf j).state == .clean && !d.bufCurrent j) = false := fun j h =>
    Bool.eq_false_iff.mpr (mt (hspare j).mp h)
  refine ⟨fun a i b hl => ⟨fun hi hb => ?_, fun hn hi hb => ?_⟩, fun h => ?_⟩
  · unfold Device.allocatable
    rw [find?_reverse_eq_some (p := fun i => (d.buf i).state == .free) hl (beq_iff_eq.mpr hi) fun j hj => hfree j (hb j hj)]
  · unfold Device.allocatable
    rw [find?_reverse_eq_none (p := fun i => (d.buf i).state == .free) fun j hj => hfree j (hn j hj)]
    exact find?_reverse_eq_some (p := fun i => (d.buf i).state == .clean && !d.bufCurrent i) hl ((hspare i).mpr hi)
      fun j hj => hnot j (hb j hj)
  · unfold Device.allocatable
    rw [find?_reverse_eq_none (p := fun i => (d.buf i).state == .free) fun j hj => hfree j (h j hj).1]
    exact find?_reverse_eq_none (p := fun i => (d.buf i).state == .clean && !d.bufCurrent i) fun j hj => hnot j (h j hj).2

/-- R78: the blocks of a stretch of the image, in ascending order. -/
theorem blocksOf_spec (o n b : Nat) : (b ∈ blocksOf o n ↔ n ≠ 0 ∧ o / 512 ≤ b ∧ b ≤ (o + n - 1) / 512)
    ∧ (blocksOf o n).Pairwise (· < ·) := by
  unfold blocksOf
  by_cases hn : n = 0
  · rw [if_pos hn]
    exact ⟨⟨fun h => absurd h List.not_mem_nil, fun h => absurd hn h.1⟩, .nil⟩
  · rw [if_neg hn]
    refine ⟨?_, List.pairwise_map.mpr (List.pairwise_lt_range.imp fun h => by omega)⟩
    rw [List.mem_map]
    refine ⟨fun ⟨j, hj, hb⟩ => ?_, fun ⟨_, h1, h2⟩ => ⟨b - o / 512, List.mem_range.mpr (by omega), by omega⟩⟩
    have := List.mem_range.mp hj
    exact ⟨hn, by omega, by omega⟩

/-! ### The wait list (R77) -/

/-- R77: the entry of the wait list that comes first: the oldest CURRENT one, else the first. -/
theorem firstWait_eq {d : Device} {k : TrackKey}
    (h : (∃ a b, d.pool.waits = a ++ k :: b ∧ d.purpose k = .current ∧ ∀ q ∈ a, d.purpose q ≠ .current)
      ∨ (∀ q ∈ d.pool.waits, d.purpose q ≠ .current) ∧ d.pool.waits.head? = some k) : d.firstWait = some k := by
  unfold Device.firstWait
  rcases h with ⟨a, b, hw, hk, ha⟩ | ⟨hn, hh⟩
  · have hnone : a.find? (fun q => d.purpose q == .current) = none :=
      List.find?_eq_none.mpr fun q hq g => ha q hq (beq_iff_eq.mp g)
    rw [hw, List.find?_append, hnone, Option.none_or,
      List.find?_cons_of_pos (p := fun q => d.purpose q == .current) (beq_iff_eq.mpr hk)]
  · rw [List.find?_eq_none.mpr fun q hq g => hn q hq (beq_iff_eq.mp g)]
    exact hh

theorem buf_lt_of_dirty {d : Device} {i : Nat} (h : (d.buf i).state = .dirty) : i < d.pool.buffers.length := by
  refine Nat.lt_of_not_le fun hi => ?_
  unfold Device.buf at h
  rw [List.getD_eq_getElem?_getD, List.getElem?_eq_none hi] at h
  exact nomatch h

/-- R76 step 3: the DIRTY buffer latest in the LRU order that is not current is marked and queued, unless a mark is out. -/
theorem markEviction_spec (d : Device) :
    let victim : Nat → Prop := fun j => (d.buf j).state = .dirty ∧ d.bufCurrent j = false
    ((∀ i < 8, (d.buf i).evict = false) → ∀ a i b, d.pool.lru = a ++ i :: b → victim i → (∀ j ∈ b, ¬ victim j) →
      d.markEviction = some { d with pool := { d.pool with
        buffers := d.pool.buffers.set i { d.buf i with evict := true }
        queue := if i ∈ d.pool.queue then d.pool.queue else d.pool.queue ++ [i] } })
    ∧ ((∃ i < 8, (d.buf i).evict = true) ∨ (∀ j ∈ d.pool.lru, ¬ victim j) → d.markEviction = none) := by
  intro victim
  have hv : ∀ j, ((d.buf j).state == .dirty && !d.bufCurrent j) = true ↔ victim j := fun j => by
    rw [Bool.and_eq_true, beq_iff_eq, Bool.not_eq_true']
  have hany : bufferIds.any (fun i => (d.buf i).evict) = true ↔ ∃ i < 8, (d.buf i).evict = true := by
    rw [List.any_eq_true]
    exact exists_congr fun i => and_congr List.mem_range Iff.rfl
  refine ⟨fun hn a i b hl hi hb => ?_, fun h => ?_⟩
  · have hne : ¬ bufferIds.any (fun i => (d.buf i).evict) = true := fun g => by
      obtain ⟨j, hj, he⟩ := hany.mp g
      exact nomatch (hn j hj).symm.trans he
    refine (if_neg hne).trans ?_
    rw [find?_reverse_eq_some (p := fun i => (d.buf i).state == .dirty && !d.bufCurrent i) hl ((hv i).mpr hi)
      fun j hj => Bool.eq_false_iff.mpr (mt (hv j).mp (hb j hj)), Option.map_some]
    have hs : ((d.setBuf i { d.buf i with evict := true }).buf i).state = .dirty :=
      (congrArg TrackBuffer.state (setBuf_self (buf_lt_of_dirty hi.1) { d.buf i with evict := true })).trans hi.1
    obtain ⟨hout, hin⟩ := joinQueue_dirty hs
    by_cases hq : i ∈ d.pool.queue
    · rw [hin hq, if_pos hq]
      rfl
    · rw [hout hq, if_neg hq]
      rfl
  · rcases h with h | h
    · exact if_pos (hany.mpr h)
    · unfold Device.markEviction
      rw [find?_reverse_eq_none (p := fun i => (d.buf i).state == .dirty && !d.bufCurrent i) fun j hj =>
        Bool.eq_false_iff.mpr (mt (hv j).mp (h j hj))]
      split <;> rfl

/-- R77: with nothing else owed, the wait list is served. -/
theorem micro_waits {d : Device} (ho : d.banks.entryOwed = false) (hn : d.news = []) (hi : bufferIds.find? d.workIdle = none)
    (h0 : d.serveLookup .u0 = none) (h1 : d.serveLookup .u1 = none) :
    ((∃ q ∈ d.pool.waits, d.purpose q = .prefetch) → d.micro = some { d with pool := { d.pool with
      waits := d.pool.waits.filter (fun q => d.purpose q != .prefetch) } })
    ∧ ((∀ q ∈ d.pool.waits, d.purpose q ≠ .prefetch) → ∀ k, d.firstWait = some k →
      (∀ i, d.allocatable = some i → d.micro = some
        (Device.startFill { d with pool := { d.pool with waits := d.pool.waits.filter (fun x => x != k) } } i k))
      ∧ (d.allocatable = none → (∀ e, d.markEviction = some e → d.micro = some e)
        ∧ (d.markEviction = none → d.micro = d.flushDone))) := by
  have hm : d.micro = orElse d.dropStaleWaits fun _ => orElse d.serveWait fun _ => d.flushDone := by
    unfold Device.micro
    rw [ho, hn, hi, h0, h1]
    rfl
  have hany : d.pool.waits.any (fun k => d.purpose k == .prefetch) = true ↔ ∃ q ∈ d.pool.waits, d.purpose q = .prefetch := by
    rw [List.any_eq_true]
    exact exists_congr fun q => and_congr Iff.rfl beq_iff_eq
  refine ⟨fun h => ?_, fun h k hk => ?_⟩
  · rw [hm, show d.dropStaleWaits = some { d with pool := { d.pool with
      waits := d.pool.waits.filter (fun k => d.purpose k != .prefetch) } } from if_pos (hany.mpr h)]
    rfl
  · have hm' : d.micro = orElse d.serveWait fun _ => d.flushDone := by
      rw [hm, show d.dropStaleWaits = none from if_neg fun g => by
        obtain ⟨q, hq, hp⟩ := hany.mp g
        exact h q hq hp]
      rfl
    refine ⟨fun i ha => ?_, fun ha => ⟨fun e he => ?_, fun he => ?_⟩⟩
    · rw [hm']
      unfold Device.serveWait
      rw [hk]
      dsimp only
      rw [ha]
      rfl
    all_goals
      rw [hm']
      unfold Device.serveWait
      rw [hk]
      dsimp only
      rw [ha]
      dsimp only
      rw [he]
      rfl

/-! ### The bytes of a fill (R78, R79) -/

theorem bytesAt_length (bs : List Byte) (o n : Nat) : (bytesAt bs o n).length = n := by
  unfold bytesAt
  rw [List.length_map, List.length_range]

/-- R78, R79: the place of an image block's bytes within the data area of a track. -/
theorem dataPart_read (start size b : Nat) (bytes ys : List Byte) (mem : Mem) (hl : ys.length = (dataPart start size b bytes).2.length)
    (o : Nat) (ho : o < size) : (Mem.write mem (dataPart start size b bytes).1 ys).read o =
      if (start + o) / 512 = b then ys.getD (o - (dataPart start size b bytes).1) 0 else mem.read o := by
  have hp : (dataPart start size b bytes).1 = max start (b * 512) - start := rfl
  have hlen : ys.length = min (start + size) (b * 512 + 512) - max start (b * 512) := hl.trans (bytesAt_length _ _ _)
  rw [hp]
  by_cases hb : (start + o) / 512 = b
  · rw [if_pos hb]
    have hin : max start (b * 512) - start ≤ o ∧ o - (max start (b * 512) - start) < ys.length := by
      rw [hlen]
      omega
    have hread := Mem.read_write_in mem (max start (b * 512) - start) ys _ hin.2
    rwa [Nat.add_sub_cancel' hin.1] at hread
  · rw [if_neg hb, Mem.read_write_out]
    rw [hlen]
    omega

/-- R78: what is taken of a block. -/
theorem takeBlock_spec (x : TrackBuffer) (m : MountRecord) (k : TrackKey) (b : Nat) (bs : List Byte) :
    (∀ o < x.sectors.length * x.dataLen, (x.takeBlock m k b bs).data.read o
      = if (m.offsetOf k.cyl k.head + o) / 512 = b then byteAt bs ((m.offsetOf k.cyl k.head + o) % 512) else x.data.read o)
    ∧ (x.takeBlock m k b bs).sectors = x.sectors.map (fun t =>
      let f := byteAt bs (m.flagOffset k.cyl k.head t.logical % 512)
      if m.hasFlagMap = true ∧ m.flagOffset k.cyl k.head t.logical / 512 = b then
        { t with flags := ⟨f.getLsbD 0, f.getLsbD 1, f.getLsbD 2, f.getLsbD 3, t.flags.unreadable⟩ }
      else t) := by
  refine ⟨fun o ho => ?_, List.map_congr_left fun t _ => if_congr (m.touches_iff k 0 t b).2 rfl rfl⟩
  refine (dataPart_read _ _ b bs _ x.data rfl o ho).trans (if_ctx_congr Iff.rfl (fun hb => ?_) fun _ => rfl)
  have hlt : o - (max (m.offsetOf k.cyl k.head) (b * 512) - m.offsetOf k.cyl k.head) <
      min (m.offsetOf k.cyl k.head + x.sectors.length * x.dataLen) (b * 512 + 512) - max (m.offsetOf k.cyl k.head) (b * 512) := by
    omega
  refine (byteAt_bytesAt bs _ _ _ hlt).trans (congrArg (byteAt bs) ?_)
  omega

/-- R79 a: the data area of a track with the bytes of lost blocks 00. -/
def zeroBlocks (start size : Nat) (lost : List Nat) (mem : Mem) : Mem :=
  lost.foldl (fun mem b => Mem.write mem (dataPart start size b []).1 (List.replicate (dataPart start size b []).2.length 0)) mem

theorem zeroBlocks_read (start size : Nat) {o : Nat} (ho : o < size) : ∀ (lost : List Nat) (mem : Mem),
    (zeroBlocks start size lost mem).read o = if (start + o) / 512 ∈ lost then 0 else mem.read o
  | [], mem => (if_neg List.not_mem_nil).symm
  | b :: lost, mem => by
    have hstep := dataPart_read start size b [] (List.replicate (dataPart start size b []).2.length 0) mem
      List.length_replicate o ho
    have hzero : ∀ n j, (List.replicate n (0 : Byte)).getD j 0 = 0 := fun n j => by
      rw [List.getD_eq_getElem?_getD, List.getElem?_replicate]
      split <;> rfl
    rw [hzero] at hstep
    rw [zeroBlocks, List.foldl_cons, ← zeroBlocks, zeroBlocks_read start size ho lost, hstep]
    by_cases h1 : (start + o) / 512 ∈ lost
    · rw [if_pos h1, if_pos (List.mem_cons_of_mem _ h1)]
    · rw [if_neg h1]
      exact if_congr ⟨fun h => List.mem_cons.mpr (.inl h), fun h => (List.mem_cons.mp h).resolve_right h1⟩ rfl rfl

/-- R79 a: what lost blocks leave of the data and of the sectors. -/
theorem degrade_spec (x : TrackBuffer) (m : MountRecord) (k : TrackKey) (lost : List Nat) :
    let inBlock : Sector → Nat → Prop := fun t b =>
      (∃ j < x.dataLen, (m.dataOffset k.cyl k.head t.logical x.dataLen + j) / 512 = b)
        ∨ m.hasFlagMap = true ∧ m.flagOffset k.cyl k.head t.logical / 512 = b
    (∀ o < x.sectors.length * x.dataLen, (x.degrade m k lost).data.read o
      = if (m.offsetOf k.cyl k.head + o) / 512 ∈ lost then 0 else x.data.read o)
    ∧ (x.degrade m k lost).sectors.length = x.sectors.length
    ∧ ∀ (p : Nat) (t : Sector), x.sectors[p]? = some t →
      ((∃ b ∈ lost, inBlock t b) → (x.degrade m k lost).sectors[p]?
        = some { t with flags := { t.flags with unreadable := true } })
      ∧ ((∀ b ∈ lost, ¬ inBlock t b) → (x.degrade m k lost).sectors[p]? = some t) := by
  intro inBlock
  have htouch : ∀ t, lost.any (fun b => m.dataTouches k x.dataLen t b || m.flagTouches k t b) = true ↔ ∃ b ∈ lost, inBlock t b :=
    fun t => by
    rw [List.any_eq_true]
    refine exists_congr fun b => and_congr Iff.rfl ?_
    rw [Bool.or_eq_true]
    exact or_congr (m.touches_iff k x.dataLen t b).1 (m.touches_iff k x.dataLen t b).2
  have hsectors : (x.degrade m k lost).sectors = x.sectors.map (fun t =>
      if lost.any (fun b => m.dataTouches k x.dataLen t b || m.flagTouches k t b) then
        { t with flags := { t.flags with unreadable := true } }
      else t) := rfl
  refine ⟨fun o ho => zeroBlocks_read _ _ ho lost x.data, by rw [hsectors, List.length_map], fun p t hp => ⟨fun h => ?_, fun h => ?_⟩⟩
  · rw [hsectors, List.getElem?_map, hp, Option.map_some, if_pos ((htouch t).mpr h)]
  · rw [hsectors, List.getElem?_map, hp, Option.map_some, if_neg fun g => by
      obtain ⟨b, hb, hin⟩ := (htouch t).mp g
      exact h b hb hin]

/-! ### The end of a run and of a fill (R78, R79, R82) -/

/-- R78, R79: the end of a run of a fill. -/
theorem deliver_filling {d : Device} {i card n : Nat} {k : TrackKey} {m : MountRecord} {w : Work}
    (hs : (d.buf i).state = .filling) (hk : (d.buf i).key = some k) (hw : (d.buf i).work = some w)
    (hst : w.stage = .reading card n) (hm : d.images.get k.unit = some m) :
    (∀ data, d.deliver { who := .buffer i, ok := true, data := data } = d.setBuf i
      { (d.buf i).takeBlocks m k (w.todo.take n) data with work := some { w with todo := w.todo.drop n, stage := .next } })
    ∧ d.deliver { who := .buffer i, ok := false, data := [] } = d.setBuf i
      { (d.buf i).degrade m k ((w.todo.take n).map WorkBlock.image) with
        work := some { w with todo := w.todo.drop n, stage := .next, taken := [] } } := by
  refine ⟨fun data => ?_, ?_⟩
  · show d.runSucceeded i data = _
    unfold Device.runSucceeded
    dsimp only
    split
    · next k' w' hk' hw' =>
      obtain rfl : k = k' := Option.some.inj (hk.symm.trans hk')
      obtain rfl : w = w' := Option.some.inj (hw.symm.trans hw')
      rw [hm, hst]
      dsimp only
      rw [hs]
      rfl
    · next h => exact absurd hw (h k w hk)
  · show d.runFailed i = _
    have hf : d.runFailed i = d.loseBlocks i n := by
      unfold Device.runFailed
      rw [hw]
      dsimp only
      rw [hst]
    rw [hf]
    exact (loseBlocks_eq hk hw hm).1 hs

/-- R119 b: what the decode of a PENDING capture leaves, and the buffers that stop being current with it. -/
theorem decodePending_spec {d : Device} {i : Nat} {u : UnitId} {c : Capture} (hc : d.captures.get u = some c)
    (hp : c.state = .pending) (hk : (d.buf i).key = some c.key) :
    let e := (d.decode (some i) c).setCapture u none
    ∃ (n : Nat) (joined : List Nat), joined.Nodup
      ∧ (∀ j, j ∈ joined ↔ j < 8 ∧ d.bufCurrent j = true ∧ e.bufCurrent j = false ∧ (e.buf j).state = .dirty
        ∧ j ∉ e.pool.queue)
      ∧ d.decodePending i u = { e with freeCount := n, pool := { e.pool with queue := e.pool.queue ++ joined } } := by
  intro e
  have hd : d.decodePending i u = e.joinAll (bufferIds.filter (fun j => d.bufCurrent j && !e.bufCurrent j)) := by
    unfold Device.decodePending
    rw [hc]
    exact if_pos (by rw [hp, hk, Bool.and_eq_true]; exact ⟨rfl, beq_self_eq_true _⟩)
  obtain ⟨n, l, hnd, hl, hj⟩ := Device.joinAll_spec e (bufferIds.filter (fun j => d.bufCurrent j && !e.bufCurrent j))
    (List.nodup_range.filter _)
  refine ⟨n, l, hnd, fun j => ?_, hd.trans hj⟩
  rw [hl, List.mem_filter, bufferIds, List.mem_range, Bool.and_eq_true, Bool.not_eq_true', and_assoc, and_assoc]
  exact Iff.rfl

theorem applyWaiting_of_waiting {d : Device} {c : SectorCmd} (h : d.port.engine = .executing (.sectors c)) (i : Nat) :
    d.applyWaiting i c.key = d.applySectors i c := by
  unfold Device.applyWaiting
  rw [h]
  exact if_pos (beq_self_eq_true _)

theorem captureWaits_iff (d : Device) (k : TrackKey) :
    d.captureWaits k = true ↔ ∃ c, d.captures.get k.unit = some c ∧ c.state = .pending ∧ c.key = k := by
  unfold Device.captureWaits
  cases d.captures.get k.unit with
  | none => exact ⟨nofun, fun ⟨_, h, _⟩ => nomatch h⟩
  | some c =>
    dsimp only
    rw [Bool.and_eq_true, beq_iff_eq, beq_iff_eq]
    exact ⟨fun h => ⟨c, rfl, h.1, h.2⟩, fun ⟨_, h, g⟩ => Option.some.inj h ▸ g⟩

/-- R82: a fill with no block left completes. -/
theorem completeFill_eq {d : Device} {i : Nat} {k : TrackKey} (hk : (d.buf i).key = some k) :
    let r := d.units.get k.unit
    let e := { d with pool := { d.pool with
      buffers := d.pool.buffers.set i { d.buf i with
        state := .clean, work := none
        completion := if r.motor = true ∧ r.atSpeed = true then some r.phase else none }
      lru := i :: d.pool.lru.filter (fun j => j != i) } }
    (e.buf i).key = some k
    ∧ d.completeFill i = if d.purpose k = .current then (e.useFilled i k).requestFill { k with head := 1 - k.head }
      else e.useFilled i k := by
  intro r e
  have hphase : d.completionPhase k.unit = if r.motor = true ∧ r.atSpeed = true then some r.phase else none :=
    if_congr Bool.and_eq_true_iff rfl rfl
  have hkey : (e.buf i).key = some k := by
    have hb : e.buf i = _ := (Pool.buf_set d.pool i i _).trans (if_pos ⟨rfl, buf_lt_of_key hk⟩)
    exact (congrArg TrackBuffer.key hb).trans hk
  refine ⟨hkey, ?_⟩
  unfold Device.completeFill
  dsimp only
  split
  · next h => exact nomatch hk.symm.trans h
  · next k' hk' =>
    obtain rfl : k = k' := Option.some.inj (hk.symm.trans hk')
    rw [hphase]
    exact if_congr beq_iff_eq rfl rfl

/-- Settles O47: the tests of a sector command before its track, and the fill that it waits on. -/
theorem sectorCommandsAreJudged : Obligations.SectorCommandsAreJudged := by
  unfold Obligations.SectorCommandsAreJudged
  refine ⟨fun s i code c ub cb hb r n m hi hcmd hr => ?_, requestFill_cases, allocatable_spec, ?_, blocksOf_spec, ?_, ?_, ?_, ?_, ?_⟩
  · obtain ⟨he, hcode, hro⟩ : effect i s.dev = s.dev.openFrame.judgeSectors c ∧ sectorCode c.op = code
        ∧ (s.dev.mounted c.key.unit = true → (c.op.writes && s.dev.openFrame.readOnlyImage c.key.unit) = false) := by
      obtain ⟨hread, hverify, hwrite⟩ := effect_sector (d := s.dev) hi (ub := ub) (cb := cb) (hb := hb) (r := r) (n := n)
        (m := m) (c := c)
      rcases hcmd with ⟨rfl, rfl, hp⟩ | ⟨rfl, rfl, hp⟩ | ⟨del, rfl, rfl, hm, hp, hq⟩
      · have hop := (sectorParams_eq_some hp).2.2.2.2.2.2.2.2.2
        exact ⟨hread hp, by rw [hop]; rfl, fun _ => by rw [hop]; rfl⟩
      · have hop := (sectorParams_eq_some hp).2.2.2.2.2.2.2.2.2
        exact ⟨hverify hp, by rw [hop]; rfl, fun _ => by rw [hop]; rfl⟩
      · have hop := (sectorParams_eq_some hp).2.2.2.2.2.2.2.2.2
        refine ⟨hwrite del hm hp, by rw [hop]; rfl, fun hmt => ?_⟩
        obtain ⟨q, hqi⟩ := Option.isSome_iff_exists.mp hmt
        have hrd : s.dev.openFrame.readOnlyImage c.key.unit = false := by
          unfold Device.readOnlyImage
          rw [show s.dev.openFrame.images.get c.key.unit = some q from hqi]
          exact hq q hqi
        rw [hrd, Bool.and_false]
    obtain ⟨hoff, hunmounted, hjudge⟩ := judgeSectors_cases s.dev.openFrame c hr
    rw [hcode] at hoff hunmounted hjudge
    refine ⟨fun h => answers_at_once hi (he.trans (hoff h)), fun h1 h2 => answers_at_once hi (he.trans (hunmounted h1 h2)),
      fun h1 h2 => ?_⟩
    obtain ⟨hno, hformat⟩ := (hjudge h1 h2).2 (hro h2)
    refine ⟨fun h => answers_at_once hi (he.trans (hno h)), fun f hf => ⟨fun hl => answers_at_once hi
      (he.trans ((hformat f hf).1 hl)), fun hl hh => Follows.leads (he.trans (((hformat f hf).2 hl).trans ?_))⟩⟩
    unfold Device.serveSectors
    dsimp only
    rw [show (s.dev.openFrame.execute (.sectors c)).readableHolder c.key = none from hh]
    rfl
  · intro d i k m l hm hl given
    unfold Device.startFill
    rw [hm, hl]
    rfl
  · intro d ho hn hi h0 h1 waits
    obtain ⟨hstale, hserve⟩ := micro_waits ho hn hi h0 h1
    refine ⟨hstale, ?_⟩
    intro k hp hk victim
    obtain ⟨hstart, hmark⟩ := hserve hp k (firstWait_eq hk)
    obtain ⟨hsome, hnone⟩ := markEviction_spec d
    exact ⟨hstart, fun ha he a i b hl hi hb => (hmark ha).1 _ (hsome he a i b hl hi hb), fun ha h => (hmark ha).2 (hnone h)⟩
  · intro d i k m w card n hs hk hw hst hm put left
    exact deliver_filling hs hk hw hst hm
  · intro x m k start inBlock
    exact ⟨fun _ => rfl, fun _ _ _ => rfl, takeBlock_spec x m k, degrade_spec x m k⟩
  · intro d i k u
    refine ⟨fun c hc hk => hk ▸ applyWaiting_of_waiting hc i, applyWaiting_of_not_waiting d i k, ?_⟩
    intro c hc hp hk
    exact decodePending_spec hc hp hk
  · intro d i k w ho hn hi hs hk hw ht r e asks captured commanded
    obtain ⟨hkey, hfill⟩ := completeFill_eq hk
    have hm : d.micro = some (asks (e.useFilled i k)) := by
      have hon : d.workOn i = d.completeFill i := by
        unfold Device.workOn
        split
        · next k' w' hk' hw' =>
          obtain rfl : k = k' := Option.some.inj (hk.symm.trans hk')
          obtain rfl : w = w' := Option.some.inj (hw.symm.trans hw')
          rw [ht]
          exact if_pos (beq_iff_eq.mpr hs)
        · next h => exact absurd hw (h k w hk)
      unfold Device.micro
      rw [ho, hn, hi]
      exact congrArg some (hon.trans hfill)
    obtain ⟨hdecode, happly, hboth⟩ := Device.useFilled_spec e i k
    have hcap : e.captureWaits k = true ↔ captured := captureWaits_iff e k
    have hcap' : ¬ captured → e.captureWaits k = false := fun h => Bool.eq_false_iff.mpr (mt hcap.mp h)
    have hnocmd : (∀ c, ¬ commanded c) → ∀ c, e.port.engine = .executing (.sectors c) → c.key ≠ k := fun h c hc hk =>
      h c ⟨hc, hk⟩
    rw [hm]
    refine ⟨fun h1 h2 => ?_, fun c h1 h2 => ?_, fun _ h2 => ?_, fun _ _ => ?_⟩
    · rw [happly (hcap' h1) hkey, applyWaiting_of_not_waiting e i k (hnocmd h2)]
    · obtain ⟨hc, rfl⟩ := h2
      rw [happly (hcap' h1) hkey, applyWaiting_of_waiting (d := e) hc]
    · rw [hdecode (hnocmd h2)]
    · obtain ⟨x, hx⟩ := hboth
      exact ⟨x, hx.imp (fun h => congrArg (fun z => some (asks z)) h) (fun h => congrArg (fun z => some (asks z)) h)⟩

end Sys2Proof.Proofs
end
